-- ==== Sys2Proof/Word.lean ====
section
/-! DEFINITION. The word types of a Tiesque part (R3): bit 0 is the least significant bit. -/

namespace Sys2Proof

/-- One byte of memory. -/
abbrev Byte := BitVec 8

/-- A register or instruction word. -/
abbrev Word := BitVec 32

/-- A 64-bit value: a register pair, a virtual address, a literal. -/
abbrev DWord := BitVec 64

/-- A set of lane indices of one group: bit L is set for lane L (R168). -/
abbrev LaneMask := BitVec 64

end Sys2Proof
end

