-- ==== Sys2Proof/Machine/Bits.lean ====
section
/-! DEFINITION. Bit fields, two's complement and little-endian bytes (R3, R6, R94), and the one sparse store that
memory, register stacks and tables are held in. -/

namespace Sys2Proof.Machine

/-- `x[hi:lo]` as an unsigned integer (R6). -/
def bits (x hi lo : Nat) : Nat := (x >>> lo) % 2 ^ (hi + 1 - lo)

/-- Bit `i` of `x`. -/
def bit (x i : Nat) : Bool := x.testBit i

/-- 0 or 1. -/
def b2n (b : Bool) : Nat := if b then 1 else 0

/-- The w-bit pattern `x` read as two's complement (R94). -/
def sgn (w x : Nat) : Int := if x < 2 ^ (w - 1) then (x : Int) else (x : Int) - 2 ^ w

/-- An integer reduced modulo 2^w (R94). -/
def wrap (w : Nat) (i : Int) : Nat := (i % (2 ^ w : Int)).toNat

/-- The w-bit pattern `x` sign-extended to `v` bits. -/
def sext (w v x : Nat) : Nat := wrap v (sgn w x)

/-- A field value placed at bit `lo`; a record is the sum of its fields. -/
def put (lo v : Nat) : Nat := v <<< lo

/-- The `n` bytes of `x`, lowest first (R3). -/
def leBytes : Nat → Nat → List Byte
  | 0, _ => []
  | n + 1, x => BitVec.ofNat 8 x :: leBytes n (x >>> 8)

/-- The value of bytes, lowest first (R3). -/
def ofLe : List Byte → Nat
  | [] => 0
  | b :: bs => b.toNat + 256 * ofLe bs

/-- `for i from 0 to n - 1, ascending` (R6). -/
def forN {α : Type} (n : Nat) (f : Nat → α → α) (a : α) : α :=
  (List.range n).foldl (fun s i => f i s) a

/-- Rounding up to a multiple. -/
def roundUp (x m : Nat) : Nat := (x + m - 1) / m * m

/-- The sign-extended 57-bit form that a global address must have (R186, R246). -/
def canonicalVa (x : Nat) : Bool := let h := bits x 63 56; h == 0 || h == 255

/-- The population count of the low `n` bits. -/
def popcount (n x : Nat) : Nat := forN n (fun i c => c + b2n (bit x i)) 0

/-- Lane indices below `n` whose bit is set in a mask, ascending. -/
def maskList (n : Nat) (m : LaneMask) : List Nat := (List.range n).filter (fun i => m.getLsbD i)

/-- The mask of a list of lane indices. -/
def maskOf (l : List Nat) : LaneMask := l.foldl (fun m i => m ||| ((1#64) <<< i)) 0#64

/-- A sparse store: (key, value) pairs with strictly rising keys and no value equal to the default. -/
abbrev Sparse (α : Type) := List (Nat × α)

/-- What key `a` holds; a key not listed holds the default. -/
def Sparse.get {α : Type} (d : α) : Sparse α → Nat → α
  | [], _ => d
  | (k, v) :: m, a => if k = a then v else if a < k then d else Sparse.get d m a

/-- The store with `x` at key `a`; a default value is not listed. (The keys dropped with a removed entry are none when keys
rise strictly.) -/
def Sparse.set {α : Type} [DecidableEq α] (d : α) : Sparse α → Nat → α → Sparse α
  | [], a, x => if x = d then [] else [(a, x)]
  | (k, v) :: m, a, x =>
    if a < k then (if x = d then (k, v) :: m else (a, x) :: (k, v) :: m)
    else if a = k then (if x = d then m.dropWhile (fun e => decide (e.1 ≤ a)) else (a, x) :: m)
    else (k, v) :: Sparse.set d m a x

/-- The canonical form: keys strictly rising from `lo`, no default listed. -/
def Sparse.wfFrom {α : Type} [DecidableEq α] (d : α) : Nat → Sparse α → Bool
  | _, [] => true
  | lo, (k, v) :: m => decide (lo ≤ k) && decide (v ≠ d) && Sparse.wfFrom d (k + 1) m

/-- The canonical form of a sparse store. -/
def Sparse.wf {α : Type} [DecidableEq α] (d : α) (m : Sparse α) : Bool := Sparse.wfFrom d 0 m

/-- Memory: a list of cells in canonical form; an unlisted byte reads 0 (log 2). -/
abbrev Memory := List Host.Cell

/-- One byte of memory. -/
def Memory.read (m : Memory) (a : Nat) : Byte := Sparse.get 0#8 m a

/-- Memory with one byte written. -/
def Memory.write (m : Memory) (a : Nat) (b : Byte) : Memory := Sparse.set 0#8 m a b

/-- The canonical form of memory. -/
def Memory.wf (m : Memory) : Bool := Sparse.wf 0#8 m

/-- The bytes at a, a + 1, …, a + n - 1. -/
def Memory.readBytes (m : Memory) (a : Nat) : Nat → List Byte
  | 0 => []
  | n + 1 => m.read a :: Memory.readBytes m (a + 1) n

/-- Memory with bytes written from `a` up. -/
def Memory.writeBytes : Memory → Nat → List Byte → Memory
  | m, _, [] => m
  | m, a, b :: bs => Memory.writeBytes (m.write a b) (a + 1) bs

/-- The little-endian value of the n bytes at `a` (R3). -/
def Memory.readN (m : Memory) (a n : Nat) : Nat := ofLe (m.readBytes a n)

/-- Memory with the n low bytes of `x` written at `a`, little-endian (R3). -/
def Memory.writeN (m : Memory) (a n x : Nat) : Memory := m.writeBytes a (leBytes n x)

/-- The first element of a list that passes a test replaced by `f` of it. -/
def updFirst {α : Type} (p : α → Bool) (f : α → α) : List α → List α
  | [] => []
  | x :: xs => if p x then f x :: xs else x :: updFirst p f xs

/-- A list with its i-th element replaced by `f` of it. -/
def updAt {α : Type} (f : α → α) : Nat → List α → List α
  | _, [] => []
  | 0, x :: xs => f x :: xs
  | n + 1, x :: xs => x :: updAt f n xs

end Sys2Proof.Machine
end

