-- ==== Sys2Proof/Machine/Num.lean ====
section
/-! DEFINITION. Number formats, rounding and the exact arithmetic under it (R91 to R99, R103 to R105). A real value is
held exactly; nothing rounds except `round`. -/

namespace Sys2Proof.Machine

/-- The floating-point element formats (R91). -/
inductive Fmt where
  | fp32 | fp16 | bf16 | e4m3 | e5m2 | e2m1
  deriving DecidableEq, Repr, Inhabited

/-- Total width in bits (R91). -/
def Fmt.width : Fmt → Nat
  | .fp32 => 32 | .fp16 => 16 | .bf16 => 16 | .e4m3 => 8 | .e5m2 => 8 | .e2m1 => 4

/-- Fraction width m (R91). -/
def Fmt.frac : Fmt → Nat
  | .fp32 => 23 | .fp16 => 10 | .bf16 => 7 | .e4m3 => 3 | .e5m2 => 2 | .e2m1 => 1

/-- Exponent bias (R91). -/
def Fmt.bias : Fmt → Nat
  | .fp32 => 127 | .fp16 => 15 | .bf16 => 127 | .e4m3 => 7 | .e5m2 => 15 | .e2m1 => 1

/-- Whether the format has infinities (R91). -/
def Fmt.hasInf : Fmt → Bool
  | .e4m3 => false | .e2m1 => false | _ => true

/-- The encoding of the largest finite value, sign 0 (R91). -/
def Fmt.maxEnc : Fmt → Nat
  | .fp32 => 0x7F7FFFFF | .fp16 => 0x7BFF | .bf16 => 0x7F7F | .e4m3 => 0x7E | .e5m2 => 0x7B | .e2m1 => 0x7

/-- The encoding of +infinity, where the format has one (R91). -/
def Fmt.infEnc : Fmt → Nat
  | .fp32 => 0x7F800000 | .fp16 => 0x7C00 | .bf16 => 0x7F80 | .e4m3 => 0x7F | .e5m2 => 0x7C | .e2m1 => 0x7

/-- The canonical NaN, sign 0 (R93); E2M1 has none. -/
def Fmt.nanEnc : Fmt → Nat
  | .fp32 => 0x7FC00000 | .fp16 => 0x7E00 | .bf16 => 0x7FC0 | .e4m3 => 0x7F | .e5m2 => 0x7E | .e2m1 => 0

/-- emin, the exponent of the smallest normal (R96). -/
def Fmt.emin (f : Fmt) : Int := 1 - (f.bias : Int)

/-- A real value: its magnitude is mant × 2^exp, or, with `sticky`, lies strictly between mant × 2^exp and
(mant + 1) × 2^exp. A zero keeps its sign. -/
structure Rl where
  neg : Bool
  mant : Nat
  exp : Int
  sticky : Bool := false
  deriving DecidableEq, Repr, Inhabited

/-- A value of a format: NaN (signalling or not), an infinity, or a real (R92, R93). -/
inductive Val where
  | nan (signalling : Bool)
  | inf (neg : Bool)
  | fin (r : Rl)
  deriving DecidableEq, Repr, Inhabited

/-- FP exception flags in the order of `fstat` [4:0] (R100). -/
abbrev Flags := BitVec 5
def flInvalid : Flags := 1#5
def flDivZero : Flags := 2#5
def flOverflow : Flags := 4#5
def flUnderflow : Flags := 8#5
def flInexact : Flags := 16#5

/-- Rounding modes, in RND order (R62). -/
inductive Rnd where
  | rne | rtz | rup | rdn
  deriving DecidableEq, Repr, Inhabited

/-- The mode a RND field names (R62). -/
def Rnd.ofField (r : BitVec 2) : Rnd :=
  if r = 0#2 then .rne else if r = 1#2 then .rtz else if r = 2#2 then .rup else .rdn

/-- The value of an encoding (R91 to R93). -/
def Fmt.val (f : Fmt) (x : Nat) : Val :=
  let m := f.frac
  let w := f.width
  let s := bit x (w - 1)
  let e := bits x (w - 2) m
  let fr := x % 2 ^ m
  let emax := 2 ^ (w - 1 - m) - 1
  let finite := if e = 0 then Val.fin ⟨s, fr, f.emin - m, false⟩
    else Val.fin ⟨s, 2 ^ m + fr, (e : Int) - f.bias - m, false⟩
  match f with
  | .e2m1 => finite
  | .e4m3 => if e = emax ∧ fr = 7 then .nan false else finite
  | .e5m2 => if e = emax then (if fr = 0 then .inf s else .nan false) else finite
  | _ => if e = emax then (if fr = 0 then .inf s else .nan (decide (fr < 2 ^ (m - 1)))) else finite

/-- Where a magnitude lies between two neighbouring multiples of the spacing. -/
inductive Frac where
  | exact | below | half | above
  deriving DecidableEq, Repr, Inhabited

/-- floor(|x| / 2^q), and where the rest lies. -/
def Rl.split (r : Rl) (q : Int) : Nat × Frac :=
  let k := q - r.exp
  if k ≤ 0 then (r.mant <<< (-k).toNat, if r.sticky then .below else .exact)
  else if (r.mant.log2 : Int) + 1 < k then (0, if r.mant = 0 ∧ r.sticky = false then .exact else .below)
  else
    let k := k.toNat
    let n := r.mant >>> k
    let rem := r.mant % 2 ^ k
    let h := 2 ^ (k - 1)
    (n, if rem = 0 ∧ r.sticky = false then .exact
        else if rem < h then .below
        else if rem = h ∧ r.sticky = false then .half else .above)

/-- `choose` of R96 on a floor and the place of the rest. -/
def chooseInt (mode : Rnd) (neg : Bool) (n : Nat) : Frac → Nat
  | .exact => n
  | fr => match mode with
    | .rne => match fr with
      | .below => n
      | .half => n + n % 2
      | _ => n + 1
    | .rtz => n
    | .rup => if neg then n else n + 1
    | .rdn => if neg then n + 1 else n

/-- The sign bit of a format placed above a magnitude's encoding. -/
def Fmt.withSign (f : Fmt) (neg : Bool) (enc : Nat) : Nat :=
  if neg then enc + 2 ^ (f.width - 1) else enc

/-- The result of an overflow (R97). -/
def overflowResult (f : Fmt) (mode : Rnd) (neg sat : Bool) : Nat :=
  let maxv := f.withSign neg f.maxEnc
  let infv := if f = .e4m3 then f.nanEnc else f.withSign neg f.infEnc
  if f = .e2m1 ∨ sat = true then maxv else
  match mode with
  | .rne => infv
  | .rtz => maxv
  | .rup => if neg then maxv else infv
  | .rdn => if neg then infv else maxv

/-- R96 on a finite value. With e ≥ emin and n the chosen multiple of the spacing, (e - emin) × 2^m + n is the encoding
of the magnitude, also for subnormals and for a carry into the next exponent. -/
def roundFin (f : Fmt) (mode : Rnd) (sat : Bool) (r : Rl) : Nat × Flags :=
  if r.mant = 0 ∧ r.sticky = false then (f.withSign r.neg 0, 0#5) else
  let m := f.frac
  let e := max ((r.mant.log2 : Int) + r.exp) f.emin
  let (n0, fr) := r.split (e - m)
  let n := chooseInt mode r.neg n0 fr
  let enc := (e - f.emin).toNat * 2 ^ m + n
  let inx := if fr = .exact then 0#5 else flInexact
  if enc > f.maxEnc then (overflowResult f mode r.neg sat, inx ||| flOverflow ||| flInexact)
  else (f.withSign r.neg enc, inx ||| (if fr ≠ .exact ∧ enc < 2 ^ m then flUnderflow else 0#5))

/-- `round(x, f, mode, sat)` of R96: the encoding and the flags it sets. -/
def round (f : Fmt) (mode : Rnd) (sat : Bool) : Val → Nat × Flags
  | .nan sg =>
    if f = .e2m1 then (0, flInvalid) else (f.nanEnc, if sg then flInvalid else 0#5)
  | .inf s =>
    if f.hasInf = true ∧ sat = false then (f.withSign s f.infEnc, 0#5)
    else if f = .e4m3 ∧ sat = false then (f.nanEnc, flInvalid)
    else (f.withSign s f.maxEnc, 0#5)
  | .fin r => roundFin f mode sat r

/-- The largest and smallest integers of a width (R94). -/
def intMax (w : Nat) (signed : Bool) : Int := if signed then 2 ^ (w - 1) - 1 else 2 ^ w - 1
def intMin (w : Nat) (signed : Bool) : Int := if signed then -(2 ^ (w - 1)) else 0

/-- Rounding into an integer format (R98). -/
def roundInt (w : Nat) (signed : Bool) (mode : Rnd) (sat : Bool) : Val → Nat × Flags
  | .nan _ => (0, if sat then 0#5 else flInvalid)
  | .inf s => (wrap w (if s then intMin w signed else intMax w signed), if sat then 0#5 else flInvalid)
  | .fin r =>
    let (n0, fr) := r.split 0
    let n : Int := chooseInt mode r.neg n0 fr
    let n := if r.neg then -n else n
    if n > intMax w signed then (wrap w (intMax w signed), if sat then 0#5 else flInvalid)
    else if n < intMin w signed then (wrap w (intMin w signed), if sat then 0#5 else flInvalid)
    else (wrap w n, if fr = .exact then 0#5 else flInexact)

/-- An integer as an exact value. -/
def Val.ofInt (i : Int) : Val := .fin ⟨decide (i < 0), i.natAbs, 0, false⟩

/-- The signed mantissa of an exact value at exponent e (e ≤ exp). -/
def Rl.at (r : Rl) (e : Int) : Int :=
  let x : Int := (r.mant <<< (r.exp - e).toNat : Nat)
  if r.neg then -x else x

/-- A signed integer multiple of 2^e, with the sign `z` when it is zero. -/
def Rl.ofInt (z : Bool) (i e : Int) : Rl := ⟨if i = 0 then z else decide (i < 0), i.natAbs, e, false⟩

/-- The exact sum of two exact values; `z` is the sign of a sum that is zero without both being zeros of one sign (R99). -/
def Rl.add (z : Bool) (a b : Rl) : Rl :=
  let e := min a.exp b.exp
  Rl.ofInt (if a.mant = 0 ∧ b.mant = 0 ∧ a.neg = b.neg then a.neg else z) (a.at e + b.at e) e

/-- The exact product. -/
def Rl.mul (a b : Rl) : Rl := ⟨a.neg != b.neg, a.mant * b.mant, a.exp + b.exp, false⟩

/-- The sign of an exact zero sum under a mode (R99). -/
def zeroSign (mode : Rnd) : Bool := decide (mode = .rdn)

/-- NaN handling of an operation on two values (R99): the flags, when either is a NaN. -/
def nan2 (a b : Val) : Option Flags :=
  match a, b with
  | .nan sa, .nan sb => some (if sa || sb then flInvalid else 0#5)
  | .nan s, _ => some (if s then flInvalid else 0#5)
  | _, .nan s => some (if s then flInvalid else 0#5)
  | _, _ => none

/-- The sign of an infinity or a real. -/
def Val.neg? : Val → Bool
  | .nan _ => false
  | .inf s => s
  | .fin r => r.neg

/-- The value with its sign flipped (NaN unchanged). -/
def Val.negate : Val → Val
  | .nan s => .nan s
  | .inf s => .inf (!s)
  | .fin r => .fin { r with neg := !r.neg }

/-- Exact sum with the special cases of R99. -/
def Val.add (mode : Rnd) (a b : Val) : Val × Flags :=
  match nan2 a b with
  | some fl => (.nan false, fl)
  | none => match a, b with
    | .inf s, .inf t => if s = t then (.inf s, 0#5) else (.nan false, flInvalid)
    | .inf s, _ => (.inf s, 0#5)
    | _, .inf s => (.inf s, 0#5)
    | .fin x, .fin y => (.fin (x.add (zeroSign mode) y), 0#5)
    | _, _ => (.nan false, 0#5)

/-- Exact product with the special cases of R99. -/
def Val.mul (a b : Val) : Val × Flags :=
  match nan2 a b with
  | some fl => (.nan false, fl)
  | none =>
    let s := a.neg? != b.neg?
    match a, b with
    | .inf _, .fin y => if y.mant = 0 then (.nan false, flInvalid) else (.inf s, 0#5)
    | .fin x, .inf _ => if x.mant = 0 then (.nan false, flInvalid) else (.inf s, 0#5)
    | .inf _, .inf _ => (.inf s, 0#5)
    | .fin x, .fin y => (.fin (x.mul y), 0#5)
    | _, _ => (.nan false, 0#5)

/-- Whether a value is a signalling NaN. -/
def Val.snan : Val → Bool
  | .nan s => s
  | _ => false

/-- Fused multiply-add, exact (R99): 0 × ∞ is invalid whatever the addend. -/
def Val.fma (mode : Rnd) (a b c : Val) : Val × Flags :=
  let zeroInf := match a, b with
    | .inf _, .fin y => decide (y.mant = 0)
    | .fin x, .inf _ => decide (x.mant = 0)
    | _, _ => false
  if a.snan || b.snan || c.snan || zeroInf then (.nan false, flInvalid)
  else
    let (p, _) := Val.mul a b
    Val.add mode p c

/-- Quotient of finite non-zero magnitudes to at least 64 bits, with what is left over. -/
def Rl.div (a b : Rl) : Rl :=
  let k := 64 + b.mant.log2
  let n := a.mant <<< k
  ⟨a.neg != b.neg, n / b.mant, a.exp - b.exp - k, decide (n % b.mant ≠ 0)⟩

/-- Division with the special cases of R99. -/
def Val.div (a b : Val) : Val × Flags :=
  match nan2 a b with
  | some fl => (.nan false, fl)
  | none =>
    let s := a.neg? != b.neg?
    match a, b with
    | .inf _, .inf _ => (.nan false, flInvalid)
    | .inf _, _ => (.inf s, 0#5)
    | .fin _, .inf _ => (.fin ⟨s, 0, 0, false⟩, 0#5)
    | .fin x, .fin y =>
      if y.mant = 0 then (if x.mant = 0 then (.nan false, flInvalid) else (.inf s, flDivZero))
      else if x.mant = 0 then (.fin ⟨s, 0, 0, false⟩, 0#5)
      else (.fin (x.div y), 0#5)
    | _, _ => (.nan false, 0#5)

/-- Exact comparison of two values neither of which is a NaN; zeros of either sign are equal (R136). -/
def Val.cmp (a b : Val) : Ordering :=
  match a, b with
  | .inf s, .inf t => if s = t then .eq else if s then .lt else .gt
  | .inf s, _ => if s then .lt else .gt
  | _, .inf s => if s then .gt else .lt
  | .fin x, .fin y => let e := min x.exp y.exp; compare (x.at e) (y.at e)
  | _, _ => .eq

/-- `fminmax` of R157 in format f on two encodings: −0 counts as less than +0, and the operand keeps its bits. -/
def fminmax (f : Fmt) (isMax : Bool) (a b : Nat) : Nat × Flags :=
  let va := f.val a
  let vb := f.val b
  let fl := if va.snan || vb.snan then flInvalid else 0#5
  match va, vb with
  | .nan _, .nan _ => (f.nanEnc, fl)
  | .nan _, _ => (b, fl)
  | _, .nan _ => (a, fl)
  | _, _ =>
    let sa := va.neg?
    let sb := vb.neg?
    let lt := match Val.cmp va vb with       -- a < b
      | .lt => true
      | .eq => sa && !sb
      | .gt => false
    let gt := match Val.cmp va vb with
      | .gt => true
      | .eq => !sa && sb
      | .lt => false
    (if isMax then (if lt then b else a) else (if gt then b else a), fl)

/-- A rounding of an operation's exact value, its flags joined with the operation's own. -/
def roundOp (f : Fmt) (mode : Rnd) (sat : Bool) (v : Val × Flags) : Nat × Flags :=
  let (y, fl) := round f mode sat v.1
  (y, fl ||| v.2)

/-- The E8M0 scale 2^(X − 127), or none for 0xFF (R103). -/
def e8m0 (x : Nat) : Option Int := if x % 256 = 255 then none else some ((x % 256 : Nat) - 127 : Int)

/-- Whether a T5 byte is illegal (R105). -/
def t5Illegal (b : Nat) : Bool := decide (243 ≤ b)

/-- Digit i of a legal T5 byte (R105). -/
def t5Digit (b i : Nat) : Int := ((b / 3 ^ i % 3 : Nat) : Int) - 1

end Sys2Proof.Machine
end

