-- ==== Sys2Proof/Config.lean ====
section
/-! DEFINITION. What an implementation fixes and the free values: no definition here has a value a proof could use,
except the figures of the TQ-5840 that the spec states. -/

namespace Sys2Proof.Config

/-- FREE VALUE (log 3). Which of several agents that may move next does so, at the n-th such choice (R33, R57, R270 leave it open). -/
opaque choose : Nat → Nat

/-- FREE VALUE (log 4). The L2 slice of a local physical address within its die; the hash is not architectural (R251). -/
opaque homeSlice : Nat → Nat

/-- FREE VALUE (log 5). Whether an ECDSA P-384 signature (third argument) of a SHA-384 digest (second) verifies under a key digest (first) (R342, R343). -/
opaque ecdsaVerify : BitVec 384 → BitVec 384 → BitVec 768 → Bool

/-- FREE VALUE (log 5). The identity key's ECDSA signature over a digest, for a seed (R344). -/
opaque ecdsaSign : BitVec 384 → BitVec 384 → BitVec 768

/-- FREE VALUE (log 5). The identity public key that HKDF derives from a seed (R344). -/
opaque identityKey : BitVec 384 → BitVec 768

/-- FREE VALUE (log 5). The 384-bit seed that the entropy response of this part gives when HELPER corrects it (R344). -/
opaque identitySeed : BitVec 384 → BitVec 384

/-- FREE VALUE (log 5). Whether a key (second argument) is a key of a root (first) (R343). -/
opaque keyOfRoot : BitVec 384 → BitVec 384 → Bool

/-- FREE VALUE (log 5). The root-key digests in the management processor's mask ROM (R343). -/
opaque rootKeys : List (BitVec 384)

/-- FREE VALUE (log 6). The reply body of a management message whose content the spec leaves to the standards it names (R345). -/
opaque mgmtReply : Nat → List Byte → List Byte

/-- FREE VALUE (log 6). What a sensor other than the clock and the ECC count reads, by sensor and time (R345). -/
opaque sensor : Nat → Nat → Nat

/-- FREE VALUE (log 36). The power domain of another device of the fabric (R348). -/
opaque peerPdom : Nat → Nat

/-- FREE VALUE (log 92). Where a partner keeps a member's shadow, in superblocks, by job, slot and address (R350). -/
opaque shadowAt : Nat → Nat → Nat → Nat

/-- FREE VALUE (log 92). Where the device named by REPL keeps a REPLICA tensor's bytes, in superblocks, by job and address (R351). -/
opaque replicaAt : Nat → Nat → Nat

/-- FREE VALUE (log 97). What another member of a job has logged of its writes: their number, and ranges of system addresses (R353). -/
opaque peerLog : Nat → Nat → Nat × List (Nat × Nat)

/-- FREE VALUE (log 34). The node-kind codes of a WAITGRAPH entry, which the spec does not give (R356). -/
opaque nodeKind : Nat → BitVec 8

/-- FREE VALUE (log 7). The bits a boundary-scan SAMPLE captures at the package balls (R346). -/
opaque scanCapture : Nat → Nat

/-- FREE VALUE (log 8). How many values of k-th aligned 8-byte units a racing read takes as old (R207, R234). -/
opaque raceOld : Nat → Bool

/-- FREE VALUE (log 25). The virtual addresses at which Rolahild allocates a grid's register backing area and its spill region (R296, R299). -/
opaque backingAt : Nat → Nat
opaque spillAt : Nat → Nat

/-- FREE VALUE (log 25). Where in a process's memory Rolahild and the debugger write the image of a grid they stop (R287, R357). -/
opaque imageAt : Nat → Nat

/-- FREE VALUE (log 25). How many entries of a grid's barrier roll its backing area holds before it first grows (R296). -/
opaque rollRoom : Nat → Nat

/-- FREE VALUE (log 3). The bytes of a page that lies in another home, by offset, where its migration is the act that the lowest team of a
grid needs (R32, R259). -/
opaque pageBytesAt : Nat → List (Nat × Byte)

/-- FREE VALUE (log 3). How many free moves may pass before the lowest team of some grid gets its turn (R32). -/
opaque patience : Nat

/-- FREE VALUE (log 93). The local physical address of the service ring's descriptor, as the management processor reports it
(R297). -/
opaque serviceRing : Nat

/-- FREE VALUE (log 93). The TYPE of the request that reads the device description record through the service ring (R341). -/
opaque describeType : Nat

/-- FREE VALUE (log 29). The REASON of a refused service request where no rule names one. -/
opaque openReason : Nat → Nat

/-- FREE VALUE (log 9). Which entry of the error table a loader reports when two rules of one instruction are broken at once (R74). -/
opaque loaderTie : Nat → Bool

/-- Compute dies, octets and cores of the TQ-5840 (R11, R12). -/
def dies : Nat := 4
def octets : Nat := 120
def cores : Nat := 960

/-- Bytes of one core's scratchpad (R15) and of its accumulator file (R15). -/
def scratchBytes : Nat := 393216
def accumBytes : Nat := 262144

/-- Bytes of the device's own DRAM: local physical addresses run below it (R247). -/
def dramBytes : Nat := 2 ^ 38

/-- Resident lanes of one TQ-5840 core (R293). -/
def coreLanes : Nat := 2048

/-- Superblocks of 256 bytes that a core's L1 holds, and that an octet's instruction caches hold for one core (R15). -/
def l1Supers : Nat := 1024
def icacheSupers : Nat := 256

/-- Bytes of a core's physical register store (R15). -/
def storeBytes : Nat := 524288

/-- L2 slices of one die (R16). -/
def slicesPerDie : Nat := 384

/-- Entries of an L2 atomic unit's holding buffer (R16, R299). -/
def holdEntries : Nat := 16

end Sys2Proof.Config
end

