-- ==== Sys2Proof/Syntax.lean ====
section
/-! DEFINITION. The syntax of every row of spec/opcode_table.json: the Tiesque instructions with the fields that
R59 to R63 give every instruction, the four custom instructions of the queue processors (R280), and the part's
other steps (commands, services, transactions and events), each with what identifies it. -/

namespace Sys2Proof

/-- The form of an instruction that is not in the plain B form (R58). -/
inductive Form where
  | bl | x | xl
  deriving DecidableEq, Repr, Inhabited

/-- The fields of word 0 of the B form (R59). -/
structure BFields where
  sw : Bool
  d : BitVec 7
  a : BitVec 7
  b : BitVec 7
  deriving DecidableEq, Repr, Inhabited

/-- The fields of the X and XL forms (R61 to R63) and, through R60, of the BL form. `lit` is 0 in the X form. -/
structure Fields where
  form : Form
  sw : Bool
  sub : BitVec 5
  d : BitVec 8
  a : BitVec 8
  b : BitVec 8
  c : BitVec 8
  prd : BitVec 7
  pn : Bool
  rnd : BitVec 2
  sat : Bool
  ctl : BitVec 5
  moda : BitVec 10
  modb : BitVec 10
  modc : BitVec 10
  lit : BitVec 64
  deriving DecidableEq, Repr, Inhabited

/-- The R-type fields of a queue processor's custom instruction (R280). -/
structure HFields where
  f7 : BitVec 7
  rs2 : BitVec 5
  rs1 : BitVec 5
  rd : BitVec 5
  deriving DecidableEq, Repr, Inhabited

/-- What ECC finds in the data an access consumes (R255). -/
inductive Ecc where
  | none | corrected | uncorrectable
  deriving DecidableEq, Repr, Inhabited

/-- Where one team of a cluster is placed: its core, the base of its scratchpad in the core's, and the issue
scheduler of each group; none of this is architectural (R33, R248, R294). -/
structure Place where
  core : Nat
  base : Nat
  scheds : List Nat
  deriving DecidableEq, Repr, Inhabited

/-- The submitter of a service request: its completion signal and its process (R297). -/
structure Req where
  sig : Nat
  proc : Nat
  deriving DecidableEq, Repr, Inhabited

/-- A device register that has no table row of its own (R4). -/
inductive DevReg where
  /-- the PID field of link n's record (R253, R340) -/
  | linkPid (n : Nat)
  /-- any other register, at an offset of a die's L2 control window: the counters of R254 are read-only -/
  | l2Window (die offset : Nat)
  deriving DecidableEq, Repr, Inhabited

/-- What the management processor finds at reset: the signed configuration record, the two firmware images'
digests, and their signatures with the key digests that made them (R342, R343). -/
structure Boot where
  record : BitVec 3200
  mpDigest : BitVec 384
  mpKey : BitVec 384
  mpSig : BitVec 768
  rlDigest : BitVec 384
  rlKey : BitVec 384
  rlSig : BitVec 768
  deriving DecidableEq, Repr, Inhabited

/-- The kinds of debug stop site (R357). -/
inductive SiteKind where
  | brk | sample (every : Nat) | step (team grp : Nat)
  deriving DecidableEq, Repr, Inhabited

/-- A debug stop site: a canonical ordinal with a kind (R357). -/
structure Site where
  ord : Nat
  kind : SiteKind
  deriving DecidableEq, Repr, Inhabited

/-- What a PLDM type 2 request reads (R341, R345). -/
inductive PldmQuery where
  | power | clock | dieTemp (n : Nat) | dramTemp | eccCount | description
  deriving DecidableEq, Repr, Inhabited

/-- One constructor for each row of the opcode table. -/
inductive Instr where
  /-- NOP (R123) B-form NOP has no effect; with the switch marker set it drains the lane. -/
  | nop (sw : Bool)
  /-- NOP_EXT (R123) X-form NOP, which may be guarded and has no effect. -/
  | nopExt (f : Fields)
  /-- BRA (R124) Branches guard-true lanes to a fixed target and optionally marks them yielded. -/
  | bra (f : Fields)
  /-- BRX (R125) Branches to a computed 64-bit address after the transfer checks. -/
  | brx (f : Fields)
  /-- CALL (R126) Pushes a frame record, slides the window by n, raises depth and jumps to a fixed target. -/
  | call (f : Fields)
  /-- CALLX (R126) Calls a computed address after the depth, stack and transfer checks. -/
  | callx (f : Fields)
  /-- RET (R127) B-form RET pops the frame record and returns, or exits the lane at depth 0. -/
  | ret (sw : Bool)
  /-- RET_EXT (R127) X-form RET. -/
  | retExt (f : Fields)
  /-- EXIT (R128) B-form EXIT makes the lane exited, discards its loop records and removes it from cv0. -/
  | exit (sw : Bool)
  /-- EXIT_EXT (R128) X-form EXIT. -/
  | exitExt (f : Fields)
  /-- DEMOTE (R128) B-form DEMOTE sets the lane's demoted flag until the lane exits. -/
  | demote (sw : Bool)
  /-- DEMOTE_EXT (R128) X-form DEMOTE. -/
  | demoteExt (f : Fields)
  /-- LOOP (R55) Opens a hardware loop with a per-lane count, or skips the body when the count is 0. -/
  | loop (f : Fields)
  /-- LBRK (R131) B-form LBRK pops the innermost loop record and continues after that loop's end. -/
  | lbrk (sw : Bool)
  /-- LBRK_EXT (R131) X-form LBRK. -/
  | lbrkExt (f : Fields)
  /-- CANON (R132) Marks a canonical point: takes the lane snapshot and empties the sync set, parking first if the point is synchronising. -/
  | canon (f : Fields)
  /-- TRAP (R133) Stops a guard-true lane with TRAP_INSTRUCTION and a 24-bit code. -/
  | trap (f : Fields)
  /-- BRK (R133) Stops a guard-true lane with BREAKPOINT and a 24-bit code. -/
  | brk (f : Fields)
  /-- IADD (R140) B-form 32-bit signed integer add. -/
  | iadd (f : BFields)
  /-- IADD_EXT (R140) BL, X and XL forms of the integer add, with width, signedness and saturation. -/
  | iaddExt (f : Fields)
  /-- ISUB (R140) B-form 32-bit signed integer subtract. -/
  | isub (f : BFields)
  /-- ISUB_EXT (R140) BL, X and XL forms of the integer subtract. -/
  | isubExt (f : Fields)
  /-- IADDX (R142) Adds or subtracts 32-bit words with a carry or borrow held in a predicate. -/
  | iaddx (f : Fields)
  /-- IMUL (R140) B-form low 32 bits of an integer product. -/
  | imul (f : BFields)
  /-- IMUL_EXT (R140) BL, X and XL forms of the integer multiply. -/
  | imulExt (f : Fields)
  /-- IMULH (R140) High 32 bits of the 64-bit integer product. -/
  | imulh (f : Fields)
  /-- IMAD (R140) Integer multiply-add. -/
  | imad (f : Fields)
  /-- IMADW (R140) 32-bit product added into a 64-bit pair. -/
  | imadw (f : Fields)
  /-- IDIV (R141) Truncating integer division with a defined result for a zero divisor, as a variable-latency result. -/
  | idiv (f : Fields)
  /-- IREM (R141) Integer remainder with the sign of the dividend. -/
  | irem (f : Fields)
  /-- IMIN (R140) Integer minimum. -/
  | imin (f : Fields)
  /-- IMAX (R140) Integer maximum. -/
  | imax (f : Fields)
  /-- IABS (R140) Integer absolute value, optionally saturating. -/
  | iabs (f : Fields)
  /-- INEG (R140) Integer negation, optionally saturating. -/
  | ineg (f : Fields)
  /-- SHL (R143) B-form logical left shift. -/
  | shl (f : BFields)
  /-- SHL_EXT (R143) BL, X and XL forms of the left shift. -/
  | shlExt (f : Fields)
  /-- SHR (R143) B-form logical right shift. -/
  | shr (f : BFields)
  /-- SHR_EXT (R143) BL, X and XL forms of the logical right shift. -/
  | shrExt (f : Fields)
  /-- SAR (R143) B-form arithmetic right shift. -/
  | sar (f : BFields)
  /-- SAR_EXT (R143) BL, X and XL forms of the arithmetic right shift. -/
  | sarExt (f : Fields)
  /-- ROT (R144) 32-bit rotate left or right. -/
  | rot (f : Fields)
  /-- FSHF (R144) Funnel shift of b above a by c. -/
  | fshf (f : Fields)
  /-- AND (R145) B-form bitwise AND. -/
  | and (f : BFields)
  /-- AND_EXT (R145) BL, X and XL forms of the bitwise AND. -/
  | andExt (f : Fields)
  /-- OR (R145) B-form bitwise OR. -/
  | or (f : BFields)
  /-- OR_EXT (R145) BL, X and XL forms of the bitwise OR. -/
  | orExt (f : Fields)
  /-- XOR (R145) B-form bitwise XOR. -/
  | xor (f : BFields)
  /-- XOR_EXT (R145) BL, X and XL forms of the bitwise XOR. -/
  | xorExt (f : Fields)
  /-- ANDN (R145) B-form a AND NOT b. -/
  | andn (f : BFields)
  /-- ANDN_EXT (R145) BL, X and XL forms of ANDN. -/
  | andnExt (f : Fields)
  /-- BFSEL (R146) Bitwise function of three sources chosen by two 4-bit tables. -/
  | bfsel (f : Fields)
  /-- POPC (R147) Counts the 1 bits of the source. -/
  | popc (f : Fields)
  /-- CLZ (R147) Counts the leading zero bits. -/
  | clz (f : Fields)
  /-- CTZ (R147) Counts the trailing zero bits. -/
  | ctz (f : Fields)
  /-- BREV (R147) Reverses the bit order. -/
  | brev (f : Fields)
  /-- BFX (R148) Extracts a bit field, signed or unsigned. -/
  | bfx (f : Fields)
  /-- BFI (R148) Inserts a bit field into c. -/
  | bfi (f : Fields)
  /-- LEA (R150) Forms a 64-bit address from a base pair and a scaled index. -/
  | lea (f : Fields)
  /-- MOV (R149) B-form copy of source B into the destination. -/
  | mov (f : BFields)
  /-- MOV_EXT (R149) BL, X and XL forms of MOV, with element select, figure and width. -/
  | movExt (f : Fields)
  /-- MOVI (R149) Writes the 64-bit literal into a register pair. -/
  | movi (f : Fields)
  /-- IADD2 (R151) Packed add or subtract of two 16-bit elements. -/
  | iadd2 (f : Fields)
  /-- IADD4 (R151) Packed add or subtract of four 8-bit elements. -/
  | iadd4 (f : Fields)
  /-- VMIN4 (R151) Packed minimum of four 8-bit elements. -/
  | vmin4 (f : Fields)
  /-- VMAX4 (R151) Packed maximum of four 8-bit elements. -/
  | vmax4 (f : Fields)
  /-- IDP4 (R152) Four-element 8-bit dot product into a 32-bit accumulator. -/
  | idp4 (f : Fields)
  /-- ISAD (R152) Sum of absolute differences of four 8-bit elements. -/
  | isad (f : Fields)
  /-- ICMP (R135) Integer comparison into a predicate. -/
  | icmp (f : Fields)
  /-- FCMP (R136) Floating-point comparison into a predicate, raising invalid where due. -/
  | fcmp (f : Fields)
  /-- PSET (R137) Combines predicates, or tests a bit of an operand. -/
  | pset (f : Fields)
  /-- PMOV (R138) Moves predicates between predicates and registers. -/
  | pmov (f : Fields)
  /-- SEL (R139) Selects one of two sources by a predicate. -/
  | sel (f : Fields)
  /-- FADD (R156) B-form FP32 add rounded RNE. -/
  | fadd (f : BFields)
  /-- FADD_EXT (R156) BL, X and XL forms of the FP32 add. -/
  | faddExt (f : Fields)
  /-- FSUB (R156) B-form FP32 subtract. -/
  | fsub (f : BFields)
  /-- FSUB_EXT (R156) BL, X and XL forms of the FP32 subtract. -/
  | fsubExt (f : Fields)
  /-- FMUL (R156) B-form FP32 multiply. -/
  | fmul (f : BFields)
  /-- FMUL_EXT (R156) BL, X and XL forms of the FP32 multiply. -/
  | fmulExt (f : Fields)
  /-- FFMA (R156) FP32 fused multiply-add with one rounding. -/
  | ffma (f : Fields)
  /-- FMIN (R157) Returns the lesser FP32 operand under fminmax. -/
  | fmin (f : Fields)
  /-- FMAX (R157) Returns the greater FP32 operand under fminmax. -/
  | fmax (f : Fields)
  /-- FRND (R158) Rounds to an integral FP32 value. -/
  | frnd (f : Fields)
  /-- FCLASS (R159) Writes a one-hot classification of a value. -/
  | fclass (f : Fields)
  /-- FSCALE (R156) Multiplies an FP32 value by a power of two. -/
  | fscale (f : Fields)
  /-- HADD2 (R160) Packed 16-bit floating-point add. -/
  | hadd2 (f : Fields)
  /-- HMUL2 (R160) Packed 16-bit floating-point multiply. -/
  | hmul2 (f : Fields)
  /-- HFMA2 (R160) Packed 16-bit fused multiply-add. -/
  | hfma2 (f : Fields)
  /-- HMIN2 (R160) Packed 16-bit minimum. -/
  | hmin2 (f : Fields)
  /-- HMAX2 (R160) Packed 16-bit maximum. -/
  | hmax2 (f : Fields)
  /-- FRCP (R162) Correctly rounded reciprocal. -/
  | frcp (f : Fields)
  /-- FRSQ (R162) Correctly rounded reciprocal square root. -/
  | frsq (f : Fields)
  /-- FSQRT (R162) Correctly rounded square root. -/
  | fsqrt (f : Fields)
  /-- FDIV (R162) Correctly rounded division. -/
  | fdiv (f : Fields)
  /-- FEXP2 (R162) Correctly rounded 2^a. -/
  | fexp2 (f : Fields)
  /-- FLOG2 (R162) Correctly rounded log2(a). -/
  | flog2 (f : Fields)
  /-- FSIN (R162) Correctly rounded sine. -/
  | fsin (f : Fields)
  /-- FCOS (R162) Correctly rounded cosine. -/
  | fcos (f : Fields)
  /-- FTANH (R162) Correctly rounded hyperbolic tangent. -/
  | ftanh (f : Fields)
  /-- FCVT (R164) Converts between FP32 and a narrower floating-point format. -/
  | fcvt (f : Fields)
  /-- F2I (R165) Converts a floating-point value to an integer. -/
  | f2i (f : Fields)
  /-- I2F (R166) Converts an integer to a floating-point value. -/
  | i2f (f : Fields)
  /-- CVTPK (R167) Converts two FP32 values and packs them into one word. -/
  | cvtpk (f : Fields)
  /-- LSHUF (R170) Arrives at a shuffle collective that moves values between lanes. -/
  | lshuf (f : Fields)
  /-- LBCAST (R171) Arrives at a broadcast collective of one lane's value. -/
  | lbcast (f : Fields)
  /-- LVOTE (R172) Arrives at an all, any or uniform vote collective. -/
  | lvote (f : Fields)
  /-- LBALLOT (R172) Arrives at a collective that builds a lane mask of a predicate. -/
  | lballot (f : Fields)
  /-- LRED (R174) Arrives at an ordered reduction collective. -/
  | lred (f : Fields)
  /-- LSCAN (R174) Arrives at an ordered inclusive or exclusive scan collective. -/
  | lscan (f : Fields)
  /-- LMATCH (R175) Arrives at a collective that masks the lanes holding equal values. -/
  | lmatch (f : Fields)
  /-- CVSET (R176) Arrives at a collective that writes a convergence register. -/
  | cvset (f : Fields)
  /-- LDG (R192) Global load of 1 to 16 bytes per performing lane. -/
  | ldg (f : Fields)
  /-- STG (R192) Global store of 1 to 16 bytes per performing lane. -/
  | stg (f : Fields)
  /-- LDS (R192) Load from the team's scratchpad. -/
  | lds (f : Fields)
  /-- STS (R192) Store to the team's scratchpad. -/
  | sts (f : Fields)
  /-- LDX (R193) Load from the scratchpad of a cluster rank. -/
  | ldx (f : Fields)
  /-- STX (R193) Store to the scratchpad of a cluster rank. -/
  | stx (f : Fields)
  /-- ATOMG (R196) Global atomic read-modify-write that returns the old value. -/
  | atomg (f : Fields)
  /-- CASG (R196) Global compare-and-swap. -/
  | casg (f : Fields)
  /-- REDG (R196) Global reduction with no return, tagged in deterministic grids. -/
  | redg (f : Fields)
  /-- ATOMS (R196) Scratchpad atomic that returns the old value. -/
  | atoms (f : Fields)
  /-- CASS (R196) Scratchpad compare-and-swap. -/
  | cass (f : Fields)
  /-- REDS (R196) Scratchpad reduction with no return. -/
  | reds (f : Fields)
  /-- FENCE (R198) Orders the lane's own accesses as an acquire, a release or both. -/
  | fence (f : Fields)
  /-- IFENCE (R199) Orders later instruction fetch after earlier stores. -/
  | ifence (f : Fields)
  /-- PREF (R200) Prefetches a line into the L1 and the L2, or into the L2 only. -/
  | pref (f : Fields)
  /-- CCTL (R200) Performs a cache operation on a superblock. -/
  | cctl (f : Fields)
  /-- CPY (R201) Posts a copy between global memory and scratchpads, possibly multicast, after the issue checks. -/
  | cpy (f : Fields)
  /-- CPYG (R208) Posts a global-to-global copy. -/
  | cpyg (f : Fields)
  /-- CPYHINT (R209) Asks the copy engine to bring global sectors into the L2. -/
  | cpyhint (f : Fields)
  /-- CPYSTAT (R210) Reads copy queue state and acquires the data of completed copies. -/
  | cpystat (f : Fields)
  /-- XBINIT (R215) Initialises a transaction barrier object. -/
  | xbinit (f : Fields)
  /-- XBEXPECT (R216) Signals a barrier with expected sectors and optionally one arrival. -/
  | xbexpect (f : Fields)
  /-- XBARRIVE (R216) Signals n arrivals at a transaction barrier. -/
  | xbarrive (f : Fields)
  /-- XBWAIT (R218) Parks the lane until the barrier leaves phase p or is poisoned. -/
  | xbwait (f : Fields)
  /-- XBTEST (R218) Tests whether a barrier phase is done and whether it is poisoned. -/
  | xbtest (f : Fields)
  /-- BARW (R220) Arrives at a team barrier and waits for its release. -/
  | barw (f : Fields)
  /-- BARA (R220) Arrives at a team barrier without waiting. -/
  | bara (f : Fields)
  /-- CBARW (R220) Arrives at the cluster barrier and waits. -/
  | cbarw (f : Fields)
  /-- CBARA (R220) Arrives at the cluster barrier without waiting. -/
  | cbara (f : Fields)
  /-- MMA (R233) Arrives at a matrix multiply-accumulate collective into a tile. -/
  | mma (f : Fields)
  /-- MMAG (R235) Arrives at a matrix multiply whose steering tile is selected per row block. -/
  | mmag (f : Fields)
  /-- AZERO (R239) Arrives at a collective that zeroes a tile. -/
  | azero (f : Fields)
  /-- ACMT (R240) Places a commit marker in a tile's stream. -/
  | acmt (f : Fields)
  /-- ADRAIN (R243) Drains a tile to scratchpad with rounding and column scales, optionally zeroing it. -/
  | adrain (f : Fields)
  /-- ALOAD (R242) Loads a tile from FP32 values in scratchpad. -/
  | aload (f : Fields)
  /-- AMERGE (R241) Adds one tile into another. -/
  | amerge (f : Fields)
  /-- ACFG (R239) Sets the window exponent of an exact tile. -/
  | acfg (f : Fields)
  /-- T5PACK (R244) Packs five digit signs into a T5 byte. -/
  | t5pack (f : Fields)
  /-- T5UNPK (R244) Unpacks a T5 byte into signed digit bytes and reports an illegal byte. -/
  | t5unpk (f : Fields)
  /-- T5CHK (R244) Builds a mask of the illegal T5 bytes in a word. -/
  | t5chk (f : Fields)
  /-- MXQ (R245) Quantises a 32-value scratchpad block into an MX block and returns its scale. -/
  | mxq (f : Fields)
  /-- RDSR (R177) Reads a status register. -/
  | rdsr (f : Fields)
  /-- WRSR (R178) Writes fstat or a loop counter. -/
  | wrsr (f : Fields)
  /-- LDK (R179) Reads the parameter space or the constant space. -/
  | ldk (f : Fields)
  /-- RAND (R181) Computes the counter-based jig generator hash. -/
  | rand (f : Fields)
  /-- WKFETCH (R182) Sends a claim for work items to the grid's dispenser. -/
  | wkfetch (f : Fields)
  /-- RFETCH (R281) Queue processor reads the next command of a queue into a buffer slot. -/
  | rfetch (h : HFields)
  /-- BFXT (R282) Queue processor extracts a bit field, zero- or sign-extended. -/
  | bfxt (h : HFields)
  /-- SWAIT (R283) Queue processor stalls on a signal condition. -/
  | swait (h : HFields)
  /-- DISP (R284) Queue processor checks a LAUNCH and hands it to a partition's dispensers, assigning a tag. -/
  | disp (h : HFields)
  /-- COLLECTIVE_ISSUE (R46) A collective instance issues after its last member arrives, computes over members in lane order and releases them. -/
  | collectiveIssue (tag team grp inst : Nat)
  /-- COLLECTIVE_STRANDED (R48) At an issue boundary, stranded collective instances fault and nothing they would compute is written. -/
  | collectiveStranded (tag team grp : Nat)
  /-- SYNC_CANON_RELEASE (R308) At an issue boundary, parked synchronising-CANON lanes whose sync sets are resolved are released. -/
  | syncCanonRelease (tag team grp : Nat)
  /-- RESULT_RETURN (R78) A variable-latency result returns and is written, ending draining when none is left outstanding. -/
  | resultReturn (id : Nat)
  /-- ACCESS_AT_HOME (R187) A memory access reaches its scratchpad bank, L2 slice or atomic unit and takes effect there. -/
  | accessAtHome (id : Nat) (ecc : Ecc)
  /-- BARRIER_SIGNAL (R216) A barrier's atomic unit applies a signal of arrivals and sectors. -/
  | barrierSignal (id : Nat)
  /-- COPY_DELIVERY (R205) The copy engine writes one sector to one rank or to global memory, then signals the barrier. -/
  | copyDelivery (tag team seq : Nat) (ecc : Ecc)
  /-- CPYHINT_FILL (R209) The copy engine reads a hint's sectors into the L2. -/
  | cpyhintFill (tag team id : Nat)
  /-- MATRIX_INSTANCE_EFFECT (R225) A matrix instance takes effect on its tile after earlier instances of the stream, after the checks. -/
  | matrixInstanceEffect (tag team id : Nat)
  /-- COMMIT_MARKER_RETIRE (R240) A commit marker retires and copies the tile into its committed shadow. -/
  | commitMarkerRetire (tag team id : Nat)
  /-- DISPENSER_CLAIM (R182) The dispenser indivisibly hands a contiguous range of items to a WKFETCH claim. -/
  | dispenserClaim (id : Nat)
  /-- TAGGED_REDUCTION_HOLD (R299) A tagged reduction reaches its slice and is held by key, spilling the greatest entry when the buffer overflows. -/
  | taggedReductionHold (id : Nat)
  /-- PROMENADE_APPLY (R300) The frontier passes a retired team and the slices apply the held entries below it in key order. -/
  | promenadeApply (tag slice : Nat)
  /-- TEAM_PLACEMENT (R294) Waiting teams or whole clusters are placed on cores as resources free, in the mandated order. -/
  | teamPlacement (tag : Nat) (places : List Place)
  /-- TEAM_RETIRE (R26) A team whose lanes have all exited and whose copy queue is empty retires and releases its resources. -/
  | teamRetire (tag team : Nat)
  /-- GRID_COMPLETION (R276) After all teams retire, all copies complete and all reductions apply, the completion signal is incremented. -/
  | gridCompletion (tag : Nat)
  /-- GRID_FAULT (R296) After the stopping window, the faulting or killed grid stops, poisons its barriers, logs the fault and signals failure. -/
  | gridFault (tag : Nat)
  /-- LAUNCH (R274) A LAUNCH command is started, or refused with an error record, or cancelled in the cancelling state. -/
  | launch (q : Nat)
  /-- WAITSIG (R275) A WAITSIG command is read and holds its queue on a signal condition. -/
  | waitsig (q : Nat)
  /-- WAITSIG_SATISFIED (R275) The awaited signal satisfies the condition or faults, releasing or cancelling the queue. -/
  | waitsigSatisfied (q : Nat)
  /-- SIGNAL_WRITE (R275) A SIGNAL command with OP write stores VAL with F = 0. -/
  | signalWrite (q : Nat)
  /-- SIGNAL_ADD (R275) A SIGNAL command with OP add adds VAL when F is 0. -/
  | signalAdd (q : Nat)
  /-- BARRIER (R275) A BARRIER command is read and waits for earlier commands, resetting a cancelling queue when RESET is 1. -/
  | barrier (q : Nat)
  /-- BARRIER_COMMAND_COMPLETE (R278) The earlier commands complete and the BARRIER command completes. -/
  | barrierCommandComplete (q : Nat)
  /-- TICK (R279) A TICK command is read and held to its release edge, or released late with OVERRUN incremented. -/
  | tick (q : Nat)
  /-- TICK_EDGE (R279) A tick queue's release edge arrives on the time base and releases the held TICK. -/
  | tickEdge (q : Nat)
  /-- TURN_END_QUANTUM (R287) A process's quantum expires and its non-tick grids are serialised before the next turn begins. -/
  | turnEndQuantum (pid : Nat)
  /-- TURN_END_IDLE (R286) A process with no resident team and only held or empty queues ends its turn early. -/
  | turnEndIdle (pid : Nat)
  /-- LOAD (R74) Service LOAD checks and loads a code object, or refuses it. -/
  | load (r : Req) (addr len handleAt : Nat)
  /-- UNLOAD (R297) Service UNLOAD removes a code object unless a grid of it is alive. -/
  | unload (r : Req) (handle : Nat)
  /-- QCREATE (R297) Service QCREATE activates a queue, adding tick queues to the tick list. -/
  | qcreate (r : Req) (desc : Nat)
  /-- QRESET (R297) Service QRESET clears an errored queue and resumes reading after the refused command. -/
  | qreset (r : Req) (desc : Nat)
  /-- MAP (R297) Service MAP writes leaf entries and completes the invalidation. -/
  | map (r : Req) (proc va len leaf : Nat)
  /-- UNMAP (R297) Service UNMAP removes entries and completes the invalidation. -/
  | unmap (r : Req) (proc va len : Nat)
  /-- REGCODE (R307) Service REGCODE registers run-time code and assigns an ordinal base. -/
  | regcode (r : Req) (proc va len table count : Nat)
  /-- FREPLY (R259) Service FREPLY answers a forwarded translation fault as mapped or declined. -/
  | freply (r : Req) (id : Nat) (mapped : Bool)
  /-- KILL (R297) Service KILL kills a live or held grid, or releases a tag held only by an image. -/
  | kill (r : Req) (tag : Nat)
  /-- PARTITION (R285) Service PARTITION forms a spatial partition and writes its way masks. -/
  | partition (r : Req) (rec : Nat)
  /-- SERIALISE_STOP (R313) SERIALISE with MODE 0 stops the grid, decides forward or back per decision set, and begins the image. -/
  | serialiseStop (r : Req) (tag image cap cause : Nat)
  /-- SERIALISE_SNAPSHOT (R313) SERIALISE with MODE 1 snapshots the grid the same way and then resumes it in place. -/
  | serialiseSnapshot (r : Req) (tag image cap cause : Nat)
  /-- SERIALISE_IMAGE_WRITE (R313) Once forward sets reach recorded states, copies stop and reductions spill, and the image is written. -/
  | serialiseImageWrite (tag : Nat)
  /-- SERIALISE_TIMEOUT (R315) The serialise limit expires before the image is written and the grid faults. -/
  | serialiseTimeout (tag : Nat)
  /-- REPLANT (R328) Service REPLANT checks an image and rebuilds its grid on the target. -/
  | replant (r : Req) (image part : Nat)
  /-- FAULTLOG (R334) Service FAULTLOG registers a process's fault log. -/
  | faultlog (r : Req) (addr cap : Nat)
  /-- TRANSLATION_FAULT_SERVICE (R259) Rolahild or the host services a translation fault and the access replays. -/
  | translationFaultService (id leaf : Nat)
  /-- PAGE_MIGRATION (R259) A MIG page is copied to local DRAM, its entry rewritten and invalidated, and the access replayed. -/
  | pageMigration (id pa : Nat) (data : List (Nat × Byte))
  /-- FAULT_REPLY_TIMEOUT (R259) A forwarded fault is not answered within FAULTLIMIT and the access faults MEM_TRANSLATION. -/
  | faultReplyTimeout (id : Nat)
  /-- SWAIT_WAKE (R283) An SWAIT stall ends on a satisfied condition, F = 1 or a pending interrupt. -/
  | swaitWake (hart : Nat)
  /-- L2_WAY_MASK_WRITE (R253) A write to one slice's partition way mask, refused and logged when MASK is 0 or a reserved bit is set. -/
  | l2WayMaskWrite (die offset value : Nat)
  /-- L2_WAY_MASK_ALL (R253) A write to slice 0x3FF sets the partition's way mask in all 384 slices of the die. -/
  | l2WayMaskAll (die pid value : Nat)
  /-- REGISTER_WRITE (R4) A write to a device register with no row of its own, with refusal of non-zero reserved fields. -/
  | registerWrite (reg : DevReg) (value : Nat)
  /-- CLOCK_STEP_DOWN (R19) Power over the limit in the averaging window lowers the arithmetic clock by 13 MHz and reports the change. -/
  | clockStepDown
  /-- CLOCK_STEP_UP (R19) Power below the limit raises the clock by 13 MHz. -/
  | clockStepUp
  /-- POWER_LIMIT_STOP (R19) 100 ms over the limit at the floor clock stops every context, reports over MCTP and halts dispatch. -/
  | powerLimitStop
  /-- POWER_EVENT_CLEAR (R19) The host clears the power-limit event and dispatch resumes. -/
  | powerEventClear
  /-- RESET (R343) At reset, mask ROM verifies the configuration record and the firmware signatures. -/
  | reset (b : Boot)
  /-- BIRNIS_RD (R336) An RD transaction arrives and is performed at the home, forwarded, or answered with ERR. -/
  | birnisRd (link header : Nat)
  /-- BIRNIS_WR (R336) A WR transaction with its data flit is performed at the home under MASK. -/
  | birnisWr (link header data : Nat)
  /-- BIRNIS_AT (R336) An AT transaction performs an atomic at the home slice. -/
  | birnisAt (link header : Nat)
  /-- BIRNIS_SIG (R336) A SIG transaction applies a barrier signal at the destination. -/
  | birnisSig (link header : Nat)
  /-- BIRNIS_RSP (R336) A response reaches the sender, completing its transaction. -/
  | birnisRsp (link header data : Nat)
  /-- BIRNIS_ERR (R338) An ERR reaches the sender and its grid faults with the mapped code. -/
  | birnisErr (link header : Nat)
  /-- LINK_TIMEOUT (R338) No response arrives within LINKLIMIT and the sender's grid faults LINK_ERROR. -/
  | linkTimeout (tid : Nat)
  /-- LINK_TRAINING (R340) A link trains; a PEER mismatch keeps it down. -/
  | linkTraining (link peer : Nat)
  /-- LINK_DOWN (R347) A link goes down. -/
  | linkDown (link : Nat)
  /-- LINKS_LOST_EXPIRY (R347) All peer and host links stay down for LINKLIMIT and the device is lost. -/
  | linksLostExpiry
  /-- WATCHDOG_EXPIRY (R347) The management watchdog is not refreshed within WDLIMIT and the device is lost. -/
  | watchdogExpiry
  /-- JOB (R348) Service JOB registers a job record or refuses it. -/
  | job (r : Req) (addr : Nat)
  /-- RPOINT (R350) Service RPOINT serialises the job's grids into a slot, shadows the PARTNER writes and resumes. -/
  | rpoint (r : Req) (job point : Nat)
  /-- RPOINT_COMPLETE (R350) Every member finishes step 3, so the point completes and the older slot is freed. -/
  | rpointComplete (job point : Nat)
  /-- RECOVER (R351) Service RECOVER discards the job's grids, restores the last point and takes over lost devices by ABSORB or SPARE. -/
  | recover (r : Req) (job : Nat) (lost : List Nat) (part : Nat)
  /-- FILL_COMPLETE (R351) A recovery fill completes, `len` bytes of it; once all are complete the job's grids may issue. -/
  | fillComplete (job fill len : Nat)
  /-- ATTEST (R344) Service ATTEST returns a signed report of identity, firmware, configuration and objects. -/
  | attest (r : Req) (nonce addr : Nat)
  /-- LCREC_START (R355) LCREC start clears the counters and begins lane-cycle counting. -/
  | lcrecStart (r : Req) (tag table rec : Nat)
  /-- LCREC_STOP (R355) LCREC stop writes the counters and TSTOP into the record. -/
  | lcrecStop (r : Req) (tag : Nat)
  /-- WAITGRAPH (R356) Service WAITGRAPH starts wait-for graph sampling into a report. -/
  | waitgraph (r : Req) (addr cap period : Nat)
  /-- WAITGRAPH_SAMPLE (R356) The sampling period expires, so issue counters are sampled and cycles without progress reported. -/
  | waitgraphSample
  /-- DEBUG_ATTACH (R357) DEBUG attach names up to eight stop sites for a grid. -/
  | debugAttach (r : Req) (tag : Nat) (sites : List Site)
  /-- DEBUG_DETACH (R357) DEBUG detach releases the grid from the debugger. -/
  | debugDetach (r : Req) (tag : Nat)
  /-- DEBUG_RESUME (R357) DEBUG resume replants a held image. -/
  | debugResume (r : Req) (tag : Nat)
  /-- MCTP_CONTROL (R345) The management processor serves an MCTP control message. -/
  | mctpControl (msg : List Byte)
  /-- MCTP_UNSUPPORTED (R345) An unsupported MCTP message type is answered as unsupported. -/
  | mctpUnsupported (kind : Nat) (msg : List Byte)
  /-- PLDM_BASE (R345) A PLDM type 0 base request is served. -/
  | pldmBase (msg : List Byte)
  /-- PLDM_PLATFORM (R345) A PLDM type 2 request reads sensors or the device description record. -/
  | pldmPlatform (q : PldmQuery)
  /-- PLDM_FIRMWARE_UPDATE (R345) A PLDM type 5 firmware update request is served. -/
  | pldmFirmwareUpdate (msg : List Byte)
  /-- TRST (R346) Asserting TRST resets the boundary-scan port. -/
  | trst
  /-- BYPASS (R346) Boundary-scan BYPASS instruction. -/
  | bypass
  /-- SAMPLE_PRELOAD (R346) Boundary-scan SAMPLE/PRELOAD instruction. -/
  | samplePreload (preload : Nat)
  /-- EXTEST (R346) Boundary-scan EXTEST, accepted only in reset and otherwise treated as BYPASS. -/
  | extest
  /-- IDCODE (R346) Boundary-scan IDCODE returns 0x5B40_E6A5. -/
  | idcode
  /-- ADAPTER_ACCESS_COMPLETE (R339) The host adapter reports a host-memory access complete, and the bridging device then sends the RSP. -/
  | adapterAccessComplete (tid data : Nat)
  /-- PROCESS_END (R288) A process ends, and its tick queues leave the tick list of their partition. -/
  | processEnd (proc : Nat)
  deriving DecidableEq, Repr, Inhabited

end Sys2Proof
end

