-- ==== Sys2Proof/Machine/Entries.lean ====
section
/-! DEFINITION. The opcode map (R80) and, for each opcode, what its entry admits in every field (R64 to R73, R119,
R120 and the entries of R122 to R245): the checks that the loader makes of one instruction (R74). -/

namespace Sys2Proof.Machine

/-- An operand field of the X and XL forms (R64). -/
inductive Operand where
  | v (n : Nat) | s (n : Nat) | zero | lane | lit | reserved
  deriving DecidableEq, Repr, Inhabited

/-- The operand a field names (R64). -/
def Operand.ofField (x : BitVec 8) : Operand :=
  let n := x.toNat
  if n < 0xC0 then .v n else if n < 0xF0 then .s (n - 0xC0)
  else if n = 0xF0 then .zero else if n = 0xF1 then .lane else if n = 0xF2 then .lit else .reserved

/-- The parts of a modifier field (R63): element select, figure, figure parameter. -/
def modSel (m : BitVec 10) : Nat := bits m.toNat 9 6
def modFig (m : BitVec 10) : Nat := bits m.toNat 5 3
def modPar (m : BitVec 10) : Nat := bits m.toNat 2 0

/-- The element selects a source admits (R67). -/
inductive SelClass where
  | none | all | half | halfSw | byte
  deriving DecidableEq, Repr, Inhabited

/-- Whether a class admits an element select (R67). -/
def SelClass.admits : SelClass → Nat → Bool
  | .none, n => n == 0
  | .all, _ => true
  | .half, n => n == 0 || n == 1 || n == 2
  | .halfSw, n => n == 0 || n == 1 || n == 2 || n == 3
  | .byte, n => n == 0 || (4 ≤ n && n ≤ 7)

/-- Which kinds of operand a source field admits. -/
structure Adm where
  v : Bool := true
  s : Bool := true
  zero : Bool := true
  lane : Bool := true
  lit : Bool := true
  fig : Bool := true
  deriving DecidableEq, Repr, Inhabited

/-- What an entry says of one field. -/
inductive Role where
  /-- unused: 0xF0 (R119) -/
  | none
  /-- a destination of `span` registers: v, s (when `s`), or zero (when `z`) -/
  | dst (span : Nat) (v s z : Bool)
  /-- a lane mask destination: one v register, or a pair when W = 64 (R168) -/
  | dstMask
  /-- a destination predicate; with `z`, also 0xF0 for none (R134) -/
  | pred (z : Bool)
  /-- the carry predicate of IADDX, read and written (R142) -/
  | carry
  /-- a source predicate field (R134) -/
  | predSrc
  /-- a source of `span` registers -/
  | src (span : Nat) (adm : Adm) (sel : SelClass)
  /-- content other than an operand: a number at most `max` -/
  | num (max : Nat)
  /-- a block of 32 predicates starting at 0, 32 or 64 (R138): written (true) or read -/
  | block (write : Bool)
  deriving DecidableEq, Repr, Inhabited

/-- The latency of an opcode's register results (R80). -/
inductive Lat where
  | none | fixed (n : Nat) | var
  deriving DecidableEq, Repr, Inhabited

/-- An opcode's entry. -/
structure Entry where
  b : Bool := false
  bl : Bool := false
  x : Bool := true
  xl : Bool := true
  lat : Lat
  subOk : Nat → Bool := fun n => n == 0
  roles : Nat → Role × Role × Role × Role
  ctlOk : Nat → Bool := fun n => n == 0
  rnd : Nat → Bool := fun _ => false
  sat : Nat → Bool := fun _ => false
  /-- an XL literal carried by the entry itself (offset, mask, auxiliary word), for a given SUB (R65) -/
  carried : Nat → Bool := fun _ => false
  deriving Inhabited

/-- SUB fields (R120). -/
def subZ (sub : Nat) : Bool := bit sub 0
def subW (sub : Nat) : Bool := bit sub 1
def subOp (sub : Nat) : Nat := sub >>> 2
/-- The operand width of R121. -/
def subWidth (sub : Nat) : Nat := if subW sub then 64 else 32
/-- Registers of an operand of the width W names. -/
def subSpan (sub : Nat) : Nat := if subW sub then 2 else 1

/-- SUB values 4 × OP + 2 × W + Z with W and Z free and OP below `ops`; `w` or `z` false pins that bit to 0 (R120). -/
def subSet (w z : Bool) (ops : Nat) (n : Nat) : Bool :=
  (w || !subW n) && (z || !subZ n) && decide (subOp n < ops)

def dInt (span : Nat) : Role := .dst span true true true
def dV (span : Nat) : Role := .dst span true false true
def sAll (span : Nat) : Role := .src span {} .all
def sPlain (span : Nat) : Role := .src span {} .none
/-- A 32-bit or pair source with neither select nor figure. -/
def sBare (span : Nat) (adm : Adm) : Role := .src span { adm with fig := false } .none
/-- A base pair (R184), in v or s registers. -/
def sBase : Role := sBare 2 { zero := false, lane := false, lit := false }
/-- The base pair of a transaction barrier, PREF and CCTL: a figure is admitted (R66, R68). -/
def sBaseFig : Role := .src 2 { zero := false, lane := false, lit := false } .none
/-- A source of a transaction barrier: v, s, zero or lane, no literal (R184); a figure is admitted (R68). -/
def sDataFig : Role := .src 1 { lit := false } .none
/-- A data source of a memory instruction: v, s, zero or lane, no literal (R184), no modifier (R190). -/
def sData (span : Nat) : Role := sBare span { lit := false }
/-- A v or s register with no modifier. -/
def sReg (span : Nat) : Role := sBare span { zero := false, lane := false, lit := false }
/-- An s pair (matrix descriptors, R226). -/
def sDesc (lit : Bool) : Role := sBare 2 { v := false, zero := false, lane := false, lit := lit }

def eInt (w z : Bool) (ops lat : Nat) (sat : Bool) (roles : Nat → Role × Role × Role × Role) : Entry :=
  { lat := .fixed lat, subOk := subSet w z ops, roles := roles, sat := fun _ => sat }
/-- Three-operand integer entry whose operands follow W. -/
def eInt3 (lat : Nat) (sat : Bool) : Entry :=
  eInt true true 1 lat sat fun n => (dInt (subSpan n), sAll (subSpan n), sAll (subSpan n), .none)
def withB (e : Entry) : Entry := { e with b := true, bl := true }
def eCtrl (roles : Role × Role × Role × Role) : Entry := { lat := .none, xl := false, roles := fun _ => roles }
def eB (e : Entry) : Entry := { e with b := true }
/-- CTL admitted as a subset of a mask. -/
def ctlIn (m : Nat) (n : Nat) : Bool := n &&& m == n
/-- Memory CTL (R71, R185): admitted scopes and orderings, CTL[4] = 0. -/
def ctlMem (scopes ords : List Nat) (n : Nat) : Bool :=
  scopes.contains (n % 4) && ords.contains (n / 4)
def always (_ : Nat) : Bool := true
/-- FP arithmetic controls of R71 with C negation for a fused multiply-add. -/
def eFp (fma rnd sat : Bool) (two : Bool) : Entry :=
  { lat := .fixed 6, ctlOk := ctlIn (if fma then 31 else if two then 27 else 9), rnd := fun _ => rnd, sat := fun _ => sat,
    roles := fun _ => (dInt 1, sPlain 1, if two then sPlain 1 else .none, if fma then sPlain 1 else .none) }
/-- Packed half arithmetic (R160): CTL[2], which negates C, is refused where C is unused (log 108). -/
def eHalf (fma rnd : Bool) : Entry :=
  { lat := .fixed 6, subOk := fun n => n < 2, ctlOk := ctlIn (if fma then 31 else 27), rnd := fun _ => rnd, sat := fun _ => rnd,
    roles := fun _ => (dInt 1, .src 1 {} .halfSw, .src 1 {} .halfSw, if fma then .src 1 {} .halfSw else .none) }
def eSpec (two rnd : Bool) : Entry :=
  { lat := .var, ctlOk := ctlIn 9, rnd := fun _ => rnd, sat := always,
    roles := fun _ => (dInt 1, sPlain 1, if two then sPlain 1 else .none, .none) }
/-- The select class of a source whose format is FP32 or a 16-bit one (R136). -/
def selFmt (fmt : Nat) : SelClass := if fmt = 0 then .none else .half
def eLanes (subOk : Nat → Bool) (roles : Role × Role × Role × Role) : Entry :=
  { lat := .var, subOk := subOk, ctlOk := ctlIn 7, roles := fun _ => roles }
/-- Access size of the SZ field (R191), and the registers it takes. -/
def szBytes (sub : Nat) : Nat := match sub % 8 with
  | 0 => 1 | 1 => 1 | 2 => 2 | 3 => 2 | 4 => 4 | 5 => 8 | 6 => 16 | _ => 0
def szSpan (sub : Nat) : Nat := if szBytes sub ≤ 4 then 1 else szBytes sub / 4
def ldSub (hint : Bool) (n : Nat) : Bool := n % 8 ≠ 7 && decide (n / 8 ≤ (if hint then 2 else 0))
def stSub (hint : Bool) (n : Nat) : Bool := ldSub hint n && n % 8 ≠ 0 && n % 8 ≠ 2
def eLoad (hint : Bool) (scopes : List Nat) : Entry :=
  { lat := .var, subOk := ldSub hint, ctlOk := ctlMem scopes [0, 1], carried := always,
    roles := fun n => (dInt (szSpan n), sBase, .none, .none) }
def eStore (hint : Bool) (scopes : List Nat) : Entry :=
  { lat := .none, subOk := stSub hint, ctlOk := ctlMem scopes [0, 2], carried := always,
    roles := fun n => (.none, sBase, sData (szSpan n), .none) }
/-- OP and W of an atomic (R195). -/
def atomSub (n : Nat) : Bool := decide (n % 16 ≤ 13) && (n < 16 || !(9 ≤ n % 16 && n % 16 ≤ 11))
def wSpan (n : Nat) : Nat := if n < 16 then 1 else 2
def eAtom (glob ret cas : Bool) : Entry :=
  { lat := .var, carried := always, subOk := if cas then (fun n => n == 0 || n == 16) else atomSub,
    ctlOk := ctlMem (if glob then [0, 1, 2, 3] else [0]) [0, 1, 2, 3],
    roles := fun n => (if ret then dV (wSpan n) else .none, sBase, sData (wSpan n), if cas then sData (wSpan n) else .none) }
/-- Transaction-barrier entries (R214). -/
def eXb (subOk : Nat → Bool) (ctlOk : Nat → Bool) (d b c : Role) : Entry :=
  { lat := .none, subOk := subOk, ctlOk := ctlOk, carried := always, roles := fun _ => (d, sBaseFig, b, c) }
def eBar (d : Role) : Entry := { lat := .none, roles := fun _ => (d, sPlain 1, .none, .none) }
def eTile (roles : Role × Role × Role × Role) : Entry := { lat := .none, ctlOk := ctlIn 7, roles := fun _ => roles }
def eMma : Entry :=
  { lat := .none, ctlOk := ctlIn 31, carried := always,
    roles := fun _ => (.num 255, sDesc false, sDesc false, sBare 1 { zero := false, lane := false, lit := false }) }
/-- Copy operands (R201): a 32-bit field may hold 0xF0, a pair may not. -/
def sCopy32 : Role := sBare 1 { lane := false, lit := false }
def sCopy64 : Role := sReg 2
/-- A pair of CPYG and CPYHINT: a figure is admitted (R66, R68, R208, R209). -/
def sCopyFig : Role := .src 2 { zero := false, lane := false, lit := false } .none
/-- The barrier field of CPY and CPYG: a register, a pair when it is global, or 0xF0 for none. -/
def sCopyBar (glob : Bool) : Role := sBare (if glob then 2 else 1) { lane := false, lit := false }
/-- The global barrier of CPYG, or 0xF0. -/
def sCopyBarFig : Role := .src 2 { lane := false, lit := false } .none

/-- The opcode map (R80) with each opcode's entry. LEA's base admits zero, the lane index and the 64-bit literal beside the
pair that R150 names (log 84). -/
def entry (opc : Nat) : Option Entry :=
  match opc with
  | 0x00 => some (eB (eCtrl (.none, .none, .none, .none)))
  | 0x01 => some { eCtrl (.none, .num 255, .num 255, .num 255) with xl := true, ctlOk := ctlIn 1, carried := always }
  | 0x02 => some (eCtrl (.none, .src 2 { zero := false, lane := false, lit := false } .none, .none, .none))
  | 0x03 => some { eCtrl (.num 191, .num 255, .num 255, .num 255) with xl := true, carried := always }
  | 0x04 => some (eCtrl (.num 191, .src 2 { zero := false, lane := false, lit := false } .none, .none, .none))
  | 0x05 => some (eB (eCtrl (.none, .none, .none, .none)))
  | 0x06 => some (eB (eCtrl (.none, .none, .none, .none)))
  | 0x07 => some (eB (eCtrl (.none, .none, .none, .none)))
  | 0x08 => some { eCtrl (.none, sPlain 1, .num 255, .num 255) with xl := true, ctlOk := ctlIn 1 }
  | 0x09 => some (eB (eCtrl (.none, .none, .none, .none)))
  | 0x0A => some (eCtrl (.none, .num 255, .num 255, .num 255))
  | 0x0B => some (eCtrl (.none, .num 255, .num 255, .num 255))
  | 0x0C => some (eCtrl (.none, .num 255, .num 255, .num 255))
  | 0x20 => some (withB (eInt3 4 true))
  | 0x21 => some (withB (eInt3 4 true))
  | 0x22 => some { lat := .fixed 4, subOk := fun n => !subW n && n < 16, roles := fun _ => (dInt 1, sAll 1, sAll 1, .carry) }
  | 0x23 => some (withB (eInt false true 1 6 false fun _ => (dInt 1, sAll 1, sAll 1, .none)))
  | 0x24 => some (eInt false true 1 6 false fun _ => (dInt 1, sAll 1, sAll 1, .none))
  | 0x25 => some (eInt false true 1 6 false fun _ => (dInt 1, sAll 1, sAll 1, sAll 1))
  | 0x26 => some (eInt false true 1 6 false fun _ => (.dst 2 true true false, sAll 1, sAll 1, sAll 2))
  | 0x27 => some { eInt3 4 false with lat := .var }
  | 0x28 => some { eInt3 4 false with lat := .var }
  | 0x29 => some (eInt3 4 false)
  | 0x2A => some (eInt3 4 false)
  | 0x2B => some (eInt true false 1 4 true fun n => (dInt (subSpan n), sAll (subSpan n), .none, .none))
  | 0x2C => some (eInt true false 1 4 true fun n => (dInt (subSpan n), sAll (subSpan n), .none, .none))
  | 0x2D => some (withB (eInt true true 1 4 false fun n => (dInt (subSpan n), sAll (subSpan n), sAll 1, .none)))
  | 0x2E => some (withB (eInt true true 1 4 false fun n => (dInt (subSpan n), sAll (subSpan n), sAll 1, .none)))
  | 0x2F => some (withB (eInt true true 1 4 false fun n => (dInt (subSpan n), sAll (subSpan n), sAll 1, .none)))
  | 0x30 => some (eInt false true 2 4 false fun _ => (dInt 1, sAll 1, sAll 1, .none))
  | 0x31 => some (eInt false true 2 4 false fun _ => (dInt 1, sAll 1, sAll 1, sAll 1))
  | 0x32 => some (withB (eInt3 4 false))
  | 0x33 => some (withB (eInt3 4 false))
  | 0x34 => some (withB (eInt3 4 false))
  | 0x35 => some (withB (eInt3 4 false))
  | 0x36 => some { lat := .fixed 4, subOk := fun n => n < 16, ctlOk := ctlIn 15, roles := fun _ => (dInt 1, sAll 1, sAll 1, sAll 1) }
  | 0x37 => some (eInt true true 1 4 false fun n => (dInt 1, sAll (subSpan n), .none, .none))
  | 0x38 => some (eInt true true 1 4 false fun n => (dInt 1, sAll (subSpan n), .none, .none))
  | 0x39 => some (eInt true true 1 4 false fun n => (dInt 1, sAll (subSpan n), .none, .none))
  | 0x3A => some (eInt true true 1 4 false fun n => (dInt (subSpan n), sAll (subSpan n), .none, .none))
  | 0x3B => some (eInt false true 1 4 false fun _ => (dInt 1, sAll 1, sAll 1, .none))
  | 0x3C => some (eInt false true 1 4 false fun _ => (dInt 1, sAll 1, sAll 1, sAll 1))
  | 0x3D => some (eInt false true 8 4 false fun _ => (dInt 2, sPlain 2, sAll 1, .none))
  | 0x3E => some (withB (eInt true true 1 4 false fun n => (dInt (subSpan n), .none, sAll (subSpan n), .none)))
  | 0x3F => some { lat := .fixed 4, bl := true, x := false,
                   roles := fun _ => (.dst 2 true true false, .none, sBare 2 { v := false, s := false, zero := false, lane := false }, .none) }
  | 0x40 => some (eInt false true 2 4 true fun _ => (dInt 1, .src 1 {} .halfSw, .src 1 {} .halfSw, .none))
  | 0x41 => some (eInt false true 2 4 true fun _ => (dInt 1, .src 1 {} .byte, .src 1 {} .byte, .none))
  | 0x42 => some (eInt false true 1 4 false fun _ => (dInt 1, .src 1 {} .byte, .src 1 {} .byte, .none))
  | 0x43 => some (eInt false true 1 4 false fun _ => (dInt 1, .src 1 {} .byte, .src 1 {} .byte, .none))
  | 0x44 => some (eInt false true 2 6 true fun _ => (dInt 1, .src 1 {} .byte, .src 1 {} .byte, .src 1 {} .byte))
  | 0x45 => some (eInt false true 1 6 false fun _ => (dInt 1, .src 1 {} .byte, .src 1 {} .byte, .src 1 {} .byte))
  | 0x50 => some (eInt true true 6 4 false fun n => (.pred false, sAll (subSpan n), sAll (subSpan n), .none))
  | 0x51 => some { lat := .fixed 4, subOk := fun n => n % 4 ≠ 3,
                   roles := fun n => (.pred false, .src 1 {} (selFmt (n % 4)), .src 1 {} (selFmt (n % 4)), .none) }
  | 0x52 => some { lat := .fixed 4, subOk := fun n => n == 0 || n == 1 || n == 2 || n == 4,
                   roles := fun n => if n = 4 then (.pred false, sAll 1, sAll 1, .none) else (.pred false, .predSrc, .predSrc, .none) }
  | 0x53 => some { lat := .fixed 4, subOk := fun n => n < 3,
                   roles := fun n => if n = 0 then (.pred false, .predSrc, .none, .none)
                     else if n = 1 then (.dst 1 true false true, .block false, .none, .none)
                     else (.block true, sAll 1, sAll 1, .none) }
  | 0x54 => some (eInt true true 1 4 false fun n => (dV (subSpan n), sAll (subSpan n), sAll (subSpan n), .predSrc))
  | 0x60 => some (withB (eFp false true true true))
  | 0x61 => some (withB (eFp false true true true))
  | 0x62 => some (withB (eFp false true true true))
  | 0x63 => some (eFp true true true true)
  | 0x64 => some (eFp false false false true)
  | 0x65 => some (eFp false false false true)
  | 0x66 => some (eFp false true false false)
  | 0x67 => some { lat := .fixed 6, subOk := fun n => n < 3, roles := fun n => (dInt 1, .src 1 {} (selFmt n), .none, .none) }
  | 0x68 => some { eFp false true true true with ctlOk := ctlIn 9 }
  | 0x70 => some (eHalf false true)
  | 0x71 => some (eHalf false true)
  | 0x72 => some (eHalf true true)
  | 0x73 => some (eHalf false false)
  | 0x74 => some (eHalf false false)
  | 0x80 => some (eSpec false true)
  | 0x81 => some (eSpec false true)
  | 0x82 => some (eSpec false true)
  | 0x83 => some (eSpec true true)
  | 0x84 => some (eSpec false false)
  | 0x85 => some (eSpec false false)
  | 0x86 => some (eSpec false false)
  | 0x87 => some (eSpec false false)
  | 0x88 => some (eSpec false false)
  | 0x90 => some { lat := .fixed 6, ctlOk := ctlIn 9, rnd := fun n => bit n 3, sat := fun n => bit n 3,
                   subOk := fun n => n < 16 && 1 ≤ n % 8 && n % 8 ≤ 4,
                   roles := fun n => (dInt 1, .src 1 {} (if bit n 3 then .none else if n % 8 ≤ 2 then .half else .byte), .none, .none) }
  | 0x91 => some { lat := .fixed 6, ctlOk := ctlIn 9, rnd := always, sat := always, subOk := fun n => n < 12,
                   roles := fun n => (dInt (subSpan n), .src 1 {} (selFmt (n / 4)), .none, .none) }
  | 0x92 => some { lat := .fixed 6, rnd := always, sat := always, subOk := fun n => n < 12,
                   roles := fun n => (dInt 1, .src (subSpan n) {} (if subW n then .none else .all), .none, .none) }
  | 0x93 => some { lat := .fixed 6, ctlOk := ctlIn 9, rnd := always, sat := always,
                   subOk := fun n => (1 ≤ n && n ≤ 4) || n == 11 || n == 12,
                   roles := fun n => (dInt 1, sPlain 1, sPlain 1, if n % 8 ≤ 2 then .none else sPlain 1) }
  | 0xA0 => some (eLanes (fun n => n < 4) (dV 1, sPlain 1, sPlain 1, .none))
  | 0xA1 => some (eLanes (fun n => n == 0) (dV 1, sPlain 1, .src 1 { v := false, lane := false } .none, .none))
  | 0xA2 => some (eLanes (fun n => n < 3) (.pred false, .predSrc, .none, .none))
  | 0xA3 => some (eLanes (fun n => n == 0) (.dstMask, .predSrc, .none, .none))
  | 0xA4 => some { eLanes (fun n => n < 16 && (n < 8 || n % 8 < 3)) (dV 1, sPlain 1, .none, .none) with
                   rnd := fun n => n % 16 == 8, sat := fun n => n % 16 == 8 }
  | 0xA5 => some { eLanes (fun n => n % 16 < 8 || n % 8 < 3) (dV 1, sPlain 1, .none, .none) with
                   rnd := fun n => n % 16 == 8, sat := fun n => n % 16 == 8 }
  | 0xA6 => some (eLanes (fun n => n == 0) (.dstMask, sPlain 1, .none, .none))
  | 0xA7 => some (eLanes (fun n => n == 0) (.num 7, .predSrc, .none, .none))
  | 0xB0 => some (eLoad true [0, 1, 2, 3])
  | 0xB1 => some (eStore true [0, 1, 2, 3])
  | 0xB2 => some (eLoad false [0])
  | 0xB3 => some (eStore false [0])
  | 0xB4 => some (eLoad false [1])
  | 0xB5 => some (eStore false [1])
  | 0xB8 => some (eAtom true true false)
  | 0xB9 => some (eAtom true true true)
  | 0xBA => some (eAtom true false false)
  | 0xBB => some (eAtom false true false)
  | 0xBC => some (eAtom false true true)
  | 0xBD => some (eAtom false false false)
  | 0xC0 => some { lat := .none, ctlOk := ctlMem [0, 1, 2, 3] [1, 2, 3], roles := fun _ => (.none, .none, .none, .none) }
  | 0xC1 => some { lat := .none, ctlOk := ctlMem [0, 1, 2, 3] [0], roles := fun _ => (.none, .none, .none, .none) }
  | 0xC2 => some { lat := .none, subOk := fun n => n < 2, carried := always, roles := fun _ => (.none, sBaseFig, .none, .none) }
  | 0xC3 => some { lat := .none, subOk := fun n => n < 4, carried := always, roles := fun _ => (.none, sBaseFig, .none, .none) }
  | 0xD0 => some { lat := .none, carried := fun n => bit n 2,
                   subOk := fun n => n == 0 || n == 4 || n == 1 || n == 9 || n == 6,
                   roles := fun n => match n % 4 with
                     | 0 => (sCopy32, sCopy64, sCopy64, sCopyBar false)
                     | 1 => (sCopy64, sCopy32, sCopy64, sCopyBar (bit n 3))
                     | _ => (sCopy32, sCopy32, sCopy64, sCopyBar false) }
  | 0xD1 => some { lat := .none, roles := fun _ => (sCopy64, sCopyFig, sCopyFig, sCopyBarFig) }
  | 0xD2 => some { lat := .none, roles := fun _ => (.none, sCopyFig, sCopyFig, .none) }
  | 0xD3 => some { lat := .var, subOk := fun n => n < 3, roles := fun _ => (dInt 1, .none, .none, .none) }
  | 0xD4 => some (eXb (fun n => n < 2) (fun n => n < 4) .none sDataFig .none)
  | 0xD5 => some (eXb (fun n => n < 4) (fun n => n == 0) .none sDataFig .none)
  | 0xD6 => some (eXb (fun n => n < 2) (fun n => n == 0) .none (.src 1 { lane := false, lit := false } .none) .none)
  | 0xD7 => some (eXb (fun n => n < 2) (fun n => n == 0) (.pred true) sDataFig .none)
  | 0xD8 => some { eXb (fun n => n < 2) (fun n => n == 0) (.pred false) sDataFig (.pred true) with lat := .var }
  | 0xD9 => some (eBar (.num 15))
  | 0xDA => some (eBar (.num 15))
  | 0xDB => some (eBar .none)
  | 0xDC => some (eBar .none)
  | 0xE0 => some eMma
  | 0xE1 => some eMma
  | 0xE2 => some (eTile (.num 255, .none, .none, .none))
  | 0xE3 => some (eTile (.num 255, .none, .none, .none))
  | 0xE4 => some { eTile (dV 1, sDesc true, sBare 1 { v := false, lane := false }, .num 7) with
                   lat := .var, subOk := always, rnd := always, sat := always }
  | 0xE5 => some (eTile (.num 255, sDesc true, .none, .none))
  | 0xE6 => some (eTile (.num 255, .num 255, .none, .none))
  | 0xE7 => some (eTile (.num 255, sBare 1 { v := false, lane := false }, .none, .none))
  | 0xE8 => some { lat := .fixed 6, subOk := fun n => n < 4, roles := fun _ => (dInt 1, sBare 1 {}, sBare 1 {}, sBare 1 {}) }
  | 0xE9 => some { lat := .fixed 6, subOk := fun n => n < 4, roles := fun _ => (.dst 2 true false true, sBare 1 {}, .none, .pred true) }
  | 0xEA => some { lat := .fixed 6, roles := fun _ => (dInt 1, sBare 1 {}, .none, .pred true) }
  | 0xEB => some { lat := .var, subOk := fun n => n < 4, rnd := always,
                   roles := fun _ => (dInt 1, .src 1 { lane := false } .none, .src 1 { lane := false } .none, .none) }
  | 0xF0 => some { lat := .fixed 4, xl := false, roles := fun _ => (dInt 1, .num 255, .none, .none) }
  | 0xF1 => some { lat := .none, roles := fun _ => (.num 255, sPlain 1, .none, .none) }
  | 0xF2 => some { lat := .var, subOk := fun n => n < 4, roles := fun n => (dInt (n % 2 + 1), sPlain 1, .none, .none) }
  | 0xF3 => some { lat := .fixed 8, ctlOk := ctlIn 7, roles := fun _ => (dInt 1, sPlain 1, .src 1 { v := false, lane := false, fig := false } .none, .none) }
  | 0xF4 => some { lat := .var, xl := false,
                   roles := fun _ => (.dst 1 false true false, sBare 1 { v := false, lane := false, lit := false }, .none, .none) }
  | _ => none

/-- The code a refusal or a fetch fault names for an encoding (R72, R74). -/
inductive Reject where
  | opcode | operand | contract
  deriving DecidableEq, Repr, Inhabited

/-- The literal as the 32-bit pattern that R65 admits on a 32-bit operand. -/
def lit32Ok (l : BitVec 64) : Bool :=
  let hi := l.toNat >>> 32
  hi == (if bit l.toNat 31 then 2 ^ 32 - 1 else 0)

/-- Whether register n may start an operand of `span` registers (R66, R190). -/
def aligned (n span : Nat) : Bool := n % span == 0

/-- A source field against its role (R64 to R68); `uni` says the destination is an s register. -/
def srcOk (f : Fields) (uni : Bool) (span : Nat) (adm : Adm) (sel : SelClass) (x : BitVec 8) (m : BitVec 10) : Bool :=
  let fig := modFig m
  let par := modPar m
  let selOk := sel.admits (modSel m) && (span == 1 || modSel m == 0)
  let figOk (lane : Bool) := fig == 0 && par == 0 ||
    (adm.fig && lane && (fig == 1 || fig == 3 || fig == 4 || (fig == 2 && par == 0) || (fig == 5 && par ≤ 5)))
  selOk && (match Operand.ofField x with
    | .v n => adm.v && !uni && aligned n span && decide (n + span ≤ 192) && figOk true
    | .s n => adm.s && aligned n span && decide (n + span ≤ 48) && figOk false
    | .zero => adm.zero && figOk false
    | .lane => adm.lane && !uni && figOk true
    | .lit => adm.lit && f.form ≠ .x && figOk false && (span ≠ 1 || lit32Ok f.lit)
    | .reserved => false)

/-- A source predicate field (R134): NUM 0 to 95 or 127. -/
def predSrcOk (x : BitVec 8) : Bool := let n := x.toNat % 128; n < 96 || n == 127

/-- A field against its role; the modifier of a field that is no source is 0 (R64). -/
def roleOk (f : Fields) (uni : Bool) (r : Role) (x : BitVec 8) (m : BitVec 10) : Bool :=
  match r with
  | .none => x == 0xF0#8 && m == 0#10
  | .dst span v s z => m == 0#10 && (match Operand.ofField x with
      | .v n => v && aligned n span && decide (n + span ≤ 192)
      | .s n => s && aligned n span && decide (n + span ≤ 48)
      | .zero => z
      | _ => false)
  | .dstMask => m == 0#10 && (match Operand.ofField x with
      | .v _ => true
      | .zero => true
      | _ => false)
  | .pred z => m == 0#10 && !(uni && x ≠ 0xF0#8) && (decide (x.toNat < 96) || (z && x == 0xF0#8))
  | .carry => m == 0#10 && !uni && decide (x.toNat < 96)
  | .predSrc => m == 0#10 && !uni && predSrcOk x
  | .src span adm sel => srcOk f uni span adm sel x m
  | .num mx => m == 0#10 && decide (x.toNat ≤ mx)
  | .block _ => m == 0#10 && !uni && (x == 0#8 || x == 32#8 || x == 64#8)

/-- Whether a field reads the literal (R65). -/
def readsLit (r : Role) (x : BitVec 8) : Bool :=
  match r with
  | .src _ _ _ => x == 0xF2#8
  | _ => false

/-- Whether the instruction writes an s register, which makes it uniform (R42). -/
def writesS (r : Role) (x : BitVec 8) : Bool :=
  match r with
  | .dst _ _ _ _ => match Operand.ofField x with
    | .s _ => true
    | _ => false
  | _ => false

/-- The selectors of RDSR (R177): listed, and marked uniform. -/
def srListed (n : Nat) : Bool := n ≤ 0x0C || (0x10 ≤ n && n ≤ 0x16) || n == 0x18
def srUniform (n : Nat) : Bool := n == 1 || n == 2 || (4 ≤ n && n ≤ 0x0C) || n == 0x18
def srTime : Nat := 0x18

/-- The auxiliary word of MMA and MMAG (R229). -/
def auxOk (mmag : Bool) (l : Nat) : Bool :=
  let tab := bits l 18 0
  let sa := bits l 37 19
  let sb := bits l 56 38
  let ok := fun x => x % 32 == 0 && decide (x < 393216)
  l >>> 57 == 0 && ok tab && ok sa && ok sb && (mmag || tab == 0)

/-- Checks that an entry adds to its fields' roles: the opcode code first, then the operand code. -/
def extraOpcode (opc : Nat) (f : Fields) : Bool :=
  let sub := f.sub.toNat
  let scope := f.ctl.toNat % 4
  match opc with
  | 0xD4 => (bit sub 0 && scope ≥ 2) || (!bit sub 0 && scope < 2)
  | 0xE4 => f.c.toNat % 8 ≠ 7
  | _ => true

/-- Those that answer with the operand code: among them CPY with MC = 1 in the X form, for which R201 names no code (log 89). A tile
number above 15 is one that no kernel declares (R224, R358). -/
def extraOperand (opc : Nat) (f : Fields) : Bool :=
  let sub := f.sub.toNat
  match opc with
  | 0x01 => f.form ≠ .xl || (f.a == 0#8 && f.b == 0#8 && f.c == 0#8)
  | 0x03 => f.form ≠ .xl || (f.a == 0#8 && f.b == 0#8 && f.c == 0#8)
  | 0x08 => f.prd == 127#7
  | 0x0A => f.prd == 127#7
  | 0xA7 => f.d ≠ 0#8
  | 0xD0 => if bit sub 2 then f.form == .xl && decide (f.lit.toNat < 256) else f.form == .x
  | 0xE0 => auxOk false f.lit.toNat
  | 0xE1 => auxOk true f.lit.toNat
  | 0xE4 => !(f.a == 0xF2#8 && f.b == 0xF2#8)
  | 0xEA => f.c == 0xF0#8 || !writesS (dInt 1) f.d
  | 0xF0 => srListed f.a.toNat && (!writesS (dInt 1) f.d || srUniform f.a.toNat) &&
      (f.a.toNat ≠ srTime || f.d == 0xF0#8 || f.d.toNat % 2 == 0)
  | 0xF1 => 0x10 ≤ f.d.toNat && f.d.toNat ≤ 0x13
  | 0xF4 => f.d.toNat % 2 == 0 && decide (f.d.toNat ≤ 0xC0 + 44) && f.prd == 127#7
  | _ => true

/-- The form of an instruction as the opcode map's column (R80). -/
def Entry.admits (e : Entry) : Form → Bool
  | .bl => e.bl
  | .x => e.x
  | .xl => e.xl

/-- The checks of R64 to R73 on the fields of one instruction: none when all hold, else the code. Opcode checks come
before operand checks (log 11: the spec orders them only by instruction). -/
def checkFields (opc : Nat) (f : Fields) : Option Reject :=
  match entry opc with
  | none => some .opcode
  | some e =>
    let sub := f.sub.toNat
    if e.subOk sub = false then some .opcode else
    let (rd, ra, rb, rc) := e.roles sub
    let uni := writesS rd f.d
    if !(e.admits f.form) || !(e.ctlOk f.ctl.toNat) || !(f.rnd == 0#2 || e.rnd sub) ||
       !(!f.sat || e.sat sub) || !(extraOpcode opc f) then some .opcode
    else if !(f.prd.toNat < 96 || (f.prd == 127#7 && !f.pn)) then some .operand
    else if uni && f.prd ≠ 127#7 then some .operand
    else if !(roleOk f uni rd f.d 0#10 && roleOk f uni ra f.a f.moda && roleOk f uni rb f.b f.modb && roleOk f uni rc f.c f.modc)
      then some .operand
    else if f.form == .xl && !(e.carried sub) && !(readsLit ra f.a || readsLit rb f.b || readsLit rc f.c) then some .operand
    else if f.form == .x && f.lit ≠ 0#64 then some .operand
    else if !(extraOperand opc f) then some .operand
    else none

/-- Whether an opcode uses a field in its B and BL forms, where SUB is 0 (R60). -/
def Entry.usesA (e : Entry) : Bool := (e.roles 0).2.1 ≠ .none
def Entry.usesB (e : Entry) : Bool := (e.roles 0).2.2.1 ≠ .none
def Entry.usesD (e : Entry) : Bool := (e.roles 0).1 ≠ .none

/-- The X-form fields that a B-form word denotes (R60). -/
def Fields.ofB (opc : Nat) (g : BFields) : Fields :=
  let e := (entry opc).getD { lat := .none, roles := fun _ => (.none, .none, .none, .none) }
  let fld (u : Bool) (x : BitVec 7) : BitVec 8 := if u then x.setWidth 8 else 0xF0#8
  { form := .x, sw := g.sw, sub := 0#5, d := fld e.usesD g.d, a := fld e.usesA g.a, b := fld e.usesB g.b, c := 0xF0#8,
    prd := 127#7, pn := false, rnd := 0#2, sat := false, ctl := 0#5, moda := 0#10, modb := 0#10, modc := 0#10, lit := 0#64 }

/-- The X-form fields of a BL-form word with its literal (R60): the literal is source B. -/
def Fields.ofBL (opc : Nat) (g : BFields) (lit : BitVec 64) : Fields :=
  { Fields.ofB opc g with form := .bl, b := 0xF2#8, lit := lit }

/-- A B-form word with no operands (R122). -/
def Fields.bare (sw : Bool) : Fields :=
  { form := .x, sw := sw, sub := 0#5, d := 0xF0#8, a := 0xF0#8, b := 0xF0#8, c := 0xF0#8, prd := 127#7, pn := false,
    rnd := 0#2, sat := false, ctl := 0#5, moda := 0#10, modb := 0#10, modc := 0#10, lit := 0#64 }

/-- Classes of opcode (R37, R44, R79, R303). -/
def isCollective (opc : Nat) : Bool := (0xA0 ≤ opc && opc ≤ 0xA7) || (0xE0 ≤ opc && opc ≤ 0xE7)
def isMatrix (opc : Nat) : Bool := 0xE0 ≤ opc && opc ≤ 0xE7
def isCloser (opc : Nat) : Bool :=
  (0xB8 ≤ opc && opc ≤ 0xBD) || opc == 0xD0 || opc == 0xD1 || opc == 0xD4 || opc == 0xD5 || opc == 0xD6 ||
  (0xD9 ≤ opc && opc ≤ 0xDC) || opc == 0xF4
/-- Instructions that behave as if they carried a switch marker (R79). -/
def impliesMarker (opc : Nat) : Bool :=
  opc == 0x03 || opc == 0x04 || opc == 0x05 || opc == 0x02 || opc == 0x06 || opc == 0x0A || opc == 0xC1 || opc == 0xD7
/-- Dual-eligible opcodes (R37, R153), a forward BRA apart. -/
def dualOpcode (opc : Nat) : Bool :=
  (0x20 ≤ opc && opc ≤ 0x26) || (0x29 ≤ opc && opc ≤ 0x3F) || (0x40 ≤ opc && opc ≤ 0x45) || (0x50 ≤ opc && opc ≤ 0x54) ||
  (0x60 ≤ opc && opc ≤ 0x63) || (0x70 ≤ opc && opc ≤ 0x72) || (0x90 ≤ opc && opc ≤ 0x93)

/-- The content {A, B, C} as one 24-bit number (R73). -/
def Fields.abc (f : Fields) : Nat := f.a.toNat * 65536 + f.b.toNat * 256 + f.c.toNat

/-- The signed byte offset of BRA and CALL from their address (R73). -/
def Fields.branchOff (f : Fields) : Int :=
  if f.form = .xl then sgn 64 f.lit.toNat else 4 * sgn 24 (Fields.abc f)

/-- The end offset of LOOP in bytes (R73, R129). -/
def Fields.loopOff (f : Fields) : Nat := 4 * (f.b.toNat * 256 + f.c.toNat)

/-- Length in bytes of a form (R58). -/
def Form.len : Form → Nat
  | .bl => 12 | .x => 12 | .xl => 20

/-- BRA, CALL: the XL byte offset is a multiple of 4; LOOP: the end lies past the LOOP itself, else it is no instruction's, with CONTRACT
(R73, R129), in run-time code too (log 83). -/
def offsetOk (opc : Nat) (f : Fields) : Bool :=
  match opc with
  | 0x01 => Fields.branchOff f % 4 == 0
  | 0x03 => Fields.branchOff f % 4 == 0
  | 0x08 => Form.len f.form ≤ Fields.loopOff f
  | _ => true

end Sys2Proof.Machine
end

