-- ==== Sys2Proof/Machine/Raw.lean ====
section
/-! DEFINITION. How each constructor of Instr that has an encoding stands to the fields of its words (R58 to R63, R80,
R280): one table each way, and the checks of the plain B form. -/

namespace Sys2Proof.Machine

/-- An encoded instruction before it is named: a one-word B form, a three- or five-word form, or a custom instruction
of a queue processor with its funct3. -/
inductive Raw where
  | b (opc : BitVec 8) (g : BFields)
  | w (opc : BitVec 8) (f : Fields)
  | hart (f3 : BitVec 3) (h : HFields)
  deriving DecidableEq, Repr, Inhabited

/-- The B-form word with no operands (R60). -/
def bareB (sw : Bool) : BFields := { sw := sw, d := 0#7, a := 0#7, b := 0#7 }

/-- The opcode and fields of an instruction (R80); none for the rows that are not encoded. -/
def rawOf (i : Instr) : Option Raw :=
  match i with
  | .nop sw => some (.b 0x00#8 (bareB sw))
  | .nopExt f => some (.w 0x00#8 f)
  | .bra f => some (.w 0x01#8 f)
  | .brx f => some (.w 0x02#8 f)
  | .call f => some (.w 0x03#8 f)
  | .callx f => some (.w 0x04#8 f)
  | .ret sw => some (.b 0x05#8 (bareB sw))
  | .retExt f => some (.w 0x05#8 f)
  | .exit sw => some (.b 0x06#8 (bareB sw))
  | .exitExt f => some (.w 0x06#8 f)
  | .demote sw => some (.b 0x07#8 (bareB sw))
  | .demoteExt f => some (.w 0x07#8 f)
  | .loop f => some (.w 0x08#8 f)
  | .lbrk sw => some (.b 0x09#8 (bareB sw))
  | .lbrkExt f => some (.w 0x09#8 f)
  | .canon f => some (.w 0x0A#8 f)
  | .trap f => some (.w 0x0B#8 f)
  | .brk f => some (.w 0x0C#8 f)
  | .iadd g => some (.b 0x20#8 g)
  | .iaddExt f => some (.w 0x20#8 f)
  | .isub g => some (.b 0x21#8 g)
  | .isubExt f => some (.w 0x21#8 f)
  | .iaddx f => some (.w 0x22#8 f)
  | .imul g => some (.b 0x23#8 g)
  | .imulExt f => some (.w 0x23#8 f)
  | .imulh f => some (.w 0x24#8 f)
  | .imad f => some (.w 0x25#8 f)
  | .imadw f => some (.w 0x26#8 f)
  | .idiv f => some (.w 0x27#8 f)
  | .irem f => some (.w 0x28#8 f)
  | .imin f => some (.w 0x29#8 f)
  | .imax f => some (.w 0x2A#8 f)
  | .iabs f => some (.w 0x2B#8 f)
  | .ineg f => some (.w 0x2C#8 f)
  | .shl g => some (.b 0x2D#8 g)
  | .shlExt f => some (.w 0x2D#8 f)
  | .shr g => some (.b 0x2E#8 g)
  | .shrExt f => some (.w 0x2E#8 f)
  | .sar g => some (.b 0x2F#8 g)
  | .sarExt f => some (.w 0x2F#8 f)
  | .rot f => some (.w 0x30#8 f)
  | .fshf f => some (.w 0x31#8 f)
  | .and g => some (.b 0x32#8 g)
  | .andExt f => some (.w 0x32#8 f)
  | .or g => some (.b 0x33#8 g)
  | .orExt f => some (.w 0x33#8 f)
  | .xor g => some (.b 0x34#8 g)
  | .xorExt f => some (.w 0x34#8 f)
  | .andn g => some (.b 0x35#8 g)
  | .andnExt f => some (.w 0x35#8 f)
  | .bfsel f => some (.w 0x36#8 f)
  | .popc f => some (.w 0x37#8 f)
  | .clz f => some (.w 0x38#8 f)
  | .ctz f => some (.w 0x39#8 f)
  | .brev f => some (.w 0x3A#8 f)
  | .bfx f => some (.w 0x3B#8 f)
  | .bfi f => some (.w 0x3C#8 f)
  | .lea f => some (.w 0x3D#8 f)
  | .mov g => some (.b 0x3E#8 g)
  | .movExt f => some (.w 0x3E#8 f)
  | .movi f => some (.w 0x3F#8 f)
  | .iadd2 f => some (.w 0x40#8 f)
  | .iadd4 f => some (.w 0x41#8 f)
  | .vmin4 f => some (.w 0x42#8 f)
  | .vmax4 f => some (.w 0x43#8 f)
  | .idp4 f => some (.w 0x44#8 f)
  | .isad f => some (.w 0x45#8 f)
  | .icmp f => some (.w 0x50#8 f)
  | .fcmp f => some (.w 0x51#8 f)
  | .pset f => some (.w 0x52#8 f)
  | .pmov f => some (.w 0x53#8 f)
  | .sel f => some (.w 0x54#8 f)
  | .fadd g => some (.b 0x60#8 g)
  | .faddExt f => some (.w 0x60#8 f)
  | .fsub g => some (.b 0x61#8 g)
  | .fsubExt f => some (.w 0x61#8 f)
  | .fmul g => some (.b 0x62#8 g)
  | .fmulExt f => some (.w 0x62#8 f)
  | .ffma f => some (.w 0x63#8 f)
  | .fmin f => some (.w 0x64#8 f)
  | .fmax f => some (.w 0x65#8 f)
  | .frnd f => some (.w 0x66#8 f)
  | .fclass f => some (.w 0x67#8 f)
  | .fscale f => some (.w 0x68#8 f)
  | .hadd2 f => some (.w 0x70#8 f)
  | .hmul2 f => some (.w 0x71#8 f)
  | .hfma2 f => some (.w 0x72#8 f)
  | .hmin2 f => some (.w 0x73#8 f)
  | .hmax2 f => some (.w 0x74#8 f)
  | .frcp f => some (.w 0x80#8 f)
  | .frsq f => some (.w 0x81#8 f)
  | .fsqrt f => some (.w 0x82#8 f)
  | .fdiv f => some (.w 0x83#8 f)
  | .fexp2 f => some (.w 0x84#8 f)
  | .flog2 f => some (.w 0x85#8 f)
  | .fsin f => some (.w 0x86#8 f)
  | .fcos f => some (.w 0x87#8 f)
  | .ftanh f => some (.w 0x88#8 f)
  | .fcvt f => some (.w 0x90#8 f)
  | .f2i f => some (.w 0x91#8 f)
  | .i2f f => some (.w 0x92#8 f)
  | .cvtpk f => some (.w 0x93#8 f)
  | .lshuf f => some (.w 0xA0#8 f)
  | .lbcast f => some (.w 0xA1#8 f)
  | .lvote f => some (.w 0xA2#8 f)
  | .lballot f => some (.w 0xA3#8 f)
  | .lred f => some (.w 0xA4#8 f)
  | .lscan f => some (.w 0xA5#8 f)
  | .lmatch f => some (.w 0xA6#8 f)
  | .cvset f => some (.w 0xA7#8 f)
  | .ldg f => some (.w 0xB0#8 f)
  | .stg f => some (.w 0xB1#8 f)
  | .lds f => some (.w 0xB2#8 f)
  | .sts f => some (.w 0xB3#8 f)
  | .ldx f => some (.w 0xB4#8 f)
  | .stx f => some (.w 0xB5#8 f)
  | .atomg f => some (.w 0xB8#8 f)
  | .casg f => some (.w 0xB9#8 f)
  | .redg f => some (.w 0xBA#8 f)
  | .atoms f => some (.w 0xBB#8 f)
  | .cass f => some (.w 0xBC#8 f)
  | .reds f => some (.w 0xBD#8 f)
  | .fence f => some (.w 0xC0#8 f)
  | .ifence f => some (.w 0xC1#8 f)
  | .pref f => some (.w 0xC2#8 f)
  | .cctl f => some (.w 0xC3#8 f)
  | .cpy f => some (.w 0xD0#8 f)
  | .cpyg f => some (.w 0xD1#8 f)
  | .cpyhint f => some (.w 0xD2#8 f)
  | .cpystat f => some (.w 0xD3#8 f)
  | .xbinit f => some (.w 0xD4#8 f)
  | .xbexpect f => some (.w 0xD5#8 f)
  | .xbarrive f => some (.w 0xD6#8 f)
  | .xbwait f => some (.w 0xD7#8 f)
  | .xbtest f => some (.w 0xD8#8 f)
  | .barw f => some (.w 0xD9#8 f)
  | .bara f => some (.w 0xDA#8 f)
  | .cbarw f => some (.w 0xDB#8 f)
  | .cbara f => some (.w 0xDC#8 f)
  | .mma f => some (.w 0xE0#8 f)
  | .mmag f => some (.w 0xE1#8 f)
  | .azero f => some (.w 0xE2#8 f)
  | .acmt f => some (.w 0xE3#8 f)
  | .adrain f => some (.w 0xE4#8 f)
  | .aload f => some (.w 0xE5#8 f)
  | .amerge f => some (.w 0xE6#8 f)
  | .acfg f => some (.w 0xE7#8 f)
  | .t5pack f => some (.w 0xE8#8 f)
  | .t5unpk f => some (.w 0xE9#8 f)
  | .t5chk f => some (.w 0xEA#8 f)
  | .mxq f => some (.w 0xEB#8 f)
  | .rdsr f => some (.w 0xF0#8 f)
  | .wrsr f => some (.w 0xF1#8 f)
  | .ldk f => some (.w 0xF2#8 f)
  | .rand f => some (.w 0xF3#8 f)
  | .wkfetch f => some (.w 0xF4#8 f)
  | .rfetch h => some (.hart 0#3 h)
  | .bfxt h => some (.hart 1#3 h)
  | .swait h => some (.hart 2#3 h)
  | .disp h => some (.hart 3#3 h)
  | _ => none

/-- The instruction of a B-form opcode (R80). -/
def instrOfB (opc : Nat) (g : BFields) : Option Instr :=
  match opc with
  | 0x00 => some (.nop g.sw)
  | 0x05 => some (.ret g.sw)
  | 0x06 => some (.exit g.sw)
  | 0x07 => some (.demote g.sw)
  | 0x09 => some (.lbrk g.sw)
  | 0x20 => some (.iadd g)
  | 0x21 => some (.isub g)
  | 0x23 => some (.imul g)
  | 0x2D => some (.shl g)
  | 0x2E => some (.shr g)
  | 0x2F => some (.sar g)
  | 0x32 => some (.and g)
  | 0x33 => some (.or g)
  | 0x34 => some (.xor g)
  | 0x35 => some (.andn g)
  | 0x3E => some (.mov g)
  | 0x60 => some (.fadd g)
  | 0x61 => some (.fsub g)
  | 0x62 => some (.fmul g)
  | _ => none

/-- The instruction of an opcode in the other forms (R80). -/
def instrOfW (opc : Nat) (f : Fields) : Option Instr :=
  match opc with
  | 0x00 => some (.nopExt f)
  | 0x01 => some (.bra f)
  | 0x02 => some (.brx f)
  | 0x03 => some (.call f)
  | 0x04 => some (.callx f)
  | 0x05 => some (.retExt f)
  | 0x06 => some (.exitExt f)
  | 0x07 => some (.demoteExt f)
  | 0x08 => some (.loop f)
  | 0x09 => some (.lbrkExt f)
  | 0x0A => some (.canon f)
  | 0x0B => some (.trap f)
  | 0x0C => some (.brk f)
  | 0x20 => some (.iaddExt f)
  | 0x21 => some (.isubExt f)
  | 0x22 => some (.iaddx f)
  | 0x23 => some (.imulExt f)
  | 0x24 => some (.imulh f)
  | 0x25 => some (.imad f)
  | 0x26 => some (.imadw f)
  | 0x27 => some (.idiv f)
  | 0x28 => some (.irem f)
  | 0x29 => some (.imin f)
  | 0x2A => some (.imax f)
  | 0x2B => some (.iabs f)
  | 0x2C => some (.ineg f)
  | 0x2D => some (.shlExt f)
  | 0x2E => some (.shrExt f)
  | 0x2F => some (.sarExt f)
  | 0x30 => some (.rot f)
  | 0x31 => some (.fshf f)
  | 0x32 => some (.andExt f)
  | 0x33 => some (.orExt f)
  | 0x34 => some (.xorExt f)
  | 0x35 => some (.andnExt f)
  | 0x36 => some (.bfsel f)
  | 0x37 => some (.popc f)
  | 0x38 => some (.clz f)
  | 0x39 => some (.ctz f)
  | 0x3A => some (.brev f)
  | 0x3B => some (.bfx f)
  | 0x3C => some (.bfi f)
  | 0x3D => some (.lea f)
  | 0x3E => some (.movExt f)
  | 0x3F => some (.movi f)
  | 0x40 => some (.iadd2 f)
  | 0x41 => some (.iadd4 f)
  | 0x42 => some (.vmin4 f)
  | 0x43 => some (.vmax4 f)
  | 0x44 => some (.idp4 f)
  | 0x45 => some (.isad f)
  | 0x50 => some (.icmp f)
  | 0x51 => some (.fcmp f)
  | 0x52 => some (.pset f)
  | 0x53 => some (.pmov f)
  | 0x54 => some (.sel f)
  | 0x60 => some (.faddExt f)
  | 0x61 => some (.fsubExt f)
  | 0x62 => some (.fmulExt f)
  | 0x63 => some (.ffma f)
  | 0x64 => some (.fmin f)
  | 0x65 => some (.fmax f)
  | 0x66 => some (.frnd f)
  | 0x67 => some (.fclass f)
  | 0x68 => some (.fscale f)
  | 0x70 => some (.hadd2 f)
  | 0x71 => some (.hmul2 f)
  | 0x72 => some (.hfma2 f)
  | 0x73 => some (.hmin2 f)
  | 0x74 => some (.hmax2 f)
  | 0x80 => some (.frcp f)
  | 0x81 => some (.frsq f)
  | 0x82 => some (.fsqrt f)
  | 0x83 => some (.fdiv f)
  | 0x84 => some (.fexp2 f)
  | 0x85 => some (.flog2 f)
  | 0x86 => some (.fsin f)
  | 0x87 => some (.fcos f)
  | 0x88 => some (.ftanh f)
  | 0x90 => some (.fcvt f)
  | 0x91 => some (.f2i f)
  | 0x92 => some (.i2f f)
  | 0x93 => some (.cvtpk f)
  | 0xA0 => some (.lshuf f)
  | 0xA1 => some (.lbcast f)
  | 0xA2 => some (.lvote f)
  | 0xA3 => some (.lballot f)
  | 0xA4 => some (.lred f)
  | 0xA5 => some (.lscan f)
  | 0xA6 => some (.lmatch f)
  | 0xA7 => some (.cvset f)
  | 0xB0 => some (.ldg f)
  | 0xB1 => some (.stg f)
  | 0xB2 => some (.lds f)
  | 0xB3 => some (.sts f)
  | 0xB4 => some (.ldx f)
  | 0xB5 => some (.stx f)
  | 0xB8 => some (.atomg f)
  | 0xB9 => some (.casg f)
  | 0xBA => some (.redg f)
  | 0xBB => some (.atoms f)
  | 0xBC => some (.cass f)
  | 0xBD => some (.reds f)
  | 0xC0 => some (.fence f)
  | 0xC1 => some (.ifence f)
  | 0xC2 => some (.pref f)
  | 0xC3 => some (.cctl f)
  | 0xD0 => some (.cpy f)
  | 0xD1 => some (.cpyg f)
  | 0xD2 => some (.cpyhint f)
  | 0xD3 => some (.cpystat f)
  | 0xD4 => some (.xbinit f)
  | 0xD5 => some (.xbexpect f)
  | 0xD6 => some (.xbarrive f)
  | 0xD7 => some (.xbwait f)
  | 0xD8 => some (.xbtest f)
  | 0xD9 => some (.barw f)
  | 0xDA => some (.bara f)
  | 0xDB => some (.cbarw f)
  | 0xDC => some (.cbara f)
  | 0xE0 => some (.mma f)
  | 0xE1 => some (.mmag f)
  | 0xE2 => some (.azero f)
  | 0xE3 => some (.acmt f)
  | 0xE4 => some (.adrain f)
  | 0xE5 => some (.aload f)
  | 0xE6 => some (.amerge f)
  | 0xE7 => some (.acfg f)
  | 0xE8 => some (.t5pack f)
  | 0xE9 => some (.t5unpk f)
  | 0xEA => some (.t5chk f)
  | 0xEB => some (.mxq f)
  | 0xF0 => some (.rdsr f)
  | 0xF1 => some (.wrsr f)
  | 0xF2 => some (.ldk f)
  | 0xF3 => some (.rand f)
  | 0xF4 => some (.wkfetch f)
  | _ => none

/-- The custom instruction of a funct3 (R280). -/
def instrOfHart (f3 : Nat) (h : HFields) : Option Instr :=
  match f3 with
  | 0 => some (.rfetch h)
  | 1 => some (.bfxt h)
  | 2 => some (.swait h)
  | 3 => some (.disp h)
  | _ => none

/-- The instruction of raw fields, when an opcode or funct3 names one. -/
def Raw.instr : Raw → Option Instr
  | .b opc g => instrOfB opc.toNat g
  | .w opc f => instrOfW opc.toNat f
  | .hart f3 h => instrOfHart f3.toNat h

/-- Whether an opcode admits the plain B form (R80). -/
def admitsB (opc : Nat) : Bool := (instrOfB opc default).isSome

/-- The checks of a B-form word: the opcode admits the form, and an unused field is 0 (R60, R74). -/
def checkB (opc : Nat) (g : BFields) : Option Reject :=
  if !admitsB opc then some .opcode else
  match entry opc with
  | none => some .opcode
  | some e =>
    if (e.usesD || g.d == 0#7) && (e.usesA || g.a == 0#7) && (e.usesB || g.b == 0#7) then none else some .operand

/-- The B-form fields of a BL form's X-form equivalent; an unused field is 0 (R60). -/
def bOfBL (opc : Nat) (f : Fields) : BFields :=
  let e := (entry opc).getD default
  { sw := f.sw, d := if e.usesD then f.d.setWidth 7 else 0#7, a := if e.usesA then f.a.setWidth 7 else 0#7, b := 0#7 }

/-- The checks of a three- or five-word form: R64 to R73, and the BL form holds no more than its words do (R60). -/
def checkW (opc : Nat) (f : Fields) : Option Reject :=
  match checkFields opc f with
  | some r => some r
  | none =>
    if f.form = .bl ∧ f ≠ Fields.ofBL opc (bOfBL opc f) f.lit then some .operand
    else if offsetOk opc f then none else some .contract

/-- The funct7 a custom instruction admits (R280 to R284). -/
def checkHart (f3 : Nat) (h : HFields) : Bool :=
  match f3 with
  | 0 => h.f7 == 0#7
  | 1 => decide (h.f7.toNat < 2)
  | 2 => decide (h.f7.toNat < 3)
  | 3 => h.f7 == 0#7
  | _ => false

/-- The checks of raw fields: none when all hold, else the code the loader or the fetch names (R74, R76). -/
def Raw.check : Raw → Option Reject
  | .b opc g => checkB opc.toNat g
  | .w opc f => checkW opc.toNat f
  | .hart f3 h => if checkHart f3.toNat h then none else some .opcode

end Sys2Proof.Machine
end

