-- ==== Sys2Proof/WellFormed.lean ====
section
/-! DEFINITION. Well-formed instructions: those whose fields pass the checks that the loader, and the fetch from
run-time code, make of one instruction (R60, R64 to R73, R76). -/

namespace Sys2Proof

/-- An encoded instruction is well formed when its fields pass the checks; a row without an encoding always is. -/
def Instr.wf (i : Instr) : Bool :=
  match Machine.rawOf i with
  | some r => r.check == none
  | none => true

/-- Whether a row of the table has an encoding. -/
def Instr.encoded (i : Instr) : Bool := (Machine.rawOf i).isSome

end Sys2Proof
end

