-- ==== Sys2Proof/Decode.lean ====
section
/-! DEFINITION. The decoder: total on any bytes, rejecting by name (R58 to R63, R74, R76), the encoder after it, and
the host's reading of a table word. -/

namespace Sys2Proof

/-- Why bytes are not an instruction: too few of them, or the code R74 names. -/
inductive DecodeError where
  | short
  | bad (code : Machine.Reject)
  deriving DecidableEq, Repr, Inhabited

/-- Length in bytes from word 0 (R58). -/
def instrLen (w0 : Word) : Nat :=
  let l := w0.extractLsb' 30 2
  if l = 0#2 then 4 else if l = 3#2 then 20 else 12

/-- The B-form fields of word 0 (R59). -/
def bFieldsOf (w : Word) : BFields :=
  { sw := w.getLsbD 29, d := w.extractLsb' 14 7, a := w.extractLsb' 7 7, b := w.extractLsb' 0 7 }

/-- The fields of words 0, 1 and 2 (R61 to R63) with the literal. -/
def xFieldsOf (form : Form) (w0 w1 w2 : Word) (lit : DWord) : Fields :=
  { form := form, sw := w0.getLsbD 29, sub := w0.extractLsb' 16 5, d := w0.extractLsb' 8 8, a := w0.extractLsb' 0 8,
    b := w1.extractLsb' 24 8, c := w1.extractLsb' 16 8, prd := w1.extractLsb' 9 7, pn := w1.getLsbD 8,
    rnd := w1.extractLsb' 6 2, sat := w1.getLsbD 5, ctl := w1.extractLsb' 0 5,
    moda := w2.extractLsb' 22 10, modb := w2.extractLsb' 12 10, modc := w2.extractLsb' 2 10, lit := lit }

/-- The literal of two words, bits 31..0 first (R58). -/
def litOf (l0 l1 : Word) : DWord := l1 ++ l0

/-- The raw fields of an instruction's words (R58); reserved bits and unused BL fields must be 0 (R60, R63). -/
def rawOfWords : List Word → Except DecodeError (Machine.Raw × List Word)
  | [] => .error .short
  | w0 :: rest =>
    let opc := w0.extractLsb' 21 8
    if instrLen w0 = 4 then .ok (.b opc (bFieldsOf w0), rest)
    else if w0.extractLsb' 30 2 = 1#2 then
      match rest with
      | l0 :: l1 :: rest =>
        let g := bFieldsOf w0
        let e := (Machine.entry opc.toNat).getD default
        if e.bl = false then .error (.bad .opcode)
        else if g.b = 0#7 ∧ (e.usesA = true ∨ g.a = 0#7) then .ok (.w opc (Machine.Fields.ofBL opc.toNat g (litOf l0 l1)), rest)
        else .error (.bad .operand)
      | _ => .error .short
    else if instrLen w0 = 12 then
      match rest with
      | w1 :: w2 :: rest =>
        if w2.extractLsb' 0 2 = 0#2 then .ok (.w opc (xFieldsOf .x w0 w1 w2 0#64), rest) else .error (.bad .opcode)
      | _ => .error .short
    else
      match rest with
      | w1 :: w2 :: l0 :: l1 :: rest =>
        if w2.extractLsb' 0 2 = 0#2 then .ok (.w opc (xFieldsOf .xl w0 w1 w2 (litOf l0 l1)), rest) else .error (.bad .opcode)
      | _ => .error .short

/-- The instruction at the head of a list of words, checked, with the words after it (R74). -/
def decode (ws : List Word) : Except DecodeError (Instr × List Word) :=
  match rawOfWords ws with
  | .error e => .error e
  | .ok (r, rest) =>
    match r.check with
    | some c => .error (.bad c)
    | none =>
      match r.instr with
      | some i => .ok (i, rest)
      | none => .error (.bad .opcode)

/-- Words of bytes, little-endian (R3, R58); bytes short of a word are left. -/
def wordsOf : List Byte → List Word
  | b0 :: b1 :: b2 :: b3 :: rest => (b3 ++ b2 ++ b1 ++ b0) :: wordsOf rest
  | _ => []

/-- Decoding bytes as instruction memory holds them (R58): the instruction and its length in bytes. -/
def decodeBytes (bs : List Byte) : Except DecodeError (Instr × Nat) :=
  match decode (wordsOf bs) with
  | .error e => .error e
  | .ok (i, rest) => .ok (i, 4 * ((wordsOf bs).length - rest.length))

/-- A custom-0 word of a queue processor (R280): the R-type fields. -/
def hFieldsOf (w : Word) : HFields :=
  { f7 := w.extractLsb' 25 7, rs2 := w.extractLsb' 20 5, rs1 := w.extractLsb' 15 5, rd := w.extractLsb' 7 5 }

/-- The custom-0 major opcode (R280). -/
def isCustom0 (w : Word) : Bool := w.extractLsb' 0 7 == 0b0001011#7

/-- Decoding a queue processor's word: none where it is no custom instruction of R280. -/
def decodeHart (w : Word) : Option Instr :=
  let r := Machine.Raw.hart (w.extractLsb' 12 3) (hFieldsOf w)
  if isCustom0 w && r.check == none then r.instr else none

/-- The words of raw fields, written from R58 to R63 and R280. -/
def wordsOfRaw : Machine.Raw → List Word
  | .b opc g => [(0#2 ++ BitVec.ofBool g.sw ++ opc ++ g.d ++ g.a ++ g.b : Word)]
  | .hart f3 h => [(h.f7 ++ h.rs2 ++ h.rs1 ++ f3 ++ h.rd ++ 0b0001011#7 : Word)]
  | .w opc f =>
    let l0 := f.lit.extractLsb' 0 32
    let l1 := f.lit.extractLsb' 32 32
    let w1 : Word := f.b ++ f.c ++ f.prd ++ BitVec.ofBool f.pn ++ f.rnd ++ BitVec.ofBool f.sat ++ f.ctl
    let w2 : Word := f.moda ++ f.modb ++ f.modc ++ 0#2
    let w0 (len : BitVec 2) : Word := len ++ BitVec.ofBool f.sw ++ opc ++ f.sub ++ f.d ++ f.a
    match f.form with
    | .bl =>
      let g := Machine.bOfBL opc.toNat f
      [(1#2 ++ BitVec.ofBool g.sw ++ opc ++ g.d ++ g.a ++ g.b : Word), l0, l1]
    | .x => [w0 2#2, w1, w2]
    | .xl => [w0 3#2, w1, w2, l0, l1]

/-- The words of an instruction; a row without an encoding has none. -/
def encode (i : Instr) : List Word :=
  match Machine.rawOf i with
  | some r => wordsOfRaw r
  | none => []

/-- The five words of a number whose bit 0 is the first word's least significant bit. -/
def fiveWords (w : Nat) : List Word := (List.range 5).map (fun k => BitVec.ofNat 32 (w >>> (32 * k)))

/-- The host's table word: the bits above `nbits` are 0. A word of a queue processor's custom instruction is read as
that instruction (the table has both kinds; log 12), any other as an instruction of a lane. -/
def decodeTableWord (nbits w : Nat) : Option Instr :=
  let ws := fiveWords (w % 2 ^ nbits)
  match decodeHart (BitVec.ofNat 32 (w % 2 ^ nbits)) with
  | some i => some i
  | none =>
    match decode ws with
    | .ok (i, _) => some i
    | .error _ => none

end Sys2Proof
end

