-- ==== Sys2Proof/Machine/State.lean ====
section
/-! DEFINITION. The whole state of a TQ-5840 as plain data: lanes, groups, teams and grids (R22 to R57), memory and the
units in front of it (R246 to R261), queues and firmware (R271 to R300), links, management, jobs and debug (R335 to
R357), the agenda that says who moves next, and the state right after reset. -/

namespace Sys2Proof.Machine

/-- A frame record (R51, R323). -/
structure Frame where
  ret : DWord
  n : Nat
  deriving DecidableEq, Repr, Inhabited

/-- A hardware-loop record (R55, R323). -/
structure LoopRec where
  start : DWord
  last : DWord
  depth : Nat
  y : Bool
  deriving DecidableEq, Repr, Inhabited

/-- Where the bytes of an access lie (R186, R247, R335): local DRAM, a byte of a core's scratchpad, or a system address. -/
inductive Loc where
  | dram (a : Nat)
  | scr (core off : Nat)
  | sys (a : Nat)
  deriving DecidableEq, Repr, Inhabited

/-- What a lane parked at XBWAIT waits for (R218). -/
structure XWait where
  loc : Loc
  addr : Nat
  phase : Nat
  pd : Option Nat
  /-- the observation has been made and found the phase not complete -/
  armed : Bool
  deriving DecidableEq, Repr, Inhabited

/-- The states of R35; a stop is held at the group, the team and the grid. -/
inductive LaneSt where
  | running
  | draining
  | atCollective (inst : Nat)
  | atSync
  | atTeamBar (n : Nat)
  | atClusterBar
  | atXbar (w : XWait)
  | exited
  deriving DecidableEq, Repr, Inhabited

/-- The snapshot that a CANON takes (R302), with the ordinal of that CANON. -/
structure Snapshot where
  ord : Nat
  pc : DWord
  frames : List Frame
  w0 : Nat
  loops : List LoopRec
  lc0 : Word
  lc1 : Word
  lc2 : Word
  yielded : Bool
  demoted : Bool
  fstat : BitVec 5
  deriving DecidableEq, Repr, Inhabited

/-- One lane (R22, R30, R35, R51, R100, R298, R302, R308). -/
structure Lane where
  st : LaneSt
  yielded : Bool
  demoted : Bool
  pc : DWord
  /-- frame records, innermost first; their number is the call depth -/
  frames : List Frame
  w0 : Nat
  /-- the register stack: slot w0 + i is vi (R51) -/
  v : Sparse Word
  /-- slots whose content is poisoned (R255) -/
  spoilt : List Nat
  /-- slots or frame records of the lane lie in the backing area and not in the physical store (R53) -/
  cold : Bool
  p : BitVec 96
  lc0 : Word
  lc1 : Word
  lc2 : Word
  /-- loop records, innermost first (R55) -/
  loops : List LoopRec
  fstat : BitVec 5
  /-- the sync set of R308 -/
  sigma : LaneMask
  snap : Snapshot
  /-- instructions issued since the last CANON, itself counted (R76) -/
  since : Nat
  /-- passed, since the last canonical point: an irrevocable instruction (R303), a transfer of R313, a matrix arrival -/
  irrev : Bool
  xfer : Bool
  matArr : Bool
  /-- matrix instances arrived at since the last canonical point (R313) -/
  arrived : List Nat
  /-- the last issued instruction was a closer (R76) -/
  closer : Bool
  /-- tagged reductions issued (R298) -/
  tseq : Nat
  /-- accesses, signals and matrix instances that a barrier's release put before what this lane does next (R221) -/
  after : List Nat
  /-- parked by an instruction that carried a switch marker: the drain comes with the release (R35, R78) -/
  owed : Bool
  deriving DecidableEq, Repr, Inhabited

/-- A lane's arrival at a collective, with its sources as read then (R168). -/
structure Arrival where
  lane : Nat
  guard : Bool
  a : Nat
  b : Nat
  c : Nat
  deriving DecidableEq, Repr, Inhabited

/-- A collective instance that some lane has arrived at (R44, R46, R169). -/
structure Inst where
  id : Nat
  pc : DWord
  depth : Nat
  opc : Nat
  f : Fields
  /-- the participant set of cv1 to cv7, read at the first arrival; cv0 is read live -/
  members : LaneMask
  arrivals : List Arrival
  /-- the stamp of the completing arrival, once complete -/
  done : Option Nat
  deriving DecidableEq, Repr, Inhabited

/-- One group (R22, R33, R42, R45). -/
structure Group where
  tag : Nat
  team : Nat
  num : Nat
  role : Nat
  s : Sparse Word
  /-- the stamp of the issue whose write to each s register took effect last (R42) -/
  sAt : Sparse Nat
  /-- s registers whose content is poisoned (R255) -/
  spoilt : List Nat
  cv : Sparse LaneMask
  lanes : List Lane
  insts : List Inst
  /-- the scheduler holding the group, and the stamp of its most recent issue, 0 for never (R33) -/
  sched : Nat
  lastIssue : Nat
  /-- the issue counter sampled by WAITGRAPH (R356) -/
  issues : Nat
  /-- stopped by the stopping window, a serialise, a debugger (R332, R313, R357) -/
  stopped : Bool
  /-- the translation fault, or the line of code, that its issue waits for: passed over until then (R186, R246, log 98) -/
  hold : Option Nat
  /-- a STEP site asks it to stop at its next canonical points (R357) -/
  stepping : Bool
  /-- it issued a CANON since its last matrix instance (R236) -/
  canonSince : Bool
  /-- its copy instruction found no room in the queue: passed over until so many entries are free (R204); 0 for none -/
  blocked : Nat
  deriving DecidableEq, Repr, Inhabited

/-- An accumulator tile, or its committed shadow (R112, R224): element (i, j) at i × cols + j. -/
structure Tile where
  rows : Nat
  cols : Nat
  exact : Bool
  elem : Sparse (BitVec 128)
  nan : Sparse Bool
  e : Int
  flag : Bool
  /-- elements whose content is poisoned (R255) -/
  spoilt : List Nat
  deriving DecidableEq, Repr, Inhabited

/-- A team or cluster barrier (R220), with what its arrivals put before its release (R221), and the lanes that have arrived in this phase, as
(team, group, lane) (R356). -/
structure Bar where
  n : Nat
  e : Option Nat
  before : List Nat := []
  who : List (Nat × Nat × Nat) := []
  deriving DecidableEq, Repr, Inhabited

/-- The four kinds of copy (R211). -/
inductive CopyDir where
  | g2s | s2g | s2x | g2g
  deriving DecidableEq, Repr, Inhabited

/-- A copy queue entry (R211), or a hint (R209). -/
structure Copy where
  seq : Nat
  hint : Bool
  dir : CopyDir
  mc : Bool
  gb : Bool
  mask : Nat
  src : Nat
  dst : Nat
  shape : Nat
  bar : Option Nat
  lane : Nat
  pc : DWord
  /-- deliveries made; and, of the signals they call for, how many are not applied -/
  made : Nat
  sigs : Nat
  faulted : Bool
  /-- stamp of the post: the posting lane's earlier accesses come first (R207), and what a barrier put before the lane (R221) -/
  stamp : Nat
  after : List Nat
  /-- a link transaction the next delivery waits for, and the source bytes it brought (R208) -/
  wait : Option Nat
  buf : Option (List Byte)
  /-- the translation fault it waits for (R205) -/
  hold : Option Nat
  deriving DecidableEq, Repr, Inhabited

/-- A matrix instance that has entered the team's matrix order (R223, R225). -/
structure MatInst where
  id : Nat
  grp : Nat
  pc : DWord
  opc : Nat
  f : Fields
  arrivals : List Arrival
  /-- stamp of its completing arrival -/
  stamp : Nat
  /-- what a barrier put before its participants (R221, R234) -/
  after : List Nat
  /-- the group issued a CANON since its previous instance (R236) -/
  canonSince : Bool
  deriving DecidableEq, Repr, Inhabited

/-- What the preceding MMA or MMAG of the matrix order read, for a reuse mark (R236). -/
structure MatUse where
  grp : Nat
  opc : Nat
  fmt : Nat
  da : Nat
  db : Nat
  table : List Nat
  /-- the added operand's row bytes, and the steering operand's of each row-block selection -/
  aRows : List (List Byte)
  bRows : List (List (List Byte))
  deriving DecidableEq, Repr, Inhabited

/-- One started, unretired team (R22, R26, R204, R220, R225). -/
structure Team where
  tag : Nat
  idx : Nat
  core : Nat
  base : Nat
  /-- false while an image's team waits to be reinstated (R329) -/
  resident : Bool
  /-- scratchpad bytes of a team that waits to be reinstated -/
  image : Memory
  tiles : List Tile
  shadows : List Tile
  copies : List Copy
  nextSeq : Nat
  tb : List Bar
  matq : List MatInst
  lastMat : Option MatUse
  /-- instances that entered the matrix order, with the tiles they name; those that a commit marker follows (R313) -/
  past : List (Nat × List Nat)
  marked : List Nat
  /-- XBINITs that a cluster barrier's release put before the signals that the team issues from a stamp on (R222) -/
  setups : List (Nat × Nat)
  stopped : Bool
  deriving DecidableEq, Repr, Inhabited

/-- A role of a kernel control block (R290). -/
structure RoleRec where
  groups : Nat
  budget : Nat
  stack : Nat
  entry : Nat
  deriving DecidableEq, Repr, Inhabited

/-- A kernel control block (R289, R291): tiles as (rows, columns, exact), rows 0 when undeclared. -/
structure Kcb where
  width : Nat
  roles : List RoleRec
  scratch : Nat
  copyq : Nat
  cluster : Nat
  disp : Bool
  det : Bool
  fptrap : BitVec 5
  spill : Nat
  canlo : Nat
  cann : Nat
  tiles : List (Nat × Nat × Bool)
  deriving DecidableEq, Repr, Inhabited

/-- A claim of work items (R182, R320). -/
structure Claim where
  team : Nat
  grp : Nat
  first : Nat
  g : Nat
  deriving DecidableEq, Repr, Inhabited

/-- One fault of a stopping window (R332, R333). -/
structure FaultRec where
  code : Nat
  team : Nat
  grp : Nat
  lane : Nat
  ord : Nat
  pc : DWord
  addr : Nat
  /-- further faults that this record already stands for in COUNT -/
  extra : Nat
  deriving DecidableEq, Repr, Inhabited

/-- A held tagged reduction (R298, R299): its key, target, operand, and its entry when it lies in the spill region. -/
structure TagRed where
  slice : Nat
  addr : Nat
  val : Word
  team : Nat
  lane : Nat
  seq : Nat
  spilled : Option Nat
  deriving DecidableEq, Repr, Inhabited

/-- A serialise in progress or held (R311, R313). -/
structure Serial where
  image : Nat
  /-- bytes at the image address of the process `proc`, when a requester names one -/
  cap : Nat
  named : Bool
  proc : Nat
  /-- the device asked, or the debugger: the image lies where Rolahild puts it -/
  own : Bool
  snapshot : Bool
  /-- a debugger asked for the stop, who holds the image (R357) -/
  byDbg : Bool
  /-- the power limit asked (R19), the end of a turn asked (R287) -/
  byPower : Bool
  byTurn : Bool
  cause : Nat
  /-- requests it serves (R316): completion signals with their processes -/
  reqs : List (Nat × Nat)
  started : Nat
  /-- decision sets chosen; forward groups as (team, group) -/
  decided : Bool
  forward : List (Nat × Nat)
  /-- the image did not fit: the grid stays stopped with its state held (R311) -/
  held : Bool
  /-- a SAMPLE site asked for a snapshot too (R357) -/
  sample : Bool := false
  deriving DecidableEq, Repr, Inhabited

/-- A debugger's hold on a grid (R357). -/
structure Dbg where
  sites : List Site
  arrivals : List Nat
  /-- lanes (team, group, lane) that a resume put at their site: they pass it once (log 32) -/
  passes : List (Nat × Nat × Nat)
  deriving DecidableEq, Repr, Inhabited

/-- A lane-cycle record being counted (R355): bins as (LO, HI), 80 counters. -/
structure LcRec where
  recAddr : Nat
  bins : List (Nat × Nat)
  counts : List Nat
  issues : Nat
  tstart : Nat
  run : Bool
  deriving DecidableEq, Repr, Inhabited

/-- One grid that has been accepted and not released (R28, R29, R180, R295, R300). -/
structure Grid where
  tag : Nat
  proc : Nat
  handle : Nat
  koff : Nat
  kcb : Kcb
  x : Nat
  y : Nat
  z : Nat
  n : Nat
  params : List Byte
  sig : Nat
  /-- the launching queue's descriptor address, 0 for none -/
  queue : Nat
  tick : Bool
  part : Nat
  /-- acceptance order (R294) -/
  order : Nat
  /-- lowest team index not yet started (R319) -/
  started : Nat
  next : Nat
  claims : List Claim
  /-- cluster barriers by cluster index; the image holds each in the rank-0 team's record (R220, R321) -/
  cbars : Sparse Bar
  /-- the barrier roll, and how many entries the pages it has grown into hold (R296) -/
  roll : List Nat
  rollCap : Nat
  faults : List FaultRec
  /-- whether a KILL stops it (R296) -/
  killed : Bool
  held : List TagRed
  /-- addresses of its register backing and spill region, as given in its image (R319) -/
  backing : Nat
  spillad : Nat
  ser : Option Serial
  dbg : Option Dbg
  lcrec : Option LcRec
  deriving DecidableEq, Repr, Inhabited

/-- A canonical-table entry (R301). -/
structure CanonEnt where
  pcoff : Nat
  sync : Bool
  short : Bool
  acc : BitVec 16
  plive : BitVec 96
  slive : BitVec 48
  lclive : BitVec 3
  vlive : BitVec 192
  deriving DecidableEq, Repr, Inhabited

/-- A loaded code object (R74, R75, R88, R125). -/
structure CodeObj where
  handle : Nat
  proc : Nat
  text : Nat
  textLen : Nat
  /-- instruction starts, as byte offsets (R75) -/
  starts : List Nat
  /-- transfer points with their register reach (R25, R125) -/
  points : List (Nat × Nat)
  canon : List CanonEnt
  /-- kernel control blocks: offset in `.kcb`, and the 128 bytes as a number (R89, R289) -/
  kcbs : List (Nat × Nat)
  rodata : Nat
  rodataLen : Nat
  /-- 64 KiB pages that the loader mapped for it (R88) -/
  pages : List Nat
  digest : BitVec 384
  deriving DecidableEq, Repr, Inhabited

/-- A range of run-time code with its canonical table and ordinal base (R76, R307). -/
structure RunCode where
  proc : Nat
  va : Nat
  len : Nat
  base : Nat
  canon : List CanonEnt
  deriving DecidableEq, Repr, Inhabited

/-- A process: its table root (R256), its fault log (R334), the ranges it registered as device-served (R259). -/
structure Process where
  pid : Nat
  root : Nat
  log : Option (Nat × Nat)
  written : Nat
  served : List (Nat × Nat)
  deriving DecidableEq, Repr, Inhabited

/-- Operand-formed data of one access. -/
inductive AccKind where
  /-- load `size` bytes into slots, sign-extending when `sx` -/
  | load (sx : Bool)
  | store
  /-- atomic OP of R195, returning the old value when `ret` -/
  | atom (op : Nat) (ret : Bool)
  /-- compare (in `dat`) and swap (`dat2`) -/
  | cas (ret : Bool)
  /-- a FENCE: ordering only (R198) -/
  | fence
  /-- an IFENCE: what precedes it performed, the octet's code dropped (R199) -/
  | ifence
  /-- a constant read by LDK, ordered with nothing (R179) -/
  | ldk
  | xbinit
  | xbtest
  | xbwait
  /-- MXQ from `addr` to `dat` (R245): SRC, DST, rounding -/
  | mxq (src dst : Bool) (rnd : BitVec 2)
  deriving DecidableEq, Repr, Inhabited

/-- Where a result goes: register-stack slots, s registers or predicates. -/
inductive Dest where
  | v (slot : Nat)
  | s (n : Nat)
  | p (n : Nat)
  | none
  deriving DecidableEq, Repr, Inhabited

/-- A memory access between its issue and its home (R187, R262). -/
structure Access where
  id : Nat
  tag : Nat
  team : Nat
  grp : Nat
  lane : Nat
  /-- every lane the result goes to: the issuing set of a uniform access, else the lane; lanes that exit leave it -/
  lanes : LaneMask
  /-- the lanes in whose program order it stands, exited or not (R50) -/
  by_ : LaneMask
  /-- stamp of the issue -/
  issue : Nat
  pc : DWord
  kind : AccKind
  loc : Loc
  /-- the address the program named -/
  addr : Nat
  size : Nat
  /-- the operand; of a load the bytes of the whole instruction -/
  dat : Nat
  dat2 : Nat
  dest : Dest
  dest2 : Dest
  scope : Nat
  ord : Nat
  ch : Nat
  /-- the link transaction it waits for -/
  wait : Option Nat
  /-- since it left, its core's L1 has taken a newer state of the line: its answer fills none (R250, R263) -/
  stale : Bool
  /-- every lane that it stands for had been demoted when it issued: its fault is not reported (R42, R49) -/
  hush : Bool
  /-- what a barrier put before it (R221) -/
  after : List Nat
  /-- a cluster barrier put it before other cores' accesses: their L1s lose the line when it has been made (R221, R250) -/
  spread : Bool
  /-- it met a line that a copy owned: it acts on the copied bytes and not on those of an L1 (R189) -/
  waited : Bool
  deriving DecidableEq, Repr, Inhabited

/-- A write of a register result. -/
structure Wr where
  dest : Dest
  val : Nat
  deriving DecidableEq, Repr, Inhabited

/-- A variable-latency result that has not returned (R78, R154). -/
structure Result where
  id : Nat
  tag : Nat
  team : Nat
  grp : Nat
  /-- stamp of the issue, or of a collective's completing arrival (R42, R169) -/
  issue : Nat
  /-- a result of a uniform instruction, of the whole set (R42), whose lowest lane a trap names (R101) -/
  uni : Bool
  low : Nat
  lanes : LaneMask
  pc : DWord
  /-- writes of each lane; those of a uniform result stand under its lowest lane -/
  writes : List (Nat × List Wr)
  flags : List (Nat × BitVec 5)
  /-- of a collective: a trap names its lowest member only (R168), and a group's collectives return in order (R169) -/
  coll : Bool
  deriving DecidableEq, Repr, Inhabited

/-- A barrier signal on its way to its atomic unit (R216). -/
structure Sig where
  id : Nat
  tag : Nat
  team : Nat
  grp : Nat
  lane : Nat
  pc : DWord
  loc : Loc
  addr : Nat
  da : Int
  ds : Int
  scope : Nat
  /-- the copy whose delivery it follows -/
  copy : Option Nat
  wait : Option Nat
  /-- what a barrier put before it, and whether a cluster barrier put it before other cores' accesses (R221) -/
  after : List Nat
  spread : Bool
  deriving DecidableEq, Repr, Inhabited

/-- A WKFETCH on its way to the dispenser (R182). -/
structure Fetch where
  id : Nat
  tag : Nat
  team : Nat
  grp : Nat
  /-- stamp of the issue -/
  issue : Nat
  lanes : LaneMask
  pc : DWord
  d : Nat
  n : Nat
  deriving DecidableEq, Repr, Inhabited

/-- A tagged reduction on its way to its slice (R298). -/
structure RedPending where
  id : Nat
  grp : Nat
  tag : Nat
  pc : DWord
  red : TagRed
  va : Nat
  deriving DecidableEq, Repr, Inhabited

/-- Kinds of access a walk checks (R257). -/
inductive Acc where
  | rd | wr | rw | ex
  deriving DecidableEq, Repr, Inhabited

/-- What waits on a translation fault. -/
inductive TWho where
  | issue (tag team grp : Nat) (mask : LaneMask) (pc : DWord)
  | copy (tag team seq : Nat)
  | firmware
  deriving DecidableEq, Repr, Inhabited

/-- A translation fault being serviced (R259): by the device, or forwarded to the host at a time. -/
structure TFault where
  id : Nat
  proc : Nat
  va : Nat
  k : Acc
  who : TWho
  /-- the lanes that took it, with the address each would report -/
  lanes : List (Nat × Nat)
  device : Bool
  mig : Bool
  since : Nat
  deriving DecidableEq, Repr, Inhabited

/-- A command held at the head of its queue (R272, R275, R279). -/
inductive HeldCmd where
  | waitsig (sig val cond : Nat) (ack : Bool)
  | barrier (reset : Bool)
  | tick (edge : Nat)
  deriving DecidableEq, Repr, Inhabited

/-- An activated queue (R271, R278, R279); its descriptor's fields lie in memory. -/
structure QueueSt where
  desc : Nat
  proc : Nat
  part : Nat
  tickq : Bool
  held : Option HeldCmd
  /-- tags of its grids whose completion signal has not been written -/
  undone : List Nat
  /-- CODE and ORIGIN of the cause, in the cancelling state -/
  cause : Option (Nat × Nat)
  activeAt : Nat
  lastRelease : Option Nat
  deriving DecidableEq, Repr, Inhabited

/-- A formed spatial partition with the run-list position of its turn (R285, R286). -/
structure Part where
  pid : Nat
  first : Nat
  count : Nat
  ticko : Nat
  mask : Nat
  /-- process whose table translates RUNLIST -/
  owner : Nat
  runlist : Nat
  nproc : Nat
  /-- the entry whose turn it is, with what Rolahild read of it; process 0 when no entry can be served -/
  turn : Nat
  turnStart : Nat
  proc : Nat
  quantum : Nat
  qlist : Nat
  deriving DecidableEq, Repr, Inhabited

/-- An SWAIT stall (R283). -/
structure Stall where
  rd : Nat
  addr : Nat
  cond : Nat
  val : Nat
  deriving DecidableEq, Repr, Inhabited

/-- A queue processor (R280): the registers of RV64IMAC and of the machine and supervisor modes (PRESUMED: the RISC-V
manuals, log 72), and the command buffer of its local window. -/
structure Hart where
  pc : DWord
  x : Sparse DWord
  /-- privilege: 3 machine, 1 supervisor -/
  mode : Nat
  mstatus : DWord
  medeleg : DWord
  mideleg : DWord
  mie : DWord
  mip : DWord
  mtvec : DWord
  mscratch : DWord
  mepc : DWord
  mcause : DWord
  mtval : DWord
  mcounteren : DWord
  mcycle : DWord
  minstret : DWord
  stvec : DWord
  sscratch : DWord
  sepc : DWord
  scause : DWord
  stval : DWord
  scounteren : DWord
  /-- the reservation of a load-reserved: address, bytes and the value read -/
  resv : Option (Nat × Nat × Nat)
  /-- WFI has executed and no interrupt is pending -/
  idle : Bool
  stall : Option Stall
  /-- the process whose table translates its operands (log 20), 0 for none -/
  proc : Nat
  buf : Memory
  /-- for each buffer slot, the process and the descriptor its command came from -/
  slotProc : Sparse Nat
  slotDesc : Sparse Nat
  deriving DecidableEq, Repr, Inhabited

/-- Link n (R340, R347). -/
structure Link where
  role : Nat
  peer : Nat
  pid : Nat
  up : Bool
  downAt : Nat
  deriving DecidableEq, Repr, Inhabited

/-- An update of a signal word (R275, R276): a completion, a whole word, an addition. -/
inductive SigOp where
  | done
  | put (w : Nat)
  | add (v : Nat)
  deriving DecidableEq, Repr, Inhabited

/-- What follows when what the firmware had to do before has been done: the end of a recovery point, the images of a restored point, the
end of a recovery and its answer, a recovery (R331, R350, R351); the images of contexts that the power limit stopped (R19); step 2 of a point, once its
images are written; an image read from `va` of a chain that ends at `last`, of at most `n` more: `own` keeps each grid in its partition. -/
inductive JobDo where
  | shadow (job k : Nat)
  | replant (proc va last part : Nat) (own : Bool) (n : Nat) (bs : List Byte)
  | pointDone (job k : Nat)
  | restored (job p part : Nat)
  | replanted (job : Nat)
  | recovered (job : Nat)
  | answered (job : Nat)
  | resumeAll
  | recover (job : Nat) (req : Option (Nat × Nat)) (lost : List Nat) (part : Nat)
  deriving DecidableEq, Repr, Inhabited

/-- What the firmware does next at an address of a process: writes bytes, updates a signal, poisons a barrier that bears a
tag (R296, step 4), or, at no address, cancels a queue (R278), notes that a
grid's status has been written (R295), lets go of a grid that has ended, or goes on with a job; reads a replanted grid's reductions from
its spill region, and its barrier roll from its backing area (R329); writes a line at a system address, brings one from there, or takes one
there (R350, R351); reads the images of a chain (R351); or waits until what follows of a job, in hand, has been done. -/
inductive FwDo where
  | put (bs : List Byte)
  | sig (op : SigOp)
  | poison (tag : Nat)
  | cancel (desc code origin : Nat)
  | ended (tag handle : Nat)
  | close (tag queue : Nat)
  | holdReds (tag n : Nat)
  | holdRoll (tag : Nat)
  | link (bs : List Byte)
  | pull (src : Nat)
  | push (dst : Nat)
  | images (last part : Nat) (own : Bool) (n : Nat)
  | inHand
  | job (w : JobDo)
  deriving DecidableEq, Repr, Inhabited

/-- An operation of the firmware: they are made one at a time, in order, wherever their address lies (R276, R296, R334). -/
structure FwOp where
  proc : Nat
  /-- the partition id of the L2 fills it makes (R253) -/
  part : Nat
  va : Nat
  what : FwDo
  /-- the transaction it waits for, with the word it expects to swap -/
  wait : Option Nat
  old : Option Nat
  /-- the translation fault it waits for -/
  hold : Option Nat
  deriving DecidableEq, Repr, Inhabited

/-- What a link transaction of this device serves (R336). -/
inductive TxnFor where
  | access (id : Nat)
  | sig (id : Nat)
  | copyRd (tag team seq : Nat)
  | copyWr (tag team seq : Nat)
  /-- a line that the firmware reads -/
  | line (addr : Nat)
  /-- the firmware's operation in progress, at a system address -/
  | fw (addr : Nat)
  /-- a line of code that a core fetches for the group that holds `id`, whose set stands at `pc` (R246) -/
  | ifetch (id core line pc : Nat)
  /-- the same, of a line that an IFENCE or a LOAD has meanwhile made old: it is read again (R199) -/
  | ifetchOld (id pc : Nat)
  /-- the next line of a fill of a job (R351) -/
  | fill (job id : Nat)
  deriving DecidableEq, Repr, Inhabited

/-- An outstanding transaction. -/
structure Txn where
  tid : Nat
  who : TxnFor
  addr : Nat
  sentAt : Nat
  deriving DecidableEq, Repr, Inhabited

/-- A flit pair leaving the device: header and data. -/
structure Flit where
  header : Nat
  data : Nat
  deriving DecidableEq, Repr, Inhabited

/-- An L1 line of a core (R250). -/
structure L1Line where
  core : Nat
  line : Loc
  bytes : List Byte
  /-- bytes of the line whose content is poisoned in this cache (R255) -/
  spoilt : List Nat
  deriving DecidableEq, Repr, Inhabited

/-- A line of a core's instruction cache (R13, R15, R199). -/
structure ILine where
  core : Nat
  line : Loc
  bytes : List Byte
  deriving DecidableEq, Repr, Inhabited

/-- A leaf that a core's TLB holds (R260): the process, the level, the page's number at that level, the entry and where it
lies. -/
structure TlbEnt where
  core : Nat
  proc : Nat
  level : Nat
  page : Nat
  entry : Nat
  at_ : Nat
  deriving DecidableEq, Repr, Inhabited

/-- A non-leaf entry that the page walkers hold (R260): the process, the level, the index bits down to it, and the next
table. -/
structure WalkEnt where
  proc : Nat
  level : Nat
  page : Nat
  table : Nat
  deriving DecidableEq, Repr, Inhabited

/-- An L2 superblock (R251, R252, R254): its slice (die × 384 + slice), way, base, allocating partition, valid and
dirty bit per line, and replacement mark (0 none, 1 first for eviction, 2 last). -/
structure Super where
  slice : Nat
  way : Nat
  base : Nat
  pid : Nat
  valid : BitVec 4
  dirty : BitVec 4
  mark : Nat
  deriving DecidableEq, Repr, Inhabited

/-- A 64-byte line of global memory, here or in another home, that a copy owns while writing it (R189). -/
structure Owned where
  line : Loc
  tag : Nat
  team : Nat
  seq : Nat
  deriving DecidableEq, Repr, Inhabited

/-- Management events and answers (R19, R343, R345, R347). -/
inductive MgmtMsg where
  | clock (mhz : Nat)
  | powerStop
  | powerDispatch
  | deviceLost (dev : Nat)
  /-- the same, to the host (R347) -/
  | hostLost (dev : Nat)
  | recovery
  | ecc
  | linkError (code addr : Nat)
  | reply (body : List Byte)
  | unsupported (kind : Nat)
  | sensor (q : PldmQuery) (val : Nat)
  deriving DecidableEq, Repr, Inhabited

/-- The three phases of the part (R343): reset not yet verified, running, recovery state. -/
inductive Phase where
  | boot | running | recovery
  deriving DecidableEq, Repr, Inhabited

/-- The management processor (R19, R342 to R345, R347). -/
structure Mgmt where
  phase : Phase
  /-- the fabric number a spare has taken over (R351) -/
  asDev : Option Nat
  /-- arithmetic clock in MHz -/
  clock : Nat
  /-- when the clock last changed (R19) -/
  clockAt : Nat
  /-- package power over the last 10 ms in watts, as measured, and since when it has been above the limit (R19) -/
  power : Nat
  overAt : Option Nat
  powerStopped : Bool
  eccCount : Nat
  refreshed : Nat
  lost : List Nat
  msgs : List MgmtMsg
  record : BitVec 3200
  mpfw : BitVec 384
  rlfw : BitVec 384
  seed : BitVec 384
  deriving DecidableEq, Repr, Inhabited

/-- Instructions of the boundary-scan port (R346). -/
inductive ScanIr where
  | idcode | bypass | sample | extest
  deriving DecidableEq, Repr, Inhabited

/-- The boundary-scan port: its instruction, the selected data register's content, the preloaded boundary register. -/
structure Scan where
  ir : ScanIr
  dr : Nat
  boundary : Nat
  deriving DecidableEq, Repr, Inhabited

/-- A tensor entry of a job (R348). -/
structure Tensor where
  vbase : Nat
  len : Nat
  replica : Bool
  home : Nat
  repl : Nat
  deriving DecidableEq, Repr, Inhabited

/-- A device entry of a job (R348). -/
structure Member where
  dev : Nat
  partner : Nat
  spare : Bool
  deriving DecidableEq, Repr, Inhabited

/-- A recovery fill of a job that has not completed: whether this device makes it, its tensor, the device that its bytes come from, the
bytes filled (R351, R352). -/
structure Fill where
  id : Nat
  mine : Bool
  tensor : Tensor
  src : Nat
  done : Nat
  deriving DecidableEq, Repr, Inhabited

/-- A registered job (R348, R350, R351, R353). -/
structure Job where
  id : Nat
  proc : Nat
  members : List Member
  tensors : List Tensor
  override : Bool
  area : Nat
  slot : Nat
  /-- the last complete point, the point being taken with its request, and its grids still to serialise -/
  complete : Option Nat
  /-- where the images of the complete points lie: the point, the address, the bytes there (R350) -/
  places : List (Nat × Nat × Nat)
  taking : Option Nat
  takingReq : Nat × Nat
  pending : List Nat
  /-- bytes of the slot that its images fill so far; this member has finished step 3 of R350 -/
  used : Nat
  finished : Bool
  fills : List Fill
  filled : List Tensor
  lost : List Nat
  /-- the lost numbers that a spare takes over, each with that spare's own number (R351) -/
  carriers : List (Nat × Nat)
  /-- a recovery is in progress; the RECOVER requests to answer (signal and process), and the partition for absorbed grids -/
  recovering : Bool
  recReqs : List (Nat × Nat)
  absorb : Nat
  /-- superblocks of PARTNER tensors written since the last point, and those written between the two before it -/
  dirty : List Nat
  older : List Nat
  /-- external-write log: count and ranges (base, length) -/
  extCount : Nat
  extRanges : List (Nat × Nat)
  /-- what the completion of the last rollback carries (R353), and the lost ranges that of a recovery lists (R351) -/
  report : List Byte
  lostRanges : List (Nat × Nat)
  deriving DecidableEq, Repr, Inhabited

/-- The WAITGRAPH service (R356). -/
structure WaitG where
  addr : Nat
  proc : Nat
  cap : Nat
  period : Nat
  last : Nat
  /-- issue counters at the last sample, by (tag, team, group) -/
  samples : List ((Nat × Nat × Nat) × Nat)
  deriving DecidableEq, Repr, Inhabited

/-- What a grid that only an image holds keeps beside it (R287, R294, R355, R357). -/
structure Kept where
  tag : Nat
  proc : Nat
  dbg : Option Dbg
  lcrec : Option LcRec
  part : Nat
  tick : Bool
  order : Nat
  /-- the cause of the serialise that wrote the image (R318), and whether the power limit (R19) or a turn's end (R287) asked for it -/
  cause : Nat
  byPower : Bool
  byTurn : Bool
  deriving DecidableEq, Repr, Inhabited

/-- Bytes of a process that no program reaches (R246), beside those at Rolahild's places: an image where a requester or a job's slot has it,
or the register backing of a grid that an image holds; until the tag is released, or the slot, as (job, parity), is taken again. -/
structure Area where
  tag : Nat
  proc : Nat
  va : Nat
  len : Nat
  slot : Option (Nat × Nat)
  deriving DecidableEq, Repr, Inhabited

/-- A refusal recorded under R4: the address or offset of what was refused, the code, and the value. -/
structure LogEnt where
  addr : Nat
  code : Nat
  val : Nat
  deriving DecidableEq, Repr, Inhabited

/-- An issue slot of a scheduler whose lane positions are being filled (R355): the groups chosen, first to last as (tag, team, group), the
primary PC of the first, the positions left. -/
structure Slot where
  core : Nat
  sched : Nat
  took : List (Nat × Nat × Nat)
  pc : Nat
  left : Nat
  deriving DecidableEq, Repr, Inhabited

/-- An issue in progress: the set that executes and its address (R36). The instruction's length follows its form. -/
structure Issue where
  tag : Nat
  team : Nat
  grp : Nat
  mask : LaneMask
  pc : DWord
  deriving DecidableEq, Repr, Inhabited

/-- The error response of a refused LOAD: signal and process of its request, fault code, byte offset (R74). -/
structure LoadErrRec where
  sig : Nat
  proc : Nat
  code : Nat
  off : Nat
  deriving DecidableEq, Repr, Inhabited

/-- What a cache or a TLB may lose at any moment (R250, R252, R260). -/
inductive Held where
  | l1 (core : Nat) (line : Loc)
  | icache (core : Nat) (line : Loc)
  | tlb (n : Nat)
  | walker (n : Nat)
  deriving DecidableEq, Repr, Inhabited

/-- Where an error may strike, whether or not anything consumes the data (R255): uncorrectable, in an 8-byte unit of memory or the
scratchpad, a byte of a line that an L1 holds, a slot of a lane's register stack, an s register or an element of a tile; or a single bit
anywhere, which is corrected and counted. -/
inductive Struck where
  | soft
  | mem (l : Loc)
  | l1 (core : Nat) (line : Loc) (i : Nat)
  | slot (tag team grp lane n : Nat)
  | sreg (tag team grp n : Nat)
  | elem (tag team tile n : Nat)
  deriving DecidableEq, Repr, Inhabited

/-- Who moves next: a group issues, a queue processor steps, another step of the table happens, time passes, the service
ring is read (R297), the firmware goes on with its operations, a job or a fill of one goes on, a cache loses what it holds,
a lane's cold slots leave the physical store (R53), an error strikes, a neighbour's loss comes to be known (R347), the package's power is measured (R19). -/
inductive Act where
  | issue (tag team grp : Nat)
  | hart (n : Nat)
  | ev (i : Instr)
  | elapse (n : Nat)
  | service
  | firmware
  | job (w : JobDo)
  | fill (job id : Nat)
  | lose (w : Held)
  | cool (tag team grp lane : Nat)
  | strike (w : Struck)
  | neighbour (dev : Nat)
  | power (watts : Nat)
  deriving DecidableEq, Repr, Inhabited

end Sys2Proof.Machine

namespace Sys2Proof.Config

/-- FREE VALUE (log 3). Who moves at the n-th moment at which the agenda names nobody: any agent that may (R33, R57, R270). -/
opaque mover : Nat → Machine.Act

end Sys2Proof.Config

namespace Sys2Proof.Machine

/-- The state of a TQ-5840. -/
structure State where
  /-- the agenda of movers; MODEL's own (log 3) -/
  agenda : List Act
  /-- free-choice counter; MODEL's own (log 3), of no meaning in itself -/
  choice : Nat
  /-- free moves made: at every so many of them the lowest team of a grid gets its turn (R32); MODEL's own (log 3) -/
  idleMoves : Nat
  /-- the next stamp: identities and orders of posts; MODEL's own (log 13) -/
  nextId : Nat
  /-- the time base (R18) -/
  time : Nat
  /-- the issue, or the queue processor, that the next meaning acts for; MODEL's own (log 13) -/
  cur : Issue
  hartNum : Nat
  dram : Memory
  scratch : Memory
  /-- poisoned 8-byte units (R255) -/
  poison : List Loc
  l1 : List L1Line
  icache : List ILine
  tlb : List TlbEnt
  walkers : List WalkEnt
  l2 : List Super
  /-- way masks of slices, at die × 3072 + slice × 8 + partition (R253) -/
  ways : Sparse Nat
  owned : List Owned
  grids : List Grid
  teams : List Team
  groups : List Group
  accs : List Access
  results : List Result
  sigs : List Sig
  fetches : List Fetch
  reds : List RedPending
  tfaults : List TFault
  /-- addresses of processes whose translation fault was declined, or not answered (R259) -/
  declined : List (Nat × Nat)
  objects : List CodeObj
  runcode : List RunCode
  procs : List Process
  queues : List QueueSt
  parts : List Part
  harts : List Hart
  /-- next grid-tag sequence, and tags that only an image holds (R295) -/
  nextTag : Nat
  imageTags : List Nat
  /-- images that Rolahild or the debugger put into the processes' memory (R287, R357): tag, address, bytes -/
  images : List (Nat × Nat × Nat)
  areas : List Area
  kept : List Kept
  /-- local physical memory not yet handed out by Rolahild (log 14) -/
  freePa : Nat
  links : List Link
  reach : List Nat
  txns : List Txn
  outbox : List Flit
  /-- requests at the host adapter of a bridging device (R339): tid, header, data -/
  adapter : List (Nat × Flit)
  /-- operations of the firmware not yet made, oldest first -/
  fw : List FwOp
  /-- lines of other homes that the firmware has read: address and bytes (R271); of one that was not read, the ERR's CODE alone -/
  devLines : List (Nat × List Byte)
  /-- the service request in hand waits, and is taken up again (R297); MODEL's own -/
  ringWait : Bool
  mgmt : Mgmt
  scan : Scan
  jobs : List Job
  waitg : Option WaitG
  /-- issue slots being filled, while a lane-cycle record counts (R355) -/
  slots : List Slot
  log : List LogEnt
  loadErrs : List LoadErrRec
  deriving DecidableEq, Repr, Inhabited

/-- Faults that end a run. The spec's own faults are taken (R296), so there is one only, for a step that has no
subject. Safe. -/
inductive Fault where
  /-- a mover of the agenda that does not exist (a hart above 3): raised by `step` only; safe -/
  | noSuchMover
  deriving DecidableEq, Repr, Inhabited

/-- Refusals. -/
inductive Refusal where
  /-- an instruction whose meaning the model does not have, by its mnemonic: raised by `exec` only; safe -/
  | notModelled (mnemonic : String)
  deriving DecidableEq, Repr, Inhabited

/-- A queue processor at reset: every register at 0 (log 15), machine mode. -/
def Hart.reset : Hart :=
  { pc := 0#64, x := [], mode := 3, mstatus := 0x1800#64, medeleg := 0#64, mideleg := 0#64, mie := 0#64, mip := 0#64, mtvec := 0#64,
    mscratch := 0#64, mepc := 0#64, mcause := 0#64, mtval := 0#64, mcounteren := 0#64, mcycle := 0#64, minstret := 0#64, stvec := 0#64,
    sscratch := 0#64, sepc := 0#64, scause := 0#64, stval := 0#64, scounteren := 0#64, resv := none, idle := false, stall := none,
    proc := 0, buf := [], slotProc := [], slotDesc := [] }

/-- A link at reset: no record read, down (R340, R253). -/
def Link.reset : Link := { role := 0, peer := 0, pid := 0, up := false, downAt := 0 }

/-- The machine right after reset: nothing launched, no process, memory listing nothing, the mask ROM about to verify
the record (R343). -/
def State.reset : State :=
  { agenda := [], choice := 0, idleMoves := 0, nextId := 1, time := 0,
    cur := { tag := 0, team := 0, grp := 0, mask := 0#64, pc := 0#64 }, hartNum := 0,
    dram := [], scratch := [], poison := [], l1 := [], icache := [], tlb := [], walkers := [], l2 := [], ways := [], owned := [],
    grids := [], teams := [], groups := [], accs := [], results := [], sigs := [], fetches := [], reds := [],
    tfaults := [], declined := [], objects := [], runcode := [], procs := [], queues := [], parts := [],
    harts := List.replicate 4 Hart.reset, nextTag := 1, imageTags := [], images := [], areas := [], kept := [], freePa := 0,
    links := List.replicate 18 Link.reset, reach := [], txns := [], outbox := [], adapter := [], fw := [], devLines := [], ringWait := false,
    mgmt := { phase := .boot, asDev := none, clock := 1300, clockAt := 0, power := 0, overAt := none, powerStopped := false, eccCount := 0, refreshed := 0, lost := [],
              msgs := [], record := 0#3200, mpfw := 0#384, rlfw := 0#384, seed := 0#384 },
    scan := { ir := .idcode, dr := 0x5B40E6A5, boundary := 0 },
    jobs := [], waitg := none, slots := [], log := [], loadErrs := [] }

end Sys2Proof.Machine
end

