-- ==== Sys2Proof/Machine/Ops.lean ====
section
/-! DEFINITION. The named operations over the state: finding and changing grids, teams, groups and lanes; memory at a
place (R247, R248); translation (R256 to R258); taking a lane's fault (R331, R332) and a queue processor's exception
(R280); barriers, exits, outstanding results and draining (R35, R46, R50, R220). -/

namespace Sys2Proof.Machine

/-! ### Finding and changing -/

def State.grid? (s : State) (tag : Nat) : Option Grid := s.grids.find? (fun g => g.tag == tag)
def State.updGrid (s : State) (tag : Nat) (f : Grid → Grid) : State :=
  { s with grids := updFirst (fun g => g.tag == tag) f s.grids }

def State.team? (s : State) (tag idx : Nat) : Option Team := s.teams.find? (fun t => t.tag == tag && t.idx == idx)
def State.updTeam (s : State) (tag idx : Nat) (f : Team → Team) : State :=
  { s with teams := updFirst (fun t => t.tag == tag && t.idx == idx) f s.teams }

/-- Whether a group is the one of a tag, a team and a number. -/
def Group.is (tag team num : Nat) (g : Group) : Bool := g.tag == tag && g.team == team && g.num == num
def State.group? (s : State) (tag team num : Nat) : Option Group := s.groups.find? (Group.is tag team num)
def State.updGroup (s : State) (tag team num : Nat) (f : Group → Group) : State :=
  { s with groups := updFirst (Group.is tag team num) f s.groups }

def Group.updLane (g : Group) (l : Nat) (f : Lane → Lane) : Group := { g with lanes := updAt f l g.lanes }
/-- The lanes of a mask changed. -/
def Group.updMask (g : Group) (m : LaneMask) (f : Nat → Lane → Lane) : Group :=
  { g with lanes := g.lanes.mapIdx (fun i l => if m.getLsbD i then f i l else l) }
def State.updLane (s : State) (tag team num l : Nat) (f : Lane → Lane) : State :=
  s.updGroup tag team num (fun g => g.updLane l f)
def State.lane? (s : State) (tag team num l : Nat) : Option Lane :=
  (s.group? tag team num).bind (fun g => g.lanes[l]?)

def State.proc? (s : State) (pid : Nat) : Option Process := s.procs.find? (fun p => p.pid == pid)
def State.updProc (s : State) (pid : Nat) (f : Process → Process) : State :=
  { s with procs := updFirst (fun p => p.pid == pid) f s.procs }
def State.object? (s : State) (handle : Nat) : Option CodeObj := s.objects.find? (fun o => o.handle == handle)
def State.part? (s : State) (pid : Nat) : Option Part := s.parts.find? (fun p => p.pid == pid)

/-- A fresh stamp. -/
def State.fresh (s : State) : State := { s with nextId := s.nextId + 1 }
/-- The next free choice (R33, R57 and the other orders that are not architectural). -/
def State.pick (s : State) : Nat × State := (Config.choose s.choice, { s with choice := s.choice + 1 })

/-- The number of lanes of a kernel's team (R24). -/
def Kcb.groupCount (k : Kcb) : Nat := (k.roles.map (·.groups)).sum
def Kcb.lanes (k : Kcb) : Nat := k.width * k.groupCount
/-- The role of group n: role 0's groups first (R24). -/
def roleOfGo : List RoleRec → Nat → Nat → Nat
  | [], i, _ => i
  | r :: rs, i, n => if n < r.groups then i else roleOfGo rs (i + 1) (n - r.groups)
def Kcb.roleOf (k : Kcb) (n : Nat) : Nat := roleOfGo k.roles 0 n
def Kcb.role (k : Kcb) (i : Nat) : RoleRec := k.roles.getD i { groups := 0, budget := 0, stack := 0, entry := 0 }

/-- The cluster rank of a team (R27), and the index of its cluster. -/
def Grid.rank (g : Grid) (team : Nat) : Nat := team % g.kcb.cluster
def Grid.clusterOf (g : Grid) (team : Nat) : Nat := team / g.kcb.cluster
/-- Teams of a grid (R28, R29). -/
def Grid.teamCount (g : Grid) : Nat := if g.kcb.disp then g.x else g.x * g.y * g.z

/-! ### Memory at a place -/

/-- The key of a scratchpad byte of a core. -/
def scrKey (core off : Nat) : Nat := core * Config.scratchBytes + off

/-- The n bytes at a place of this device. -/
def State.readAt (s : State) (l : Loc) (n : Nat) : List Byte :=
  match l with
  | .dram a => s.dram.readBytes a n
  | .scr c o => s.scratch.readBytes (scrKey c o) n
  | .sys _ => []

/-- The state with bytes written at a place of this device. -/
def State.writeAt (s : State) (l : Loc) (bs : List Byte) : State :=
  match l with
  | .dram a => { s with dram := s.dram.writeBytes a bs }
  | .scr c o => { s with scratch := s.scratch.writeBytes (scrKey c o) bs }
  | .sys _ => s

def State.readNAt (s : State) (l : Loc) (n : Nat) : Nat := ofLe (s.readAt l n)
def State.writeNAt (s : State) (l : Loc) (n x : Nat) : State := s.writeAt l (leBytes n x)

/-- A place `k` bytes on. -/
def Loc.plus (l : Loc) (k : Nat) : Loc :=
  match l with
  | .dram a => .dram (a + k)
  | .scr c o => .scr c (o + k)
  | .sys a => .sys (a + k)

/-- The place aligned down to a multiple. -/
def Loc.down (l : Loc) (m : Nat) : Loc :=
  match l with
  | .dram a => .dram (a / m * m)
  | .scr c o => .scr c (o / m * m)
  | .sys a => .sys (a / m * m)

/-- The 8-byte units that `n` bytes at a place touch. -/
def Loc.units (l : Loc) (n : Nat) : List Loc :=
  let b := l.down 8
  (List.range ((n + 7) / 8 + 1)).filterMap (fun i =>
    let u := b.plus (8 * i)
    match l, u with
    | .dram a, .dram c => if c < a + n then some u else none
    | .scr _ a, .scr _ c => if c < a + n then some u else none
    | .sys a, .sys c => if c < a + n then some u else none
    | _, _ => none)

/-- Whether two ranges of bytes meet. -/
def Loc.meets (l : Loc) (n : Nat) (l' : Loc) (n' : Nat) : Bool :=
  match l, l' with
  | .dram a, .dram b => decide (a < b + n') && decide (b < a + n)
  | .scr c a, .scr d b => c == d && decide (a < b + n') && decide (b < a + n)
  | .sys a, .sys b => decide (a < b + n') && decide (b < a + n)
  | _, _ => false

/-- Whether a byte of the range is poisoned where it lies (R255). -/
def State.poisoned (s : State) (l : Loc) (n : Nat) : Bool := (l.units n).any (fun u => s.poison.contains u)
/-- The range's units marked poisoned. -/
def State.addPoison (s : State) (l : Loc) (n : Nat) : State :=
  { s with poison := (l.units n).foldl (fun p u => if p.contains u then p else u :: p) s.poison }
/-- A unit wholly written is no longer poisoned (log 16). -/
def State.curePoison (s : State) (l : Loc) (n : Nat) : State :=
  if s.poison.isEmpty then s else
  { s with poison := s.poison.filter (fun u => !((List.range (n / 8)).any (fun i => (l.down 8).plus (8 * i) == u && l == l.down 8))) }

/-! ### Caches: the L1 of a core, the instruction caches and the directory of the L2 (R250 to R254) -/

def Access.isLoad (a : Access) : Bool := match a.kind with
  | .load _ => true
  | _ => false
/-- A load, or LDK. -/
def Access.reads (a : Access) : Bool := a.isLoad || (match a.kind with
  | .ldk => true
  | _ => false)
/-- An access that stands in no lane's order: LDK (R179), a prefetch. -/
def Access.loose (a : Access) : Bool := a.by_ == 0#64 || (match a.kind with
  | .ldk => true
  | _ => false)
/-- The core that holds a team (R31). -/
def State.coreOf (s : State) (tag team : Nat) : Nat := match s.team? tag team with
  | some t => t.core
  | none => 0
/-- Accesses of a core that are on their way over a link bring nothing into its L1 when they return: the L1 has taken a newer
state of the line meanwhile (R250, R263). -/
def State.markStale (s : State) (core : Nat) (line : Option Loc) : State :=
  { s with accs := s.accs.map (fun a =>
      if a.wait.isSome && s.coreOf a.tag a.team == core && (line.isNone || line == some (a.loc.down 64))
      then { a with stale := true } else a) }
/-- The L1 lines of a core dropped: an acquire (R250, R262). -/
def State.dropL1 (s : State) (core : Nat) : State :=
  { s with l1 := s.l1.filter (fun x => x.core ≠ core), accs := (s.markStale core none).accs }
/-- One line of a core dropped. -/
def State.dropLine (s : State) (core : Nat) (line : Loc) : State :=
  { s with l1 := s.l1.filter (fun x => !(x.core == core && x.line == line)), accs := (s.markStale core (some line)).accs }
/-- The line that a core's L1 holds. -/
def State.l1? (s : State) (core : Nat) (line : Loc) : Option L1Line :=
  s.l1.find? (fun x => x.core == core && x.line == line)
/-- Superblocks of a list of lines, newest first. -/
def supersOf (l : List Loc) : List Loc := (l.map (fun x => x.down 256)).eraseDups
/-- A line installed; a full L1 loses a superblock, whichever it is (R15, R250). -/
def State.fillL1 (s : State) (core : Nat) (line : Loc) (bs : List Byte) : State :=
  let spoilt := if s.poison.isEmpty then [] else (List.range 64).filter (fun i => s.poison.contains ((line.plus i).down 8))
  let rest := s.l1.filter (fun x => !(x.core == core && x.line == line))
  let others := (supersOf ((rest.filter (fun x => x.core == core)).map (·.line))).filter (fun b => b ≠ line.down 256)
  let kept := if others.length < Config.l1Supers then rest else
    match others[Config.choose s.choice % others.length]? with
    | none => rest
    | some v => rest.filter (fun x => !(x.core == core && x.line.down 256 == v))
  { s with l1 := { core := core, line := line, bytes := bs, spoilt := spoilt } :: kept, choice := s.choice + 1 }
/-- Bytes `bs` at `i` of a line replaced. -/
def patch (l : List Byte) (i : Nat) (bs : List Byte) : List Byte := l.take i ++ bs ++ l.drop (i + bs.length)
def Loc.inLine (l : Loc) : Nat :=
  match l with
  | .dram a => a % 64
  | .scr _ a => a % 64
  | .sys a => a % 64
/-- A store updates the line that the storing core's L1 holds (R250). -/
def State.storeL1 (s : State) (core : Nat) (l : Loc) (bs : List Byte) : State :=
  { s with l1 := s.l1.map (fun x => if x.core == core && x.line == l.down 64 then
      { x with bytes := patch x.bytes l.inLine bs,
               spoilt := x.spoilt.filter (fun i => decide (i < l.inLine) || decide (l.inLine + bs.length ≤ i)) } else x) }

/-- A core's copy of a line of code (R15). -/
def State.iline? (s : State) (core : Nat) (line : Loc) : Option (List Byte) :=
  (s.icache.find? (fun x => x.core == core && x.line == line)).map (·.bytes)
/-- A line of code installed in one core's instruction cache; a full one loses a superblock, whichever it is. -/
def State.fillICore (line : Loc) (bs : List Byte) (s : State) (core : Nat) : State :=
  let rest := s.icache.filter (fun x => !(x.core == core && x.line == line))
  let others := (supersOf ((rest.filter (fun x => x.core == core)).map (·.line))).filter (fun b => b ≠ line.down 256)
  let kept := if others.length < Config.icacheSupers then rest else
    match others[Config.choose s.choice % others.length]? with
    | none => rest
    | some v => rest.filter (fun x => !(x.core == core && x.line.down 256 == v))
  { s with icache := { core := core, line := line, bytes := bs } :: kept, choice := s.choice + 1 }
/-- A line of code brought in: the cores of an octet share the fill (R13, log 24). -/
def State.fillI (s : State) (core : Nat) (line : Loc) (bs : List Byte) : State :=
  ((List.range 8).map (fun i => core / 8 * 8 + i)).foldl (State.fillICore line bs) s
/-- Lines of code on their way to some cores have been read too early: they are read again (R199). -/
def State.oldCode (s : State) (p : Nat → Bool) : State :=
  { s with txns := s.txns.map (fun t => match t.who with
      | .ifetch id core _ pc => if p core then { t with who := .ifetchOld id pc } else t
      | _ => t) }
/-- The lines of code of a core dropped, and those on their way to its octet (R199). -/
def State.dropI (s : State) (core : Nat) : State :=
  State.oldCode { s with icache := s.icache.filter (fun x => x.core ≠ core) } (fun c => c / 8 == core / 8)
/-- Every cached line of code dropped. -/
def State.dropAllI (s : State) : State := State.oldCode { s with icache := [] } (fun _ => true)

/-- The way mask of a slice for a partition (R253); all ways until it is written (log 17). -/
def wayKey (die slice pid : Nat) : Nat := die * 3072 + slice * 8 + pid
def State.wayMask (s : State) (slice pid : Nat) : Nat :=
  Sparse.get 0xFFFF s.ways (wayKey (slice / Config.slicesPerDie) (slice % Config.slicesPerDie) pid)
/-- The home slice of a local address (R251): one slice for a whole superblock. -/
def sliceOf (a : Nat) : Nat := (a / 2 ^ 36) % 4 * Config.slicesPerDie + Config.homeSlice (a / 256 * 256) % Config.slicesPerDie

/-- The set of a slice that holds a superblock: address bits [15:8] (log 79). -/
def setOf (base : Nat) : Nat := base / 256 % 256
/-- The superblocks after an access to a line at its home slice: a hit, or a fill into a way that the partition's mask
allows; a marked superblock is the first victim, a kept one the last, and otherwise the victim is free (R251 to R254). A line that a held
superblock lacks is filled into it, whatever its way, and counts as a hit there; the hint of the access decides the mark (log 116). -/
def State.touched (s : State) (a pid : Nat) (write : Bool) (ch : Nat) : List Super :=
  let slice := sliceOf a
  let base := a / 256 * 256
  let bitm : BitVec 4 := (1#4) <<< (a / 64 % 4)
  let mk (m : Nat) := if ch ≠ 0 then ch else m
  match s.l2.find? (fun b => b.slice == slice && b.base == base) with
  | some _ =>
    updFirst (fun b => b.slice == slice && b.base == base) (fun b =>
        { b with valid := b.valid ||| bitm, dirty := if write then b.dirty ||| bitm else b.dirty,
                 mark := mk (if b.mark = 1 then 0 else b.mark) }) s.l2
  | none =>
    let set := fun (b : Super) => b.slice == slice && setOf b.base == setOf base
    let ways := (List.range 16).filter (fun w => bit (s.wayMask slice pid) w)
    let free := ways.filter (fun w => !(s.l2.any (fun b => set b && b.way == w)))
    let held := fun m => s.l2.filter (fun b => set b && ways.contains b.way && b.mark == m)
    let cands : List Nat := if !free.isEmpty then free else
      if !(held 1).isEmpty then (held 1).map (·.way) else if !(held 0).isEmpty then (held 0).map (·.way) else (held 2).map (·.way)
    match cands[Config.choose s.choice % cands.length]? with
    | none => s.l2
    | some w =>
        { slice := slice, way := w, base := base, pid := pid, valid := bitm,
          dirty := if write then bitm else 0#4, mark := mk 0 } :: s.l2.filter (fun b => !(set b && b.way == w))
/-- An access to a line at its home slice. -/
def State.touchL2 (s : State) (a pid : Nat) (write : Bool) (ch : Nat) : State :=
  { s with l2 := s.touched a pid write ch, choice := s.choice + 1 }

/-- The lines of `n` bytes from an address on, each at its home slice, for an agent of the device (R251). -/
def State.touchLines (s : State) (a n : Nat) (w : Bool) : State :=
  if n = 0 then s else forN ((a + n - 1) / 64 - a / 64 + 1) (fun i (s : State) => s.touchL2 (a / 64 * 64 + 64 * i) 0 w 0) s
/-- The count of valid lines that a partition holds in a slice (R254). -/
def State.lines (s : State) (slice pid : Nat) : Nat :=
  ((s.l2.filter (fun b => b.slice == slice && b.pid == pid)).map (fun b => popcount 4 b.valid.toNat)).sum

/-! ### Translation (R256 to R258) -/

/-- What a walk finds: a leaf with the page's place, MIG and the entry's address and level; or why not. -/
inductive Walk where
  | leaf (addr loc : Nat) (mig : Bool) (entryAt e level : Nat)
  | miss
  | malformed
  | denied
  deriving DecidableEq, Repr, Inhabited

/-- Index of a level (R256). -/
def walkIndex (level x : Nat) : Nat :=
  match level with
  | 0 => bits x 56 48 | 1 => bits x 47 39 | 2 => bits x 38 30 | 3 => bits x 29 21 | _ => bits x 20 16

/-- Page size of a leaf's level (R256). -/
def pageBytes (level : Nat) : Nat := if level = 2 then 2 ^ 30 else if level = 3 then 2 ^ 21 else 2 ^ 16

/-- Whether an entry with V = 1 is malformed at a level (R257). -/
def malformed (level e : Nat) : Bool :=
  let leaf := bit e 1
  let loc := bits e 57 56
  let addr := bits e 55 8 * 256
  let mig := bit e 7
  bits e 63 58 ≠ 0 || loc == 3 || (leaf && level < 2) || (!leaf && level == 4) ||
  (if leaf then addr % pageBytes level ≠ 0 else addr % (if level = 3 then 256 else 4096) ≠ 0) ||
  (loc == 0 && Config.dramBytes ≤ addr) || (mig && loc == 0) || (loc ≠ 0 && !leaf) || (loc ≠ 0 && bit addr 55)

/-- Whether an entry permits a kind of access (R257). -/
def permits (e : Nat) : Acc → Bool
  | .rd => bit e 2
  | .wr => bit e 3
  | .rw => bit e 2 && bit e 3
  | .ex => bit e 4

/-- Number of the range of `x` that an entry of a level covers (R256). -/
def walkPage (level x : Nat) : Nat :=
  x % 2 ^ 57 / (match level with
    | 0 => 2 ^ 48 | 1 => 2 ^ 39 | 2 => 2 ^ 30 | 3 => 2 ^ 21 | _ => 2 ^ 16)
/-- The walk of R258 from a level, the levels left as fuel; a non-leaf entry that the walkers hold is not read (R260). -/
def walkGo (m : Memory) (held : List WalkEnt) (x : Nat) (k : Acc) : Nat → Nat → Nat → Walk
  | 0, _, _ => .malformed
  | fuel + 1, level, t =>
    match held.find? (fun w => w.level == level && w.page == walkPage level x) with
    | some w => walkGo m held x k fuel (level + 1) w.table
    | none =>
      let at_ := t + 8 * walkIndex level x
      let e := m.readN at_ 8
      if !bit e 0 then .miss
      else if malformed level e then .malformed
      else if bit e 1 then
        if !permits e k then .denied
        else .leaf (bits e 55 8 * 256 + x % pageBytes level) (bits e 57 56) (bit e 7) at_ e level
      else walkGo m held x k fuel (level + 1) (bits e 55 8 * 256)

/-- The walk of the table as it stands. -/
def walk (m : Memory) (root x : Nat) (k : Acc) : Walk := walkGo m [] x k 5 0 root
/-- The non-leaf entries that a walk reads, with the addresses of all that it reads. -/
def walkReads (m : Memory) (held : List WalkEnt) (pid x : Nat) : Nat → Nat → Nat → List WalkEnt × List Nat
  | 0, _, _ => ([], [])
  | fuel + 1, level, t =>
    match held.find? (fun w => w.level == level && w.page == walkPage level x) with
    | some w => walkReads m held pid x fuel (level + 1) w.table
    | none =>
      let at_ := t + 8 * walkIndex level x
      let e := m.readN at_ 8
      if !bit e 0 || malformed level e || bit e 1 then ([], [at_]) else
      let next := bits e 55 8 * 256
      let (ws, as_) := walkReads m held pid x fuel (level + 1) next
      ({ proc := pid, level := level, page := walkPage level x, table := next } :: ws, at_ :: as_)

/-- The outcome of translating an access: a place, a translation fault (with MIG), or a fault code (R259). -/
inductive Tr where
  | at_ (l : Loc)
  | miss (mig : Bool)
  | bad (code : Nat)
  deriving DecidableEq, Repr, Inhabited

/-- Fault codes of R331. -/
def cIllegalOpcode : Nat := 0x01
def cIllegalOperand : Nat := 0x02
def cContract : Nat := 0x03
def cTranslation : Nat := 0x04
def cPermission : Nat := 0x05
def cAlign : Nat := 0x06
def cScratch : Nat := 0x07
def cCopyBounds : Nat := 0x08
def cMulticast : Nat := 0x09
def cUninit : Nat := 0x0A
def cT5 : Nat := 0x0C
def cFormat : Nat := 0x0D
def cStranded : Nat := 0x0E
def cDeterminism : Nat := 0x0F
def cFpTrap : Nat := 0x10
def cCallDepth : Nat := 0x11
def cLoopNest : Nat := 0x12
def cTrap : Nat := 0x13
def cBreakpoint : Nat := 0x14
def cEcc : Nat := 0x15
def cLink : Nat := 0x16
def cSerialise : Nat := 0x17
def cSpill : Nat := 0x18
def cKilled : Nat := 0x1A

/-- The place an entry's address names under its LOC (R247, R257). -/
def placeOf (loc a : Nat) : Loc := if loc = 0 then .dram a else .sys a

/-- A page walk (R258) for an agent of a partition: what the walkers hold spares reads and is added to (R260), each read
touches the L2 (R251, R253), and ACC and DIRTY are set in the leaf when the access is permitted. An address outside the global
space is denied (R186, R246). -/
def State.walkFor (s : State) (part pid x : Nat) (k : Acc) : Walk × State :=
  if !canonicalVa x then (.denied, s) else
  match s.proc? pid with
  | none => (.malformed, s)
  | some p =>
    let held := s.walkers.filter (fun w => w.proc == pid)
    let (new, reads) := walkReads s.dram held pid x 5 0 p.root
    let s1 := reads.foldl (fun (s : State) a => s.touchL2 a part false 0) { s with walkers := new ++ s.walkers }
    match walkGo s.dram held x k 5 0 p.root with
    | .leaf a loc mig at_ e level =>
      let e' := e ||| 32 ||| (if k = .wr ∨ k = .rw then 64 else 0)
      (.leaf a loc mig at_ e' level, if e' = e then s1 else ({ s1 with dram := s1.dram.writeN at_ 8 e' }).touchL2 at_ part true 0)
    | w => (w, s1)
/-- What a walk means for the access. -/
def Walk.outcome : Walk → Tr
  | .miss => .miss false
  | .malformed => .bad cTranslation
  | .denied => .bad cPermission
  | .leaf a loc mig _ _ _ => if mig then .miss true else .at_ (placeOf loc a)
/-- Translation for an agent that has no TLB: the firmware, the serialiser. -/
def State.translate (s : State) (pid x : Nat) (k : Acc) : Tr × State :=
  let (w, s1) := s.walkFor 0 pid x k
  (w.outcome, s1)
/-- The leaf that a core's TLB holds for an address. -/
def State.tlb? (s : State) (core pid x : Nat) : Option TlbEnt :=
  s.tlb.find? (fun e => e.core == core && e.proc == pid && e.page == x % 2 ^ 57 / pageBytes e.level)
/-- Translation for an agent of a core: its TLB when it holds a leaf that permits the access, and for a write one that is
marked DIRTY; else a walk, whose leaf the TLB then holds (R258, R260). -/
def State.translateAt (s : State) (core part pid x : Nat) (k : Acc) : Tr × State :=
  let walked : Tr × State :=
    let (w, s1) := s.walkFor part pid x k
    match w with
    | .leaf _ _ false at_ e level =>
      let rest := s1.tlb.filter (fun t => !(t.core == core && t.proc == pid && t.page == x % 2 ^ 57 / pageBytes t.level))
      let entry : TlbEnt := { core := core, proc := pid, level := level, page := x % 2 ^ 57 / pageBytes level, entry := e, at_ := at_ }
      (w.outcome, { s1 with tlb := entry :: rest })
    | _ => (w.outcome, s1)
  match s.tlb? core pid x with
  | some t =>
    if permits t.entry k && (bit t.entry 6 || !(k == .wr || k == .rw)) then
      (.at_ (placeOf (bits t.entry 57 56) (bits t.entry 55 8 * 256 + x % pageBytes t.level)), s)
    else walked
  | none => walked
/-- The invalidation of R261: no TLB and no walker holds an entry of the process. -/
def State.invalidate (s : State) (pid : Nat) : State :=
  { s with tlb := s.tlb.filter (fun t => t.proc ≠ pid), walkers := s.walkers.filter (fun w => w.proc ≠ pid) }
/-- A cache or a TLB loses what it holds (R250, R252, R260). -/
def State.lose (s : State) : Held → State
  | .l1 core line => s.dropLine core line
  | .icache core line => { s with icache := s.icache.filter (fun x => !(x.core == core && x.line == line)) }
  | .tlb n => { s with tlb := s.tlb.eraseIdx n }
  | .walker n => { s with walkers := s.walkers.eraseIdx n }

/-- Where the part of the register backing area that holds lanes' slots begins, above the barrier roll (log 25). -/
def slotsAt : Nat := 2 ^ 32
/-- How many lanes' pages it has at most: the lanes of teams that far apart share them (log 70). -/
def slotPages : Nat := 2 ^ 24
/-- The bytes of a grid's register backing area: the roll, and a page for each lane (R53, R296, log 25). -/
def Grid.backingBytes (g : Grid) : Nat := slotsAt + 65536 * min (g.teamCount * g.kcb.lanes) slotPages
/-- Whether an address of a process lies where the device keeps the register backing of a grid, or in an image: outside every space that a
program can address (R246, log 110). -/
def State.offLimits (s : State) (pid va : Nat) : Bool :=
  let x := va % 2 ^ 57
  s.grids.any (fun g => g.proc == pid && decide (g.backing % 2 ^ 57 ≤ x) && decide (x < g.backing % 2 ^ 57 + g.backingBytes)) ||
  s.images.any (fun i => decide (i.2.1 % 2 ^ 57 ≤ x) && decide (x < i.2.1 % 2 ^ 57 + i.2.2) && 
    (s.kept.any (fun k => k.tag == i.1 && k.proc == pid) || s.grids.any (fun g => g.tag == i.1 && g.proc == pid))) ||
  s.areas.any (fun a => a.proc == pid && decide (a.va % 2 ^ 57 ≤ x) && decide (x < a.va % 2 ^ 57 + a.len))
/-- An area of a process outside every space that a program can address (R246, log 110). -/
def State.guardArea (s : State) (a : Area) : State := { s with areas := a :: s.areas.filter (fun x => x ≠ a) }
/-- The areas of a tag are over once it is released; those of a job's slot stay (R246, R295). -/
def State.freeAreas (s : State) (tag : Nat) : State := { s with areas := s.areas.filter (fun a => a.tag ≠ tag || a.slot.isSome) }
/-- The areas of a job's slot are over: the slot is taken again (R350). -/
def State.freeSlot (s : State) (job k : Nat) : State := { s with areas := s.areas.filter (fun a => a.slot ≠ some (job, k % 2)) }

/-! ### Taking a fault (R331, R332) -/

/-- Faults of a stopping window, added to the grid's (R332). -/
def State.raise (s : State) (tag : Nat) (recs : List FaultRec) : State :=
  s.updGrid tag (fun g => { g with faults := g.faults ++ recs })

/-- A group stops (R332). -/
def State.stopGroup (s : State) (tag team num : Nat) : State :=
  s.updGroup tag team num (fun g => { g with stopped := true })

/-- The record of a fault of a lane (R333): its last canonical point, the faulting instruction's address. -/
def faultRec (g : Group) (l code : Nat) (pc : DWord) (addr : Nat) : FaultRec :=
  { code := code, team := g.team, grp := g.num, lane := l,
    ord := match g.lanes[l]? with
      | some x => x.snap.ord
      | none => 0,
    pc := pc, addr := addr, extra := 0 }

/-- A fault of one lane of a group, taken: recorded, and the group stops. -/
def State.faultLane (s : State) (tag team num l code : Nat) (pc : DWord) (addr : Nat) : State :=
  match s.group? tag team num with
  | none => s
  | some g => (s.raise tag [faultRec g l code pc addr]).stopGroup tag team num

/-! ### A queue processor's exception (R280) -/

def Hart.getX (h : Hart) (n : Nat) : DWord := if n = 0 then 0#64 else Sparse.get 0#64 h.x n
def Hart.setX (h : Hart) (n : Nat) (v : DWord) : Hart := if n = 0 then h else { h with x := Sparse.set 0#64 h.x n v }

/-- Where a trap goes: the vector base, and for an interrupt in vectored mode the cause's slot. -/
def trapTarget (tvec : DWord) (irq : Bool) (cause : Nat) : DWord :=
  (tvec &&& ~~~(3#64)) + (if irq && tvec.getLsbD 0 then BitVec.ofNat 64 (4 * cause) else 0#64)
/-- Whether a trap from supervisor mode is delegated to it. -/
def Hart.delegated (h : Hart) (irq : Bool) (cause : Nat) : Bool :=
  h.mode == 1 && decide (cause < 64) && (if irq then h.mideleg else h.medeleg).getLsbD cause
/-- Taking an exception or an interrupt (R280; the privileged architecture's own registers, log 18): the pc, the cause and the
value saved, the interrupt enable and the mode saved in mstatus, the mode raised, the pc at the handler; in machine mode, or
in supervisor mode when the trap is delegated. -/
def Hart.take (h : Hart) (irq : Bool) (cause val : Nat) : Hart :=
  let c := BitVec.ofNat 64 (cause + (if irq then 2 ^ 63 else 0))
  let v := BitVec.ofNat 64 val
  if h.delegated irq cause then
    { h with sepc := h.pc, scause := c, stval := v, idle := false,
             mstatus := (h.mstatus &&& ~~~(0x122#64)) ||| (if h.mode = 1 then 0x100#64 else 0#64) |||
                        (if h.mstatus.getLsbD 1 then 0x20#64 else 0#64),
             mode := 1, pc := trapTarget h.stvec irq cause }
  else
    { h with mepc := h.pc, mcause := c, mtval := v, idle := false,
             mstatus := (h.mstatus &&& ~~~(0x1888#64)) ||| (BitVec.ofNat 64 (h.mode * 2048)) |||
                        (if h.mstatus.getLsbD 3 then 0x80#64 else 0#64),
             mode := 3, pc := trapTarget h.mtvec irq cause }
def Hart.trap (h : Hart) (cause val : Nat) : Hart := h.take false cause val
/-- MRET: the mode and the interrupt enable come back from mstatus, the pc from mepc. -/
def Hart.mret (h : Hart) : Hart :=
  { h with pc := h.mepc, mode := if bits h.mstatus.toNat 12 11 = 3 then 3 else 1,
           mstatus := (h.mstatus &&& ~~~(0x1888#64)) ||| 0x80#64 ||| 0x800#64 ||| (if h.mstatus.getLsbD 7 then 8#64 else 0#64) }
/-- SRET. -/
def Hart.sret (h : Hart) : Hart :=
  { h with pc := h.sepc, mode := 1,
           mstatus := (h.mstatus &&& ~~~(0x122#64)) ||| 0x20#64 ||| 0x100#64 ||| (if h.mstatus.getLsbD 5 then 2#64 else 0#64) }
/-- Interrupts pending and enabled one by one. -/
def Hart.pending (h : Hart) : DWord := h.mip &&& h.mie
/-- The interrupt that the hart takes before its next instruction: machine before supervisor, then external, software, timer. -/
def Hart.interrupt (h : Hart) : Option Nat :=
  let m := h.pending &&& ~~~h.mideleg
  let d := h.pending &&& h.mideleg
  let first (x : DWord) : Option Nat := [11, 3, 7, 9, 1, 5].find? (fun i => x.getLsbD i)
  if h.mode = 1 ∨ h.mstatus.getLsbD 3 = true then
    match first m with
    | some i => some i
    | none => if h.mode = 1 ∧ h.mstatus.getLsbD 1 = true then first d else none
  else none

def State.hart? (s : State) (n : Nat) : Option Hart := s.harts[n]?
def State.updHart (s : State) (n : Nat) (f : Hart → Hart) : State := { s with harts := updAt f n s.harts }

/-! ### Outstanding results and draining (R35, R78, R234) -/

/-- Whether an access returns a result. -/
def Access.returns (a : Access) : Bool :=
  match a.kind with
  | .load _ => true
  | .atom _ r => r
  | .cas r => r
  | .xbtest => true
  | .mxq _ _ _ => true
  | .ldk => true
  | .ifence => true
  | _ => false

/-- Whether a matrix instance is outstanding for its participants until it takes effect: it reads operand bytes, or
writes a status with them (R234, R242, R243). -/
def matOutstanding (opc : Nat) : Bool := opc == 0xE0 || opc == 0xE1 || opc == 0xE4 || opc == 0xE5

/-- Whether a lane has a variable-latency result outstanding (R35, R78). -/
def State.outstanding (s : State) (tag team num l : Nat) : Bool :=
  (s.results.any (fun r => r.tag == tag && r.team == team && r.grp == num && r.lanes.getLsbD l)) ||
  (s.accs.any (fun a => a.tag == tag && a.team == team && a.grp == num && a.lanes.getLsbD l && a.returns)) ||
  (s.fetches.any (fun a => a.tag == tag && a.team == team && a.grp == num && a.lanes.getLsbD l)) ||
  (match s.team? tag team with
    | none => false
    | some t => t.matq.any (fun m => m.grp == num && matOutstanding m.opc && m.arrivals.any (fun a => a.lane == l)))

/-- Draining lanes of a group whose results have all returned run again (R35). -/
def State.undrain (s : State) (tag team num : Nat) : State :=
  s.updGroup tag team num (fun g => { g with lanes := g.lanes.mapIdx (fun i l =>
    if l.st = .draining ∧ s.outstanding tag team num i = false then { l with st := .running } else l) })

/-- The groups of a grid whose drains are over run again. -/
def State.undrainGrid (s : State) (tag : Nat) : State :=
  (s.groups.filter (fun g => g.tag == tag)).foldl (fun (s : State) g => s.undrain tag g.team g.num) s

/-! ### The physical register store (R15, R53) -/

/-- Slots and frame records of a lane leave the physical store (R53). -/
def State.cool (s : State) (tag team grp lane : Nat) : State := s.updLane tag team grp lane (fun l => { l with cold := true })
/-- A lane whose working part of the register stack the physical store holds. -/
structure Hot where
  tag : Nat
  team : Nat
  grp : Nat
  lane : Nat
  bytes : Nat
  deriving DecidableEq, Repr, Inhabited
/-- The lanes of a core's store, each with the four bytes of every register of its budget (R51, log 70). -/
def State.hot (s : State) (core : Nat) : List Hot :=
  s.groups.flatMap (fun g =>
    if !(s.teams.any (fun t => t.tag == g.tag && t.idx == g.team && t.resident && t.core == core)) then [] else
    let n := match s.grid? g.tag with
      | some gr => 4 * (gr.kcb.role g.role).budget
      | none => 0
    (List.range g.lanes.length).filterMap (fun i => match g.lanes[i]? with
      | some l => if l.cold || decide (l.st = .exited) then none else some { tag := g.tag, team := g.team, grp := g.num, lane := i, bytes := n }
      | none => none))
/-- Lanes leave the store while it holds more than its size, whichever they are but for those that pass a test (R15, R53). -/
def State.fitStore (s : State) (core : Nat) (keep : Hot → Bool) : State :=
  let all := s.hot core
  let total := (all.map (·.bytes)).sum
  if total ≤ Config.storeBytes then s else
  let may := all.filter (fun x => !keep x)
  ((may.rotateLeft (Config.choose s.choice % max may.length 1)).foldl (fun (a : State × Nat) x =>
    if a.2 ≤ Config.storeBytes then a else (a.1.cool x.tag x.team x.grp x.lane, a.2 - x.bytes)) ({ s with choice := s.choice + 1 }, total)).1

/-! ### Barriers, collectives and exits (R46, R50, R220) -/

/-- Lanes of a group that have not exited. -/
def Group.live (g : Group) : LaneMask :=
  maskOf ((List.range g.lanes.length).filter (fun i => match g.lanes[i]? with
    | some l => decide (l.st ≠ .exited)
    | none => false))

def State.teamGroups (s : State) (tag team : Nat) : List Group := s.groups.filter (fun g => g.tag == tag && g.team == team)
/-- Lanes of a team that have not exited. -/
def State.liveCount (s : State) (tag team : Nat) : Nat :=
  ((s.teamGroups tag team).map (fun g => (g.lanes.filter (fun l => decide (l.st ≠ .exited))).length)).sum
/-- Started, unretired teams of a cluster. -/
def State.clusterTeams (s : State) (g : Grid) (cl : Nat) : List Nat :=
  (s.teams.filter (fun t => t.tag == g.tag && g.clusterOf t.idx == cl)).map (·.idx)
/-- Cores holding teams of a cluster. -/
def State.clusterCores (s : State) (g : Grid) (cl : Nat) : List Nat :=
  (s.teams.filter (fun t => t.tag == g.tag && g.clusterOf t.idx == cl)).map (·.core)

/-- Whether an access, a signal or a matrix instance has not been made yet. -/
def State.isDue (s : State) (id : Nat) : Bool :=
  s.accs.any (fun a => a.id == id && !a.loose) || s.sigs.any (fun x => x.id == id) || s.teams.any (fun t => t.matq.any (fun m => m.id == id))
/-- Those of a list that have not been made. -/
def State.still (s : State) (l : List Nat) : List Nat := if l.isEmpty then [] else (l.filter s.isDue).eraseDups
/-- Whether everything of a list has been made. -/
def State.made (s : State) (l : List Nat) : Bool := l.all (fun i => !s.isDue i)
/-- What a lane's arrival at a barrier puts before the release (R221): the accesses, the signals and the matrix operand reads that it has
not seen made, and what an earlier release put before the lane. -/
def State.beforeOf (s : State) (tag team num l : Nat) : List Nat :=
  let mine (a b c : Nat) := a == tag && b == team && c == num
  (s.accs.filter (fun a => mine a.tag a.team a.grp && a.by_.getLsbD l && !a.loose)).map (·.id) ++
  (s.sigs.filter (fun x => mine x.tag x.team x.grp && x.copy.isNone && x.lane == l)).map (·.id) ++
  (match s.team? tag team with
    | none => []
    | some t => (t.matq.filter (fun m => m.grp == num && matOutstanding m.opc && m.arrivals.any (fun a => a.lane == l))).map (·.id)) ++
  (match s.lane? tag team num l with
    | none => []
    | some x => x.after)
/-- The parked lanes of a barrier return to running; what `before` names comes before what they do next (R221). -/
def releaseLanes (p : LaneSt → Bool) (before : List Nat) (g : Group) : Group :=
  { g with lanes := g.lanes.map (fun l => if p l.st then
      { l with st := if l.owed then .draining else .running, owed := false, after := l.after ++ before } else l) }

/-- `release_check` of R220 for team barrier n. -/
def State.checkTb (s : State) (tag team n : Nat) : State :=
  match s.team? tag team with
  | none => s
  | some t =>
    match t.tb[n]? with
    | none => s
    | some b =>
      let target := match b.e with
        | some (k + 1) => k + 1
        | _ => s.liveCount tag team
      if target ≤ b.n ∧ (b.n ≠ 0 ∨ b.e.isSome) then
        let s1 := s.updTeam tag team (fun t => { t with tb := updAt (fun _ => { n := 0, e := none }) n t.tb })
        State.undrainGrid { s1 with groups := s1.groups.map (fun g => if g.tag == tag && g.team == team then
            releaseLanes (fun st => decide (st = .atTeamBar n)) (s.still b.before) g else g) } tag
      else s

/-- What a cluster barrier's release puts before the accesses of other cores: their L1s lose its lines as it is made (R221, R250); an
XBINIT among it comes before the signals that the cluster's teams issue from now on (R222). -/
def State.spreadOut (s : State) (tag : Nat) (teams : List Nat) (ids : List Nat) : State :=
  if ids.isEmpty then s else
  let inits := (s.accs.filter (fun a => ids.contains a.id && (match a.kind with
    | .xbinit => true
    | _ => false))).map (fun a => (a.id, s.nextId))
  { s with
    accs := s.accs.map (fun a => if ids.contains a.id then { a with spread := true } else a),
    sigs := s.sigs.map (fun x => if ids.contains x.id then { x with spread := true } else x),
    teams := if inits.isEmpty then s.teams else
      s.teams.map (fun t => if t.tag == tag && teams.contains t.idx then { t with setups := t.setups.filter (fun x => s.isDue x.1) ++ inits } else t) }
/-- `release_check` of R220 for a cluster barrier; its release is an acquire at cluster scope, which drops L1 lines. -/
def State.checkCb (s : State) (tag cl : Nat) : State :=
  match s.grid? tag with
  | none => s
  | some g =>
    let b := Sparse.get { n := 0, e := none } g.cbars cl
    let teams := s.clusterTeams g cl
    let target := match b.e with
      | some (k + 1) => k + 1
      | _ => (teams.map (s.liveCount tag)).sum
    if target ≤ b.n ∧ (b.n ≠ 0 ∨ b.e.isSome) then
      let before := s.still b.before
      let s1 := s.updGrid tag (fun g => { g with cbars := Sparse.set { n := 0, e := none } g.cbars cl { n := 0, e := none } })
      let s2 := ((s.clusterCores g cl).foldl State.dropL1 s1).spreadOut tag teams before
      State.undrainGrid { s2 with groups := s2.groups.map (fun x => if x.tag == tag && teams.contains x.team then
          releaseLanes (fun st => decide (st = .atClusterBar)) before x else x) } tag
    else s

/-- Every barrier of a team and its cluster checked: a lane exited or a team retired (R220). -/
def State.checkBars (s : State) (tag team : Nat) : State :=
  let s1 := forN 16 (fun n s => s.checkTb tag team n) s
  match s1.grid? tag with
  | none => s1
  | some g => s1.checkCb tag (g.clusterOf team)

/-- The participant set of an instance (R44, R169): cv0 is every lane that has not exited. -/
def Inst.set (i : Inst) (g : Group) : LaneMask := if i.f.ctl.toNat % 8 = 0 then g.live else i.members
/-- The lanes that have arrived. -/
def Inst.arrivedMask (i : Inst) : LaneMask := maskOf (i.arrivals.map (·.lane))
/-- Whether every member has arrived (R46). -/
def Inst.full (i : Inst) (g : Group) : Bool := i.set g != 0#64 && (i.set g &&& ~~~ i.arrivedMask) == 0#64

/-- Instances that have become complete get their stamp: the order of completing arrivals (R169, R225). -/
def State.stampInsts (s : State) (tag team num : Nat) : State :=
  match s.group? tag team num with
  | none => s
  | some g =>
    if g.insts.any (fun i => i.done.isNone && i.full g) then
      (s.updGroup tag team num (fun g => { g with insts := g.insts.map (fun i =>
        if i.done.isNone && i.full g then { i with done := some s.nextId } else i) })).fresh
    else s

/-- A lane exits (R50, R128): its loop records are discarded and it leaves cv0. -/
def Lane.exit (l : Lane) : Lane := { l with st := .exited, loops := [] }

/-- What follows an exit: results outstanding are discarded for the lanes, accesses keep the lanes' program order (R50),
instances and barriers are checked. -/
def State.afterExit (s : State) (tag team num : Nat) (m : LaneMask) : State :=
  let mine (a b c : Nat) := a == tag && b == team && c == num
  let res := (s.results.map (fun (r : Result) =>
    if mine r.tag r.team r.grp then { r with lanes := r.lanes &&& ~~~ m } else r)).filter (fun r => decide (r.lanes ≠ 0#64))
  let acc := s.accs.map (fun (a : Access) => if mine a.tag a.team a.grp then { a with lanes := a.lanes &&& ~~~ m } else a)
  let s1 : State := { s with results := res, accs := acc }
  (s1.stampInsts tag team num).checkBars tag team

/-! ### Running lanes and issue sets (R33, R35 to R38) -/

/-- Whether a lane may issue (R35). -/
def Lane.runnable (l : Lane) : Bool := decide (l.st = .running)

/-- The key of R36, as a comparison: yielded first, then the deeper lane, then the lower PC. -/
def Lane.keyLt (a b : Lane) : Bool :=
  if a.yielded ≠ b.yielded then !a.yielded
  else if a.frames.length ≠ b.frames.length then decide (b.frames.length < a.frames.length)
  else decide (a.pc.toNat < b.pc.toNat)
def Lane.keyEq (a b : Lane) : Bool :=
  a.yielded == b.yielded && a.frames.length == b.frames.length && a.pc == b.pc

/-- R38: when lanes are runnable and all of them are yielded, every yielded flag of the group is cleared. -/
def Group.clearYield (g : Group) : Group :=
  if g.lanes.any Lane.runnable && g.lanes.all (fun l => !l.runnable || l.yielded) then
    { g with lanes := g.lanes.map (fun l => { l with yielded := false }) } else g

/-- The least lane by key among those that pass a test. -/
def leastLane (p : Lane → Bool) : List Lane → Option Lane
  | [] => none
  | l :: ls =>
    match leastLane p ls with
    | none => if p l then some l else none
    | some m => if p l && !(m.keyLt l) then some l else some m

/-- The lanes of a group whose key equals a lane's. -/
def Group.setOf (g : Group) (k : Lane) : LaneMask :=
  maskOf ((List.range g.lanes.length).filter (fun i => match g.lanes[i]? with
    | some l => l.runnable && l.keyEq k
    | none => false))

/-- Whether nothing keeps a group from its issue boundaries: its team is resident and not stopped, its grid is not
killed. -/
def State.unstopped (s : State) (g : Group) : Bool :=
  !g.stopped &&
  (match s.team? g.tag g.team with
    | some t => t.resident && !t.stopped
    | none => false) &&
  (match s.grid? g.tag with
    | some x => !x.killed
    | none => false)
/-- The same, and the group has a lane that may issue. -/
def State.mayIssue (s : State) (g : Group) : Bool := s.unstopped g && g.lanes.any Lane.runnable

/-! ### Signals of R276, error log and answers -/

/-- The F = 1 word of a signal. -/
def faultWord (code origin : Nat) (can : Bool) : Nat :=
  code + origin * 256 + (if can then 2 ^ 32 else 0) + 2 ^ 63

/-- A refusal recorded under R4 with its code, or the address of a refused signal (R217). -/
def State.logRefusal (s : State) (a code v : Nat) : State := { s with log := s.log ++ [{ addr := a, code := code, val := v }] }
/-- A management event (R345). -/
def State.report (s : State) (m : MgmtMsg) : State := { s with mgmt := { s.mgmt with msgs := s.mgmt.msgs ++ [m] } }

/-- Fields of the signed configuration record (R342). -/
def State.cfg (s : State) (hi lo : Nat) : Nat := bits s.mgmt.record.toNat hi lo
def State.fabric (s : State) : Nat := s.mgmt.asDev.getD (s.cfg 23 16)
def State.serLimit (s : State) : Nat := s.cfg 223 192
def State.faultLimit (s : State) : Nat := s.cfg 255 224
def State.linkLimit (s : State) : Nat := s.cfg 287 256
def State.wdLimit (s : State) : Nat := s.cfg 319 288
/-- A grid tag: the fabric number above the sequence (R295). -/
def State.tagOf (s : State) (seq : Nat) : Nat := s.fabric * 65536 + seq

end Sys2Proof.Machine
end

