-- ==== Sys2Proof/Machine/Operands.lean ====
section
/-! DEFINITION. Operand forms (R64 to R69), guards (R70), destinations, and what every issue of an instruction does
around its own effect: the implied marker, the kernel's checks, the write, the next pc, the back edge and the switch
marker (R35, R42, R55, R77 to R79, R358). -/

namespace Sys2Proof.Machine

/-- What an instruction reads at its issue: its context, its opcode and fields, its length, the set and its address. -/
structure Env where
  s : State
  grid : Grid
  team : Team
  grp : Group
  opc : Nat
  f : Fields
  len : Nat
  mask : LaneMask
  pc : DWord
  /-- lanes whose load is not made, since the fault found at its issue is not reported: they receive 0 (R42, R49) -/
  quiet : List Nat := []
  deriving DecidableEq, Repr, Inhabited

/-- The context of the current issue; none when the issue names nothing. -/
def envOf (s : State) (opc : Nat) (f : Fields) (len : Nat) : Option Env :=
  match s.grid? s.cur.tag, s.team? s.cur.tag s.cur.team, s.group? s.cur.tag s.cur.team s.cur.grp with
  | some g, some t, some x =>
    some { s := s, grid := g, team := t, grp := x, opc := opc, f := f, len := len, mask := s.cur.mask, pc := s.cur.pc }
  | _, _, _ => none

/-- The lowest lane of a mask. -/
def lowestLane (m : LaneMask) : Nat := (maskList 64 m).headD 0
/-- Group width (R23). -/
def Env.w (e : Env) : Nat := e.grid.kcb.width
def Env.lane (e : Env) (l : Nat) : Lane := e.grp.lanes.getD l default
/-- Lane indices of the set, ascending. -/
def Env.set (e : Env) : List Nat := maskList e.w e.mask
/-- The guard of a lane (R62, R70). -/
def Env.guard (e : Env) (l : Nat) : Bool :=
  if e.f.prd = 127#7 then true else (e.lane l).p.getLsbD e.f.prd.toNat != e.f.pn
/-- The performing lanes, ascending (R187). -/
def Env.perf (e : Env) : List Nat := e.set.filter e.guard
/-- An instruction that writes an s register is uniform (R42). -/
def Env.uniform (e : Env) : Bool :=
  match entry e.opc with
  | some n => writesS (n.roles e.f.sub.toNat).1 e.f.d
  | none => false
/-- The lanes that an operation is computed for: once, for the lowest, when it is uniform. -/
def Env.exec (e : Env) : List Nat := if e.uniform then e.set.take 1 else e.perf
/-- A team flat lane index (R24). -/
def Env.flat (e : Env) (l : Nat) : Nat := e.grp.num * e.w + l
def Env.role (e : Env) : RoleRec := e.grid.kcb.role e.grp.role

/-- f(j, q) of the octet figures (R68). -/
def octFig (j q : Nat) : Nat :=
  match j with
  | 0 => q ^^^ 1 | 1 => q ^^^ 2 | 2 => q ^^^ 4 | 3 => 7 - q | 4 => (q + 1) % 8 | 5 => (q + 7) % 8
  | 6 => ((q <<< 1) ||| (q >>> 2)) &&& 7 | _ => ((q >>> 1) ||| (q <<< 2)) &&& 7

/-- The source lane of a figure (R68). -/
def figLane (w l fig par : Nat) : Nat :=
  match fig with
  | 0 => l
  | 1 => (l + par) % w
  | 2 => w - 1 - l
  | 3 => l - l % 8 + octFig par (l % 8)
  | 4 => par
  | _ => l ^^^ 2 ^ par

/-- A v register of a lane: slot W0 + n of its stack (R51). -/
def Lane.vreg (l : Lane) (n : Nat) : Nat := (Sparse.get 0#32 l.v (l.w0 + n)).toNat
def Group.sreg (g : Group) (n : Nat) : Nat := (Sparse.get 0#32 g.s n).toNat
/-- The value of `span` consecutive registers, the first holding the low bits (R66). -/
def spanOf (r : Nat → Nat) (n : Nat) : Nat → Nat
  | 0 => 0
  | k + 1 => r n + 2 ^ 32 * spanOf r (n + 1) k

/-- Steps 1 and 2 of R69: the figure chooses the lane, which must be in the issue set (R43; for the lane index too,
log 19), and the operand is read. -/
def Env.raw (e : Env) (l : Nat) (x : BitVec 8) (m : BitVec 10) (span : Nat) : Nat :=
  let fig := modFig m
  let src := figLane e.w l fig (modPar m)
  if fig ≠ 0 ∧ e.mask.getLsbD src = false then 0 else
  match Operand.ofField x with
  | .v n => spanOf (e.lane src).vreg n span
  | .s n => spanOf e.grp.sreg n span
  | .zero => 0
  | .lane => src
  | .lit => e.f.lit.toNat % 2 ^ (32 * span)
  | .reserved => 0

/-- The scalar element selects (R67): a part extended to 32 bits, by sign unless `z`. -/
def selScalar (z : Bool) (sel v : Nat) : Nat :=
  let part (w k : Nat) := let x := (v >>> (w * k)) % 2 ^ w; if z then x else sext w 32 x
  if sel = 0 then v else if sel = 1 then part 16 0 else if sel = 2 then part 16 1
  else if sel = 3 then v % 65536 * 65536 + v / 65536
  else if sel < 8 then part 8 (sel - 4) else part 4 (sel - 8)

/-- The packed 16-bit selects (R67). -/
def selHalves (sel v : Nat) : Nat :=
  if sel = 1 then v % 65536 * 65537 else if sel = 2 then v / 65536 * 65537
  else if sel = 3 then v % 65536 * 65536 + v / 65536 else v
/-- The packed 8-bit selects (R67). -/
def selBytes (sel v : Nat) : Nat := if sel < 4 then v else (v >>> (8 * (sel - 4))) % 256 * 0x01010101
/-- A 16-bit source element: none and .h0 read bits [15:0] (R136, R164). -/
def selHalf (sel v : Nat) : Nat := if sel = 2 then v / 65536 % 65536 else v % 65536
/-- An 8-bit source element: none reads element 0 (R164). -/
def selByte (sel v : Nat) : Nat := if sel < 4 then v % 256 else (v >>> (8 * (sel - 4))) % 256

def Env.a32 (e : Env) (l : Nat) : Nat := e.raw l e.f.a e.f.moda 1
def Env.b32 (e : Env) (l : Nat) : Nat := e.raw l e.f.b e.f.modb 1
def Env.c32 (e : Env) (l : Nat) : Nat := e.raw l e.f.c e.f.modc 1
def Env.a64 (e : Env) (l : Nat) : Nat := e.raw l e.f.a e.f.moda 2
def Env.b64 (e : Env) (l : Nat) : Nat := e.raw l e.f.b e.f.modb 2
def Env.c64 (e : Env) (l : Nat) : Nat := e.raw l e.f.c e.f.modc 2
/-- `u(x)` of an integer entry (R121): 32 bits with the element select under Z, or 64 bits. -/
def Env.uA (e : Env) (l : Nat) : Nat :=
  if subW e.f.sub.toNat then e.a64 l else selScalar (subZ e.f.sub.toNat) (modSel e.f.moda) (e.a32 l)
def Env.uB (e : Env) (l : Nat) : Nat :=
  if subW e.f.sub.toNat then e.b64 l else selScalar (subZ e.f.sub.toNat) (modSel e.f.modb) (e.b32 l)
/-- The 32-bit integer sources whatever W holds. -/
def Env.uA32 (e : Env) (z : Bool) (l : Nat) : Nat := selScalar z (modSel e.f.moda) (e.a32 l)
def Env.uB32 (e : Env) (z : Bool) (l : Nat) : Nat := selScalar z (modSel e.f.modb) (e.b32 l)
def Env.uC32 (e : Env) (z : Bool) (l : Nat) : Nat := selScalar z (modSel e.f.modc) (e.c32 l)
/-- A source predicate field (R134). -/
def Env.predSrc (e : Env) (l : Nat) (x : BitVec 8) : Bool :=
  let n := x.toNat % 128
  (if n = 127 then true else (e.lane l).p.getLsbD n) != x.getLsbD 7

/-- Destination registers of a field for a lane, the first holding the low bits (R64, R66). -/
def Env.destAt (e : Env) (l : Nat) (x : BitVec 8) (k : Nat) : Dest :=
  match Operand.ofField x with
  | .v n => .v ((e.lane l).w0 + n + k)
  | .s n => .s (n + k)
  | _ => .none
/-- Writes of `span` registers of field D. -/
def Env.wrD (e : Env) (l span val : Nat) : List Wr :=
  (List.range span).map (fun k => { dest := e.destAt l e.f.d k, val := val / 2 ^ (32 * k) % 2 ^ 32 })
/-- A write of a predicate field; 0xF0 names none (R134). -/
def wrP (x : BitVec 8) (b : Bool) : List Wr := if x.toNat < 96 then [{ dest := .p x.toNat, val := b2n b }] else []

/-- A register write of a lane; what is written is no longer poisoned (R255, log 16). -/
def Group.put (g : Group) (l : Nat) (w : Wr) : Group :=
  match w.dest with
  | .v slot => g.updLane l (fun x => { x with v := Sparse.set 0#32 x.v slot (BitVec.ofNat 32 w.val), spoilt := x.spoilt.filter (fun k => k ≠ slot) })
  | .s n => { g with s := Sparse.set 0#32 g.s n (BitVec.ofNat 32 w.val), spoilt := g.spoilt.filter (fun k => k ≠ n) }
  | .p n => g.updLane l (fun x => { x with p := if w.val = 0 then x.p &&& ~~~ ((1#96) <<< n) else x.p ||| ((1#96) <<< n) })
  | .none => g
def Group.putAll (g : Group) (l : Nat) (ws : List Wr) : Group := ws.foldl (fun g w => g.put l w) g

/-- What one lane's execution yields: writes, FP flags, or a fault with its address field. -/
structure Out where
  writes : List Wr := []
  flags : BitVec 5 := 0#5
  fault : Option (Nat × Nat) := none
  deriving DecidableEq, Repr, Inhabited

/-- The irrevocable instructions, CVSET apart (R303). -/
def irrevocable (opc : Nat) : Bool := isCloser opc || opc == 0x05 || opc == 0xE3
/-- The transfers that R313 asks about. -/
def isXfer (opc : Nat) : Bool := opc == 0x02 || opc == 0x03 || opc == 0x04 || opc == 0x05

/-- The counter of the innermost of n active loops (R55). -/
def Lane.lc (l : Lane) (i : Nat) : Word := if i = 0 then l.lc0 else if i = 1 then l.lc1 else l.lc2
def Lane.setLc (l : Lane) (i : Nat) (v : Word) : Lane :=
  if i = 0 then { l with lc0 := v } else if i = 1 then { l with lc1 := v } else { l with lc2 := v }

/-- The back edge of R55, for a lane that completes the instruction at `pc`. -/
def Lane.backEdge (l : Lane) (pc : DWord) : Lane :=
  match l.loops with
  | [] => l
  | r :: rest =>
    if r.last = pc ∧ r.depth = l.frames.length then
      let i := rest.length
      let c := l.lc i - 1#32
      let l := l.setLc i c
      if c = 0#32 then { l with loops := rest } else { l with pc := r.start, yielded := l.yielded || r.y }
    else l

/-- A lane past an instruction it issued: the next pc or its target, then the back edge when the instruction ends the body of
the innermost record, whatever it is but a call or a return (R55, R130), and what the serialiser and run-time code ask of it
(R76, R303, R313). -/
def Lane.past (l : Lane) (opc : Nat) (pc : DWord) (len : Nat) (guard : Bool) (target : Option DWord) : Lane :=
  let l := { l with since := l.since + 1, closer := isCloser opc, irrev := l.irrev || (guard && irrevocable opc),
                    xfer := l.xfer || (guard && isXfer opc) }
  let l := { l with pc := target.getD (pc + BitVec.ofNat 64 len) }
  if target.isSome && (opc == 0x03 || opc == 0x04 || opc == 0x05) then l else l.backEdge pc

/-- Lanes of the set whose results are outstanding begin to drain: the switch marker (R35, R78), implied or not: the lanes
that an EXIT leaves drain after it (R79). -/
def State.mark (s : State) (e : Env) : State :=
  if e.f.sw = false ∧ impliesMarker e.opc = false then s else
  s.updGroup e.grid.tag e.team.idx e.grp.num (fun g => g.updMask e.mask (fun i l =>
    if l.st = .running ∧ s.outstanding e.grid.tag e.team.idx e.grp.num i then { l with st := .draining } else l))

/-- The end of an issue: every lane of the set moves on; `target` gives the transfers. -/
def Env.retire (e : Env) (s : State) (target : Nat → Option DWord) : State :=
  (s.updGroup e.grid.tag e.team.idx e.grp.num (fun g => g.updMask e.mask (fun i l =>
    l.past e.opc e.pc e.len (e.guard i) (target i)))).mark e

/-- No transfer. -/
def noTarget (_ : Nat) : Option DWord := none

/-- Faults of an issue, one for each faulting lane: the instruction has no effect in any lane (R6, R332). -/
def Env.fail (e : Env) (l : List (Nat × Nat × Nat)) : State :=
  (e.s.raise e.grid.tag (l.map (fun x => faultRec e.grp x.1 x.2.1 e.pc x.2.2))).stopGroup e.grid.tag e.team.idx e.grp.num

/-- The checks of R358 against a kernel: the code when one fails. -/
def Kcb.check (k : Kcb) (opc : Nat) (f : Fields) : Option Nat :=
  let figOk (m : BitVec 10) := modFig m ≠ 5 || decide (2 ^ modPar m < k.width)
  let tile (n : Nat) := decide (n < 16) && decide ((k.tiles.getD n (0, 0, false)).1 ≠ 0)
  let sub := f.sub.toNat
  let opcode (b : Bool) := if b then none else some cIllegalOpcode
  let operand (b : Bool) := if b then none else some cIllegalOperand
  let determ (b : Bool) := if k.det && b then some cDeterminism else none
  if !(figOk f.moda && figOk f.modb && figOk f.modc) then some cIllegalOperand else
  match opc with
  | 0xA1 => operand (f.b ≠ 0xF2#8 || decide (f.lit.toNat < k.width))
  | 0xA3 => operand (k.width ≠ 64 || f.d == 0xF0#8 || f.d.toNat % 2 == 0)
  | 0xA6 => operand (k.width ≠ 64 || f.d == 0xF0#8 || f.d.toNat % 2 == 0)
  | 0xB8 => determ true
  | 0xB9 => determ true
  | 0xBA => determ (sub % 16 == 8 || sub % 16 == 12 || sub % 16 == 13)
  | 0xBB => determ true
  | 0xBC => determ true
  | 0xBD => determ (decide (8 ≤ sub % 16 ∧ sub % 16 ≤ 13))
  | 0xD4 => opcode (!(!bit sub 0 && f.ctl.toNat % 4 == 1 && k.cluster == 1))
  | 0xE0 => operand (tile f.d.toNat)
  | 0xE1 => operand (tile f.d.toNat)
  | 0xE2 => operand (tile f.d.toNat)
  | 0xE3 => operand (tile f.d.toNat)
  | 0xE4 => operand (tile (sub % 16))
  | 0xE5 => operand (tile f.d.toNat)
  | 0xE6 => operand (tile f.d.toNat && tile f.a.toNat &&
      k.tiles.getD f.d.toNat (0, 0, false) == k.tiles.getD f.a.toNat (0, 0, false))
  | 0xE7 => operand (tile f.d.toNat)
  | 0xF4 => opcode k.disp
  | _ => none
/-- The checks of R358 against the issuing lane's kernel. -/
def Env.kernelCheck (e : Env) : Option Nat := e.grid.kcb.check e.opc e.f

/-- Whether the issue first waits for every outstanding result: the implied markers (R79), and RDSR and WRSR of
`sr_fstat` (R154). EXIT does not wait: its results are discarded (R50, R128). -/
def waitsFirst (opc : Nat) (f : Fields) : Bool :=
  (impliesMarker opc && opc ≠ 0x06) || (opc == 0xF0 && f.a == 0x10#8) || (opc == 0xF1 && f.d == 0x10#8)

/-- The lanes of the set that must drain before the instruction acts (R78, R79). -/
def drainFirst (s : State) (opc : Nat) (f : Fields) : State :=
  if waitsFirst opc f then
    let out (i : Nat) := s.outstanding s.cur.tag s.cur.team s.cur.grp i
    let m := s.cur.mask
    let stay := maskOf ((maskList 64 m).filter (fun i => !out i))
    let s1 := s.updGroup s.cur.tag s.cur.team s.cur.grp (fun g => g.updMask m (fun i l => if out i then { l with st := .draining } else l))
    { s1 with cur := { s.cur with mask := stay } }
  else s

/-- Whether a source field reads a poisoned register (R255). -/
def Env.srcSpoilt (e : Env) (l : Nat) (r : Role) (x : BitVec 8) (m : BitVec 10) : Bool :=
  let src := figLane e.w l (modFig m) (modPar m)
  match r, Operand.ofField x with
  | .src span _ _, .v n => (modFig m = 0 || e.mask.getLsbD src) && (List.range span).any (fun k => (e.lane src).spoilt.contains ((e.lane src).w0 + n + k))
  | .src span _ _, .s n => (List.range span).any (fun k => e.grp.spoilt.contains (n + k))
  | _, _ => false
/-- Whether an instruction reads a poisoned register in a lane. -/
def Env.spoilt (e : Env) (l : Nat) : Bool :=
  match entry e.opc with
  | none => false
  | some n =>
    let (rd, ra, rb, rc) := n.roles e.f.sub.toNat
    e.srcSpoilt l rd e.f.d 0#10 || e.srcSpoilt l ra e.f.a e.f.moda || e.srcSpoilt l rb e.f.b e.f.modb || e.srcSpoilt l rc e.f.c e.f.modc

/-- The instructions whose effect a demoted lane has suppressed, and on which it takes no fault (R49, R187): stores, atomics,
reductions, copy posts and hints. -/
def suppressed (opc : Nat) : Bool :=
  opc == 0xB1 || opc == 0xB3 || opc == 0xB5 || decide (0xB8 ≤ opc ∧ opc ≤ 0xBD) || decide (0xD0 ≤ opc ∧ opc ≤ 0xD2)
/-- The instructions that read memory into a register: LDG, LDS, LDC, LDK, MXQ. -/
def loadsMemory (opc : Nat) : Bool := opc == 0xB0 || opc == 0xB2 || opc == 0xB4 || opc == 0xF2 || opc == 0xEB
/-- Whether a load's fault is not reported: the lane is demoted, or for a uniform load every lane of the set (R42, R49). -/
def Env.hushed (e : Env) (l : Nat) : Bool :=
  if e.uniform then e.set.all (fun i => (e.lane i).demoted) else (e.lane l).demoted
/-- The lanes of a list that take a fault found at their issue. -/
def Env.faultable (e : Env) (ls : List Nat) : List Nat :=
  if suppressed e.opc then ls.filter (fun l => !(e.lane l).demoted)
  else if loadsMemory e.opc then ls.filter (fun l => !e.hushed l) else ls
/-- An issue of an instruction of `len` bytes: the implied marker, the kernel's checks, ECC of the registers it reads, then
the instruction's own effect. -/
def issueLen (s : State) (opc : Nat) (f : Fields) (len : Nat) (body : Env → State) : State :=
  let s1 := drainFirst s opc f
  match envOf s1 opc f len with
  | none => s1
  | some e =>
    if e.mask = 0#64 then s1 else
    match e.kernelCheck with
    | some code => if (e.faultable e.perf).isEmpty then body { e with quiet := e.exec } else e.fail ((e.faultable e.perf).map (fun l => (l, code, 0)))
    | none =>
      match (e.faultable e.exec).filter e.spoilt with
      | [] => body { e with quiet := e.exec.filter e.spoilt }
      | ls => e.fail (ls.map (fun l => (l, cEcc, 0)))
/-- An issue of an X, XL or BL form. -/
def issue (s : State) (opc : Nat) (f : Fields) (body : Env → State) : State := issueLen s opc f (Form.len f.form) body

/-- A B-form issue: its X-form equivalent (R60), four bytes long. -/
def issueB (s : State) (opc : Nat) (g : BFields) (body : Env → State) : State := issueLen s opc (Fields.ofB opc g) 4 body

end Sys2Proof.Machine
end

