-- ==== Sys2Proof/Machine/Flags.lean ====
section
/-! DEFINITION. FP flags and traps (R100, R101, R154), and the two ways in which results are written: at the issue for
fixed latency, by a later return for variable latency (R77, R78). -/

namespace Sys2Proof.Machine

/-- Flags ORed into a lane's `fstat` (R100). -/
def Lane.orFlags (l : Lane) (fl : BitVec 5) : Lane := { l with fstat := l.fstat ||| fl }

/-- The lane fault of an execution: its own, or FP_TRAP when an enabled flag would be raised (R101). -/
def Env.faultOf (e : Env) (o : Out) : Option (Nat × Nat) :=
  match o.fault with
  | some x => some x
  | none => if o.flags &&& e.grid.kcb.fptrap = 0#5 then none else some (cFpTrap, o.flags.toNat)

/-- The executions of an instruction's lanes. -/
def Env.outs (e : Env) (fn : Nat → Out) : List (Nat × Out) := e.exec.map (fun l => (l, fn l))

/-- The faulting lanes of an instruction with code and address. -/
def Env.faults (e : Env) (outs : List (Nat × Out)) : List (Nat × Nat × Nat) :=
  outs.filterMap (fun x => (e.faultOf x.2).map (fun y => (x.1, y.1, y.2)))

/-- The lanes whose `fstat` a lane's flags reach: every lane of the set for a uniform instruction (R42). -/
def Env.flagMask (e : Env) (l : Nat) : LaneMask := if e.uniform then e.mask else maskOf [l]

/-- The s registers that writes name. -/
def sDests (ws : List Wr) : List Nat := ws.filterMap (fun w => match w.dest with
  | .s n => some n
  | _ => none)
/-- The stamp of the issue that wrote each of some s registers last. -/
def Group.ahead (g : Group) (ns : List Nat) (t : Nat) : Group := { g with sAt := ns.foldl (fun m n => Sparse.set 0 m n t) g.sAt }
/-- Writes of a result whose issue bears stamp `t`, without those of s registers that a later issue has written meanwhile:
the writes of different issue sets take effect in issue order (R42). -/
def Group.inOrder (g : Group) (t : Nat) (ws : List Wr) : List Wr := ws.filter (fun w => match w.dest with
  | .s n => decide (Sparse.get 0 g.sAt n ≤ t)
  | _ => true)

/-- Writes and flags of the executions put into the group, in ascending lane order. -/
def Env.apply (e : Env) (g : Group) (outs : List (Nat × Out)) : Group :=
  (outs.foldl (fun g x => (g.putAll x.1 x.2.writes).updMask (e.flagMask x.1) (fun _ l => l.orFlags x.2.flags)) g).ahead
    (outs.flatMap (fun x => sDests x.2.writes)) e.s.nextId

/-- A fixed-latency instruction (R77): faults, or writes and flags, then the next instruction. -/
def fixed (fn : Env → Nat → Out) (e : Env) : State :=
  let outs := e.outs (fn e)
  match e.faults outs with
  | [] => e.retire (e.s.updGroup e.grid.tag e.team.idx e.grp.num (fun g => e.apply g outs)) noTarget
  | fs => e.fail fs

/-- The results of the executions as one outstanding result (R78); a uniform one belongs to the whole set. -/
def Env.resultOf (e : Env) (id : Nat) (outs : List (Nat × Out)) : Result :=
  { id := id, tag := e.grid.tag, team := e.team.idx, grp := e.grp.num,
    issue := id, uni := e.uniform, low := lowestLane e.mask, lanes := if e.uniform then e.mask else maskOf (outs.map (·.1)), pc := e.pc,
    writes := outs.map (fun x => (x.1, x.2.writes)), flags := outs.map (fun x => (x.1, x.2.flags)), coll := false }

/-- The state with one more outstanding result. -/
def State.addResult (s : State) (r : Result) : State := { s.fresh with results := s.results ++ [r] }

/-- A variable-latency instruction (R78): its own faults are raised now, FP_TRAP when the result returns (R154). -/
def variable_ (fn : Env → Nat → Out) (e : Env) : State :=
  let outs := e.outs (fn e)
  match outs.filterMap (fun x => x.2.fault.map (fun y => (x.1, y.1, y.2))) with
  | [] => e.retire (if outs.isEmpty then e.s else e.s.addResult (e.resultOf e.s.nextId outs)) noTarget
  | fs => e.fail fs

/-- An instruction with no effect of its own. -/
def plain (e : Env) : State := e.retire e.s noTarget

end Sys2Proof.Machine
end

