-- ==== Sys2Proof/Machine/Code.lean ====
section
/-! DEFINITION. Instruction memory: where the bytes at an address come from, what they decode to (R58, R74, R76, R257),
the loaded text that holds an address (R75, R88), canonical ordinals (R301, R307), the issue sets (R36 to R38) and the transfer checks of R125. -/

namespace Sys2Proof.Machine

/-- The loaded object of a process whose `.text` holds an address (R75). -/
def State.textOf (s : State) (pid pc : Nat) : Option CodeObj :=
  s.objects.find? (fun o => o.proc == pid && decide (o.text ≤ pc) && decide (pc < o.text + o.textLen))
/-- The run-time code range that holds an address (R76). -/
def State.runOf (s : State) (pid pc : Nat) : Option RunCode :=
  s.runcode.find? (fun r => r.proc == pid && decide (r.va ≤ pc) && decide (pc < r.va + r.len))

/-- The canonical-table entry of an ordinal for a grid: its object's table, or a run-time table by its base (R301, R307). -/
def State.canonEnt (s : State) (g : Grid) (ord : Nat) : Option CanonEnt :=
  match s.runcode.find? (fun r => r.proc == g.proc && decide (r.base ≤ ord) && decide (ord < r.base + r.canon.length)) with
  | some r => r.canon[ord - r.base]?
  | none => (s.object? g.handle).bind (fun o => o.canon[ord]?)
/-- The ordinal a CANON's field names at an address: run-time ordinals count from their base (R307). -/
def State.ordAt (s : State) (pid pc field : Nat) : Nat :=
  match s.runOf pid pc with
  | some r => r.base + field
  | none => field

/-- What a fetch finds. -/
inductive Fetched where
  | ok (i : Instr) (len : Nat)
  /-- the bytes do not decode; the code (R76) -/
  | bad (code : Nat)
  /-- no executable page holds a byte: a translation fault (with MIG), or a fault code -/
  | miss (va : Nat) (mig : Bool)
  | fault (va code : Nat)
  /-- a line of code in another home that the octet does not hold -/
  | remote (line : Nat)
  deriving DecidableEq, Repr, Inhabited

def rejectCode : Reject → Nat
  | .opcode => cIllegalOpcode | .operand => cIllegalOperand | .contract => cContract

/-- The word at a place: the octet's copy of its line when it holds one, else the home's (R199, R246). -/
def State.codeWord (s : State) (core : Nat) (va : Nat) (l : Loc) : Except Fetched Word :=
  match s.iline? core (l.down 64), l with
  | some bs, _ => .ok (BitVec.ofNat 32 (ofLe ((bs.drop l.inLine).take 4)))
  | none, .sys a => .error (.remote (a / 64 * 64))
  | none, _ => if s.poisoned l 4 then .error (.fault va cEcc) else .ok (BitVec.ofNat 32 (s.readNAt l 4))
/-- Words of instruction memory from an address, `n` of them, each through the process's table. -/
def State.fetchWords (s : State) (core pid pc : Nat) : Nat → Except Fetched (List Word)
  | 0 => .ok []
  | n + 1 =>
    if !canonicalVa pc then .error (.fault pc cPermission) else
    match (s.translateAt core 0 pid pc .ex).1 with
    | .miss mig => .error (.miss pc mig)
    | .bad c => .error (.fault pc c)
    | .at_ l =>
      match s.codeWord core pc l, State.fetchWords s core pid (pc + 4) n with
      | .error x, _ => .error x
      | .ok _, .error x => .error x
      | .ok w, .ok ws => .ok (w :: ws)

/-- The instruction at an address, as a core fetches it (R58): word 0 gives the length. -/
def State.fetch (s : State) (core pid pc : Nat) : Fetched :=
  match s.fetchWords core pid pc 1 with
  | .error x => x
  | .ok [] => .bad cIllegalOpcode
  | .ok (w0 :: _) =>
    match s.fetchWords core pid pc (instrLen w0 / 4) with
    | .error x => x
    | .ok ws =>
      match decode ws with
      | .ok (i, _) => .ok i (instrLen w0)
      | .error (.bad r) => .bad (rejectCode r)
      | .error .short => .bad cIllegalOpcode

/-- The line of the L2 that a line of code comes from (R251, R253). -/
def State.codeTouch (s : State) (part : Nat) (l : Loc) : State := match l with
  | .dram a => s.touchL2 a part false 0
  | _ => s
/-- What a fetch leaves: the walks' marks and the TLB's leaf (R257, R260), and the lines in the octet's caches (R199). -/
def State.fetchTouch (s : State) (core part pid pc len : Nat) : State :=
  forN (len / 4) (fun i s =>
    let (t, s1) := s.translateAt core part pid (pc + 4 * i) .ex
    match t with
    | .at_ l => if (s1.iline? core (l.down 64)).isSome then s1 else (s1.codeTouch part l).fillI core (l.down 64) (s1.readAt (l.down 64) 64)
    | _ => s1) s

/-- Length of the instruction at an address, 4 when it cannot be read. -/
def State.lenAt (s : State) (core pid pc : Nat) : Nat :=
  match s.fetchWords core pid pc 1 with
  | .ok (w0 :: _) => instrLen w0
  | _ => 4

/-- The offset of a CANON entry in a table's ordinals. -/
def CodeObj.canonOf (o : CodeObj) (off : Nat) : Option Nat := o.canon.findIdx? (fun c => c.pcoff == off)
/-- The ordinal that the loaded or the run-time table gives a CANON at an address. -/
def State.tableOrd (s : State) (pid pc : Nat) : Option Nat :=
  match s.textOf pid pc, s.runOf pid pc with
  | some o, _ => o.canonOf (pc - o.text)
  | none, some r => (r.canon.findIdx? (fun c => c.pcoff == pc - r.va)).map (· + r.base)
  | none, none => none
/-- The ordinal of the CANON that is a lane's next instruction, if it is one: where its page or its line is not at hand, as the tables
tell. -/
def State.canonAt (s : State) (core pid pc : Nat) : Option Nat :=
  match s.fetch core pid pc with
  | .ok (.canon f) _ => some (s.ordAt pid pc (Fields.abc f))
  | .remote _ => s.tableOrd pid pc
  | .miss _ _ => s.tableOrd pid pc
  | _ => none

/-- A lane stands at a canonical point: its next instruction is a CANON and its sync set is empty (R302). -/
def State.standing (s : State) (core : Nat) (g : Grid) (l : Lane) : Bool :=
  l.sigma == 0#64 && (l.st == .running || l.st == .atSync) && (s.canonAt core g.proc l.pc.toNat).isSome

/-! ### The issue sets -/

/-- A lane that issues nothing for now, standing at a canonical point: its grid is being serialised (R313, step 3), or
its group steps (R357). -/
def State.rests (s : State) (gr : Grid) (g : Group) (i : Nat) (l : Lane) : Bool :=
  let ser := match gr.ser with
    | some x => !x.held
    | none => false
  let step := g.stepping && !((gr.dbg.map (·.passes)).getD []).contains (g.team, g.num, i)
  (ser || step) && s.standing (s.coreOf g.tag g.team) gr l

/-- The lanes that an issue chooses among. -/
def State.candidates (s : State) (gr : Grid) (g : Group) : LaneMask :=
  maskOf ((List.range g.lanes.length).filter (fun i => match g.lanes[i]? with
    | some l => l.runnable && !(s.rests gr g i l)
    | none => false))
/-- The lanes of a mask. -/
def Group.pick (g : Group) (m : LaneMask) : List Lane := (maskList g.lanes.length m).map (fun i => g.lanes.getD i default)
/-- The lanes of a mask with a lane's key (R36). -/
def Group.keySet (g : Group) (m : LaneMask) (k : Lane) : LaneMask := g.setOf k &&& m

/-- The primary issue set (R36). -/
def State.primary (s : State) (gr : Grid) (g : Group) : Option (LaneMask × Lane) :=
  let m := s.candidates gr g
  (leastLane (fun _ => true) (g.pick m)).map (fun k => (g.keySet m k, k))
/-- The second issue set: the second-smallest key among lanes that have not yielded (R37). -/
def State.secondSet (s : State) (gr : Grid) (g : Group) (k1 : Lane) : Option (LaneMask × Lane) :=
  let m := s.candidates gr g
  if k1.yielded then none else
  (leastLane (fun l => !l.yielded && !l.keyEq k1) (g.pick m)).map (fun k => (g.keySet m k, k))

/-! ### Transfers, snapshots and the start of a serialise -/

/-- `check_transfer` of R125, the code when it fails; a return is asked the first three checks only (R75). -/
def State.checkTransfer (s : State) (g : Grid) (role : RoleRec) (ret : Bool) (t : Nat) : Option Nat :=
  let exec := canonicalVa t && (match s.proc? g.proc with
    | none => false
    | some p => match walk s.dram p.root t .ex with
      | .leaf _ _ _ _ _ _ => true
      | _ => false)
  if t % 4 ≠ 0 then some cAlign
  else if !exec then some cPermission
  else match s.textOf g.proc t with
    | none => none
    | some o =>
      if !(o.starts.contains (t - o.text)) then some cIllegalOpcode
      else if ret then none
      else match o.points.find? (fun p => p.1 == t - o.text) with
        | none => some cContract
        | some p => if role.budget ≤ p.2 then some cContract else none

/-- A lane keeps its snapshot at a CANON's issue (R302), its sync set empties (R308), and a region begins (R304). -/
def Lane.snapshot (l : Lane) (ord : Nat) (pc : DWord) : Lane :=
  { l with snap := { ord := ord, pc := pc, frames := l.frames, w0 := l.w0, loops := l.loops, lc0 := l.lc0, lc1 := l.lc1,
                     lc2 := l.lc2, yielded := l.yielded, demoted := l.demoted, fstat := l.fstat },
           sigma := 0#64, since := 0, irrev := false, xfer := false, matArr := false, arrived := [] }

/-- A lane set back to its snapshot (R313, step 4). -/
def Lane.rollback (l : Lane) : Lane :=
  { l with st := .running, pc := l.snap.pc, frames := l.snap.frames, w0 := l.snap.w0, loops := l.snap.loops,
           lc0 := l.snap.lc0, lc1 := l.snap.lc1, lc2 := l.snap.lc2, yielded := l.snap.yielded, demoted := l.snap.demoted,
           fstat := l.snap.fstat, sigma := 0#64, since := 0, irrev := false, xfer := false, matArr := false, arrived := [], after := [] }

/-- A grid whose image did not fit its capacity, or waits in a recovery point: it stays stopped with its state held (R311, R350). -/
def Grid.stays (g : Grid) : Bool := g.ser.any (·.held)
/-- A serialise in progress that a request may join (R316). -/
def Grid.joinable (g : Grid) : Bool := match g.ser with
  | some y => !y.held
  | none => false
/-- A request that joins a serialise in progress: both are served by its image (R316). -/
def Serial.join (y x : Serial) : Serial :=
  { y with reqs := y.reqs ++ x.reqs, own := y.own || x.own, byDbg := y.byDbg || x.byDbg, byPower := y.byPower || x.byPower,
           byTurn := y.byTurn || x.byTurn, snapshot := y.snapshot && x.snapshot, sample := y.sample || x.sample }
/-- A serialise begins (R313, step 1): no group of the grid issues. A request for a grid already being serialised joins it
(R316): the serialise goes on where it is, and its grid stops when one of them asks so. -/
def State.beginSerial (s : State) (tag : Nat) (x : Serial) : State :=
  let s1 := s.updGrid tag (fun g => match g.ser with
    | none => { g with ser := some x }
    | some y => if y.held then { g with ser := some x } else { g with ser := some (y.join x) })
  if s.grids.any (fun g => g.tag == tag && g.joinable) then s1
  else { s1 with groups := s1.groups.map (fun g => if g.tag == tag then { g with stopped := true } else g) }

end Sys2Proof.Machine
end

