-- ==== Sys2Proof/Machine/Control.lean ====
section
/-! DEFINITION. Control transfer, hardware loops, canonical points and deliberate faults (R122 to R133, R51, R55). -/

namespace Sys2Proof.Machine

/-- The current group changed in the lanes of a mask. -/
def Env.onMask (e : Env) (m : LaneMask) (f : Nat → Lane → Lane) : State :=
  e.s.updGroup e.grid.tag e.team.idx e.grp.num (fun g => g.updMask m f)
/-- The performing lanes as a mask. -/
def Env.perfMask (e : Env) : LaneMask := maskOf e.perf
/-- A transfer of the performing lanes. -/
def Env.jump (e : Env) (t : Nat → DWord) (l : Nat) : Option DWord := if e.guard l then some (t l) else none

/-- Whether the instruction lies in run-time code (R76). -/
def Env.inRun (e : Env) : Bool := (e.s.runOf e.grid.proc e.pc.toNat).isSome
/-- The record of the innermost loop that a lane opened at its present depth. -/
def Lane.loopHere (l : Lane) : Option LoopRec :=
  match l.loops with
  | r :: _ => if r.depth = l.frames.length then some r else none
  | [] => none
/-- Run-time code only: no transfer but the back edge and LBRK may leave the body of the innermost record at the lane's depth,
a call as little as a branch or a LOOP's way past its body (R131). -/
def Env.leavesBody (e : Env) (l : Nat) (t : DWord) : Bool :=
  e.inRun && (match (e.lane l).loopHere with
    | some r => decide (t.toNat < r.start.toNat ∨ r.last.toNat < t.toNat)
    | none => false)

/-- Faults of the performing lanes that a check finds, or the effect. -/
def Env.checked (e : Env) (chk : Nat → Option (Nat × Nat)) (eff : State) : State :=
  match e.perf.filterMap (fun l => (chk l).map (fun x => (l, x.1, x.2))) with
  | [] => eff
  | fs => e.fail fs

/-- BRA (R124, R38). -/
def braBody (e : Env) : State :=
  let t := e.pc + BitVec.ofInt 64 (Fields.branchOff e.f)
  e.checked (fun l => if e.leavesBody l t then some (cContract, 0) else none)
    (e.retire (if e.f.ctl.getLsbD 0 then e.onMask e.perfMask (fun _ x => { x with yielded := true }) else e.s) (e.jump (fun _ => t)))

/-- BRX (R125). In run-time code the target is checked before the loop body that it would leave (R131, log 115). -/
def brxBody (e : Env) : State :=
  e.checked (fun l =>
      match e.s.checkTransfer e.grid e.role false (e.a64 l) with
      | some c => some (c, e.a64 l)
      | none => if e.leavesBody l (BitVec.ofNat 64 (e.a64 l)) then some (cContract, 0) else none)
    (e.retire e.s (e.jump (fun l => BitVec.ofNat 64 (e.a64 l))))

/-- The push of a call (R51, R126). -/
def Lane.call (l : Lane) (ret : DWord) (n : Nat) : Lane := { l with frames := { ret := ret, n := n } :: l.frames, w0 := l.w0 + n }
/-- The two conditions of CALL_DEPTH (R52). -/
def Env.callDepth (e : Env) (l : Nat) : Bool :=
  decide ((e.lane l).frames.length = 1023 ∨ (e.lane l).w0 + e.f.d.toNat + e.role.budget > e.role.stack)
def callBody (computed : Bool) (e : Env) : State :=
  let t (l : Nat) : DWord := if computed then BitVec.ofNat 64 (e.a64 l) else e.pc + BitVec.ofInt 64 (Fields.branchOff e.f)
  e.checked (fun l =>
      if e.callDepth l then some (cCallDepth, 0)
      else match (if computed then e.s.checkTransfer e.grid e.role false (e.a64 l) else none) with
        | some c => some (c, e.a64 l)
        | none => if e.leavesBody l (t l) then some (cContract, 0) else none)
    (e.retire (e.onMask e.perfMask (fun _ x => x.call (e.pc + BitVec.ofNat 64 e.len) e.f.d.toNat)) (e.jump t))

/-- The lanes of a mask exit; barriers and collectives see it (R50). -/
def Env.exits (e : Env) (s : State) (m : LaneMask) : State :=
  if m = 0#64 then s else
  (s.updGroup e.grid.tag e.team.idx e.grp.num (fun g => g.updMask m (fun _ l => l.exit))).afterExit e.grid.tag e.team.idx e.grp.num m

/-- RET (R127): the frame popped, or an exit at depth 0. -/
def Lane.ret (l : Lane) : Lane :=
  match l.frames with
  | [] => l
  | f :: rest => { l with frames := rest, w0 := l.w0 - f.n }
/-- RET (R127): run-time code checks the loop record (R131), then R75 the return address; neither names an address for the record
(R333). -/
def retBody (e : Env) : State :=
  let ret (l : Nat) : DWord := match (e.lane l).frames with
    | f :: _ => f.ret
    | [] => e.pc
  let deep := e.perf.filter (fun l => !(e.lane l).frames.isEmpty)
  let outs := maskOf (e.perf.filter (fun l => (e.lane l).frames.isEmpty))
  e.checked (fun l =>
      if e.inRun && (e.lane l).loopHere.isSome then some (cContract, 0)
      else if (e.lane l).frames.isEmpty then none
      else (e.s.checkTransfer e.grid e.role true (ret l).toNat).map (fun c => (c, 0)))
    (e.exits (e.retire (e.onMask (maskOf deep) (fun _ x => x.ret)) (e.jump ret)) outs)

/-- EXIT (R128). -/
def exitBody (e : Env) : State := e.exits (e.retire e.s noTarget) e.perfMask

/-- DEMOTE (R128, R49). -/
def demoteBody (e : Env) : State := e.retire (e.onMask e.perfMask (fun _ x => { x with demoted := true })) noTarget

/-- LOOP (R55, R129). -/
def Lane.openLoop (l : Lane) (count : Nat) (start last : DWord) (y : Bool) : Lane :=
  let l := l.setLc l.loops.length (BitVec.ofNat 32 count)
  { l with loops := { start := start, last := last, depth := l.frames.length, y := y } :: l.loops }
def loopBody (e : Env) : State :=
  let last := e.pc + BitVec.ofNat 64 (Fields.loopOff e.f)
  let skip := last + BitVec.ofNat 64 (e.s.lenAt e.team.core e.grid.proc last.toNat)
  e.checked (fun l => if (e.lane l).loops.length = 3 then some (cLoopNest, 0)
      else if e.a32 l = 0 ∧ e.leavesBody l skip = true then some (cContract, 0) else none)
    (e.retire (e.onMask (maskOf (e.perf.filter (fun l => e.a32 l ≠ 0)))
        (fun i x => x.openLoop (e.a32 i) (e.pc + BitVec.ofNat 64 e.len) last (e.f.ctl.getLsbD 0)))
      (fun l => some (if e.a32 l = 0 then skip else e.pc + BitVec.ofNat 64 e.len)))

/-- LBRK (R131); with no record at the lane's depth, CONTRACT. -/
def lbrkBody (e : Env) : State :=
  let out (l : Nat) : DWord := match (e.lane l).loopHere with
    | some r => r.last + BitVec.ofNat 64 (e.s.lenAt e.team.core e.grid.proc r.last.toNat)
    | none => e.pc
  e.checked (fun l => if (e.lane l).loopHere.isNone then some (cContract, 0) else none)
    (e.retire (e.onMask e.perfMask (fun _ x => { x with loops := x.loops.tail })) (e.jump out))

/-- The stop site of a debugger at an ordinal (R357). -/
def Dbg.site? (d : Dbg) (ord : Nat) : Option Site := d.sites.find? (fun x => x.ord == ord)
/-- Whether a STEP site of a debugger names a group (R357). -/
def Dbg.stepsAt (d : Dbg) (team num : Nat) : Bool := d.sites.any (fun x => match x.kind with
  | .step t n => t == team && n == num
  | _ => false)
/-- The serialise that a stop site asks for: a snapshot at a SAMPLE site (R357). -/
def debugSerial (snapshot : Bool) (now : Nat) : Serial :=
  { image := 0, cap := 0, named := false, proc := 0, own := true, snapshot := snapshot, byDbg := !snapshot, sample := snapshot, byPower := false, byTurn := false, cause := 5, reqs := [], started := now, decided := false, forward := [], held := false }

/-- CANON (R132, R302, R308): lanes whose point synchronises and whose sync set is not empty park; the others take
their snapshot. At a debugger's site the lanes do not issue it yet: the grid is serialised first, at a SAMPLE site on every n-th arrival;
they pass the site when they come back to it (R357, log 32). -/
def canonBody (e : Env) : State :=
  let ord := e.s.ordAt e.grid.proc e.pc.toNat (Fields.abc e.f)
  let sync := match e.s.canonEnt e.grid ord with
    | some c => c.sync
    | none => false
  let park := maskOf (e.set.filter (fun l => sync && (e.lane l).sigma != 0#64))
  let go := e.mask &&& ~~~ park
  let s1 := e.onMask park (fun _ x => { x with st := .atSync })
  let e1 : Env := { e with s := s1, mask := go }
  if go = 0#64 then s1 else
  let passes := (e.grid.dbg.map (·.passes)).getD []
  let past := (maskList 64 go).all (fun l => passes.contains (e.team.idx, e.grp.num, l))
  let site := if past || e.grid.ser.isSome then none else e.grid.dbg.bind (fun d => d.site? ord)
  let hits := 1 + (((e.grid.dbg.map (·.arrivals)).getD []).filter (fun x => x == ord)).length
  let (stop, s1) : Option Bool × State := match site with
    | some { ord := _, kind := .brk } => (some false, s1)
    | some { ord := _, kind := .sample n } =>
      let s2 := s1.updGrid e.grid.tag (fun g => { g with dbg := g.dbg.map (fun d => { d with arrivals := ord :: d.arrivals }) })
      if n ≠ 0 ∧ hits % n = 0 then
        (some true, s2.updGrid e.grid.tag (fun g => { g with dbg := g.dbg.map (fun d => { d with
          passes := d.passes ++ (maskList 64 go).map (fun l => (e.team.idx, e.grp.num, l)) }) }))
      else (none, s2)
    | _ => (none, s1)
  let e1 : Env := { e1 with s := s1 }
  match stop with
  | some snap => s1.beginSerial e.grid.tag (debugSerial snap s1.time)
  | none =>
    let s2 := e1.onMask go (fun _ x => x.snapshot ord e.pc)
    let s3 := s2.updGroup e.grid.tag e.team.idx e.grp.num (fun g => { g with canonSince := true })
    let s3 := if passes.isEmpty then s3 else s3.updGrid e.grid.tag (fun g => { g with dbg := g.dbg.map (fun d => { d with
      passes := d.passes.filter (fun x => !(x.1 == e.team.idx && x.2.1 == e.grp.num && go.getLsbD x.2.2)) }) })
    e1.retire s3 noTarget

/-- TRAP, and BRK without a debugger, fault in every performing lane (R133). -/
def trapBody (code : Nat) (e : Env) : State :=
  if e.perf.isEmpty then plain e else e.fail (e.perf.map (fun l => (l, code, Fields.abc e.f)))
/-- BRK: while a debugger holds the grid it stops only the team (R331, R357). -/
def brkBody (e : Env) : State :=
  if e.grid.dbg.isSome && !e.perf.isEmpty then e.s.updTeam e.grid.tag e.team.idx (fun t => { t with stopped := true })
  else trapBody cBreakpoint e

/-- NOP: no effect but the marker (R123). -/
def execNop (sw : Bool) (s : State) : Host.Outcome State Fault Refusal := .next (issueB s 0x00 (bareB sw) (plain))

/-- NOP_EXT: no effect (R123). -/
def execNopExt (f : Fields) (s : State) : Host.Outcome State Fault Refusal := .next (issue s 0x00 f (plain))

/-- BRA: to a fixed target (R124). -/
def execBra (f : Fields) (s : State) : Host.Outcome State Fault Refusal := .next (issue s 0x01 f (braBody))

/-- BRX: to a computed target (R125). -/
def execBrx (f : Fields) (s : State) : Host.Outcome State Fault Refusal := .next (issue s 0x02 f (brxBody))

/-- CALL: a call (R126). -/
def execCall (f : Fields) (s : State) : Host.Outcome State Fault Refusal := .next (issue s 0x03 f (callBody false))

/-- CALLX: a computed call (R126). -/
def execCallx (f : Fields) (s : State) : Host.Outcome State Fault Refusal := .next (issue s 0x04 f (callBody true))

/-- RET: a return, or an exit at depth 0 (R127). -/
def execRet (sw : Bool) (s : State) : Host.Outcome State Fault Refusal := .next (issueB s 0x05 (bareB sw) (retBody))

/-- RET_EXT: a return, or an exit at depth 0 (R127). -/
def execRetExt (f : Fields) (s : State) : Host.Outcome State Fault Refusal := .next (issue s 0x05 f (retBody))

/-- EXIT: the lanes exit (R128). -/
def execExit (sw : Bool) (s : State) : Host.Outcome State Fault Refusal := .next (issueB s 0x06 (bareB sw) (exitBody))

/-- EXIT_EXT: the guard-true lanes exit (R128). -/
def execExitExt (f : Fields) (s : State) : Host.Outcome State Fault Refusal := .next (issue s 0x06 f (exitBody))

/-- DEMOTE: the lanes are demoted (R128). -/
def execDemote (sw : Bool) (s : State) : Host.Outcome State Fault Refusal := .next (issueB s 0x07 (bareB sw) (demoteBody))

/-- DEMOTE_EXT: the guard-true lanes are demoted (R128). -/
def execDemoteExt (f : Fields) (s : State) : Host.Outcome State Fault Refusal := .next (issue s 0x07 f (demoteBody))

/-- LOOP: a hardware loop opens, or its body is skipped (R55, R129). -/
def execLoop (f : Fields) (s : State) : Host.Outcome State Fault Refusal := .next (issue s 0x08 f (loopBody))

/-- LBRK: out of the innermost loop (R131). -/
def execLbrk (sw : Bool) (s : State) : Host.Outcome State Fault Refusal := .next (issueB s 0x09 (bareB sw) (lbrkBody))

/-- LBRK_EXT: out of the innermost loop (R131). -/
def execLbrkExt (f : Fields) (s : State) : Host.Outcome State Fault Refusal := .next (issue s 0x09 f (lbrkBody))

/-- CANON: a canonical point (R132). -/
def execCanon (f : Fields) (s : State) : Host.Outcome State Fault Refusal := .next (issue s 0x0A f (canonBody))

/-- TRAP: TRAP_INSTRUCTION (R133). -/
def execTrap (f : Fields) (s : State) : Host.Outcome State Fault Refusal := .next (issue s 0x0B f (trapBody cTrap))

/-- BRK: BREAKPOINT (R133). -/
def execBrk (f : Fields) (s : State) : Host.Outcome State Fault Refusal := .next (issue s 0x0C f (brkBody))

end Sys2Proof.Machine
end

