-- ==== Sys2Proof/Machine/Digest.lean ====
section
/-! DEFINITION. The two checksums the spec names: CRC-32C of an image (R318) and SHA-384 of objects, records and
firmware (R318, R343, R344), over bytes. Their polynomials and constants are those of the standards (log 27). -/

namespace Sys2Proof.Machine

/-- One byte of CRC-32C, reflected, polynomial 0x82F63B78. -/
def crcByte (c : Nat) (b : Byte) : Nat :=
  forN 8 (fun _ c => if c % 2 = 1 then (c / 2) ^^^ 0x82F63B78 else c / 2) (c ^^^ b.toNat)
/-- CRC-32C (R318). -/
def crc32c (l : List Byte) : Nat := (l.foldl crcByte 0xFFFFFFFF) ^^^ 0xFFFFFFFF

/-- The largest number of `k` bits whose `e`-th power is at most `x`, found from its highest bit down. -/
def rootBits (e x : Nat) : Nat → Nat → Nat
  | 0, r => r
  | k + 1, r => rootBits e x k (if (r + 2 ^ k) ^ e ≤ x then r + 2 ^ k else r)
/-- The first 64 fractional bits of the `e`-th root of `p`. -/
def rootFraction (e p : Nat) : Nat := rootBits e (p * 2 ^ (64 * e)) 70 0 % 2 ^ 64
/-- The primes below 410: the first eighty. -/
def smallPrimes : List Nat := (List.range 410).filter (fun n => decide (2 ≤ n) && (List.range n).all (fun d => decide (d < 2) || n % d != 0))
/-- The standard's round constants, from the cube roots of the first eighty primes (log 27). -/
def roundConstants : List Nat := smallPrimes.map (rootFraction 3)
/-- The standard's initial value for 384 bits, from the square roots of the ninth to the sixteenth prime (log 27). -/
def digestStart : List Nat := ((smallPrimes.drop 8).take 8).map (rootFraction 2)

/-- Exclusive or of the rotations of a 64-bit word to the right by given amounts. -/
def mixRot (x : Nat) (by_ : List Nat) : Nat := by_.foldl (fun y n => y ^^^ (x * 2 ^ 64 + x) / 2 ^ n % 2 ^ 64) 0
/-- The words of one 128-byte block with the 64 words that follow from them, newest first. -/
def schedule (block : List Nat) : List Nat :=
  forN 64 (fun _ ws =>
    let old := ws.getD 14 0
    let new := ws.getD 1 0
    (ws.getD 15 0 + ws.getD 6 0 + (mixRot old [1, 8] ^^^ old / 2 ^ 7) + (mixRot new [19, 61] ^^^ new / 2 ^ 6)) % 2 ^ 64 :: ws) block.reverse
/-- The eight working words after one round with a constant and a word of the schedule. -/
def digestRound (v : List Nat) (kw : Nat × Nat) : List Nat :=
  let at_ (i : Nat) : Nat := v.getD i 0
  let choose := (at_ 4 &&& at_ 5) + ((at_ 4 ^^^ (2 ^ 64 - 1)) &&& at_ 6)
  let major := (at_ 0 &&& (at_ 1 ||| at_ 2)) ||| (at_ 1 &&& at_ 2)
  let mixed := at_ 7 + mixRot (at_ 4) [14, 18, 41] + choose + kw.1 + kw.2
  ((mixed + mixRot (at_ 0) [28, 34, 39] + major) % 2 ^ 64) :: v.take 3 ++ ((at_ 3 + mixed) % 2 ^ 64) :: (v.drop 4).take 3
/-- One block folded into the running value. -/
def digestBlock (v block : List Nat) : List Nat :=
  List.zipWith (fun x y => (x + y) % 2 ^ 64) v ((roundConstants.zip (schedule block).reverse).foldl digestRound v)
/-- The value of bytes, highest first. -/
def ofBe (l : List Byte) : Nat := l.foldl (fun x b => x * 256 + b.toNat) 0
/-- The blocks of bytes, `n` of them, as 16 words each. -/
def blocksOf : Nat → List Byte → List (List Nat)
  | 0, _ => []
  | n + 1, l => (List.range 16).map (fun j => ofBe ((l.drop (8 * j)).take 8)) :: blocksOf n (l.drop 128)
/-- SHA-384 of bytes; the digest's first byte is the highest of the result. -/
def sha384 (l : List Byte) : BitVec 384 :=
  let filled := l ++ 0x80#8 :: List.replicate ((239 - l.length % 128) % 128) 0#8 ++ (leBytes 16 (l.length * 8)).reverse
  let v := (blocksOf (filled.length / 128) filled).foldl digestBlock digestStart
  BitVec.ofNat 384 ((v.take 6).foldl (fun x w => x * 2 ^ 64 + w) 0)
/-- A digest as it lies in a little-endian record: its first byte lowest. -/
def digestBytes (d : BitVec 384) : List Byte := (leBytes 48 d.toNat).reverse
def digestField (d : BitVec 384) : Nat := ofLe (digestBytes d)

end Sys2Proof.Machine
end

