-- ==== Sys2Proof/Machine/Integer.lean ====
section
/-! DEFINITION. Integer, logic, move, address and packed-integer instructions (R119 to R121, R140 to R152). -/

namespace Sys2Proof.Machine

/-- A w-bit pattern read by signedness: `sv` of R121, with `sg` at z = false. -/
def sv (z : Bool) (w u : Nat) : Int := if z then (u : Int) else sgn w u

/-- `wr` of R121: saturated when SAT, else reduced modulo 2^w. -/
def wrVal (sat z : Bool) (w : Nat) (x : Int) : Nat :=
  if sat then (if z then wrap w (min (max x 0) (2 ^ w - 1)) else wrap w (min (max x (-(2 ^ (w - 1)))) (2 ^ (w - 1) - 1)))
  else wrap w x

def Env.sub (e : Env) : Nat := e.f.sub.toNat
def Env.z (e : Env) : Bool := subZ e.f.sub.toNat
def Env.wid (e : Env) : Nat := subWidth e.f.sub.toNat
/-- A result of the entry's width written by `wr`. -/
def Env.wrInt (e : Env) (l : Nat) (x : Int) : Out :=
  { writes := e.wrD l (subSpan e.sub) (wrVal e.f.sat e.z e.wid x) }
/-- A 32-bit result. -/
def Env.wr32 (e : Env) (l v : Nat) : Out := { writes := e.wrD l 1 (v % 2 ^ 32) }
def Env.svA (e : Env) (l : Nat) : Int := sv e.z e.wid (e.uA l)
def Env.svB (e : Env) (l : Nat) : Int := sv e.z e.wid (e.uB l)
def Env.svC32 (e : Env) (l : Nat) : Int := sv e.z 32 (e.uC32 e.z l)

/-- R140. -/
def iaddFn (e : Env) (l : Nat) : Out := e.wrInt l (e.svA l + e.svB l)
def isubFn (e : Env) (l : Nat) : Out := e.wrInt l (e.svA l - e.svB l)
def imulFn (e : Env) (l : Nat) : Out := e.wr32 l (wrap 32 (e.svA l * e.svB l))
def imulhFn (e : Env) (l : Nat) : Out := e.wr32 l (wrap 32 (e.svA l * e.svB l / 2 ^ 32))
def imadFn (e : Env) (l : Nat) : Out := e.wr32 l (wrap 32 (e.svA l * e.svB l + e.svC32 l))
def imadwFn (e : Env) (l : Nat) : Out := { writes := e.wrD l 2 (wrap 64 (e.svA l * e.svB l + (e.c64 l : Int))) }
def iminFn (e : Env) (l : Nat) : Out := e.wrInt l (min (e.svA l) (e.svB l))
def imaxFn (e : Env) (l : Nat) : Out := e.wrInt l (max (e.svA l) (e.svB l))
def iabsFn (e : Env) (l : Nat) : Out := let x := sgn e.wid (e.uA l); e.wrInt l (if x < 0 then -x else x)
def inegFn (e : Env) (l : Nat) : Out := e.wrInt l (-(sgn e.wid (e.uA l)))

/-- R141: truncating division, with the results given for a zero divisor. -/
def divVal (w : Nat) (a b : Int) : Nat := if b = 0 then 2 ^ w - 1 else wrap w (Int.tdiv a b)
def remVal (w : Nat) (u : Nat) (a b : Int) : Nat := if b = 0 then u else wrap w (a - b * Int.tdiv a b)
def idivFn (e : Env) (l : Nat) : Out := { writes := e.wrD l (subSpan e.sub) (divVal e.wid (e.svA l) (e.svB l)) }
def iremFn (e : Env) (l : Nat) : Out := { writes := e.wrD l (subSpan e.sub) (remVal e.wid (e.uA l) (e.svA l) (e.svB l)) }

/-- R142: the carry predicate is read unless NC, and written. -/
def iaddxFn (e : Env) (l : Nat) : Out :=
  let cin := if bit e.sub 3 then 0 else b2n ((e.lane l).p.getLsbD e.f.c.toNat)
  let a : Int := e.uA32 e.z l
  let b : Int := e.uB32 e.z l
  let x : Int := if bit e.sub 2 then a - b - cin else a + b + cin
  { writes := e.wrD l 1 (wrap 32 x) ++ [{ dest := .p e.f.c.toNat, val := b2n (decide (x < 0 ∨ 2 ^ 32 ≤ x)) }] }

/-- R143: the shift count is the low byte of the 32-bit b; Z extends no select of b, so a nibble counts as it stands. -/
def shiftN (e : Env) (l : Nat) : Nat := selScalar true (modSel e.f.modb) (e.b32 l) % 256
def shlFn (e : Env) (l : Nat) : Out := let n := shiftN e l
  { writes := e.wrD l (subSpan e.sub) (if n < e.wid then e.uA l * 2 ^ n % 2 ^ e.wid else 0) }
def shrFn (e : Env) (l : Nat) : Out := let n := shiftN e l
  { writes := e.wrD l (subSpan e.sub) (if n < e.wid then e.uA l / 2 ^ n else 0) }
def sarFn (e : Env) (l : Nat) : Out := let n := shiftN e l
  { writes := e.wrD l (subSpan e.sub) (wrap e.wid (sgn e.wid (e.uA l) / 2 ^ min n (e.wid - 1))) }

/-- R144. -/
def rotl (a n : Nat) : Nat := (a * 2 ^ n ||| a / 2 ^ (32 - n)) % 2 ^ 32
def rotFn (e : Env) (l : Nat) : Out :=
  let n := e.uB32 e.z l % 32
  e.wr32 l (rotl (e.uA32 e.z l) (if subOp e.sub = 1 then (32 - n) % 32 else n))
def fshfFn (e : Env) (l : Nat) : Out :=
  let n := e.uC32 e.z l % 32
  let x := e.uB32 e.z l * 2 ^ 32 + e.uA32 e.z l
  e.wr32 l (if subOp e.sub = 1 then x / 2 ^ n else x * 2 ^ n % 2 ^ 64 / 2 ^ 32)

/-- R145. -/
def bitwFn (op : Nat → Nat → Nat) (e : Env) (l : Nat) : Out :=
  { writes := e.wrD l (subSpan e.sub) (op (e.uA l) (e.uB l) % 2 ^ e.wid) }
def andFn : Env → Nat → Out := bitwFn (· &&& ·)
def orFn : Env → Nat → Out := bitwFn (· ||| ·)
def xorFn : Env → Nat → Out := bitwFn (· ^^^ ·)
def andnFn (e : Env) (l : Nat) : Out := bitwFn (fun a b => a &&& (2 ^ e.wid - 1 - b)) e l

/-- R146: element selects zero-extend; f0 in SUB, f1 in CTL. -/
def bfselFn (e : Env) (l : Nat) : Out :=
  let a := e.uA32 true l
  let b := e.uB32 true l
  let c := e.uC32 true l
  e.wr32 l (forN 32 (fun i d =>
    let x := b2n (bit a i) + 2 * b2n (bit b i)
    let t := if bit c i then e.f.ctl.toNat else e.sub
    d + b2n (bit t x) * 2 ^ i) 0)

/-- R147. -/
def clzVal (w u : Nat) : Nat := if u = 0 then w else w - 1 - u.log2
def ctzVal (w u : Nat) : Nat := ((List.range w).find? (fun i => bit u i)).getD w
def brevVal (w u : Nat) : Nat := forN w (fun i d => d + b2n (bit u i) * 2 ^ (w - 1 - i)) 0
def popcFn (e : Env) (l : Nat) : Out := e.wr32 l (popcount e.wid (e.uA l))
def clzFn (e : Env) (l : Nat) : Out := e.wr32 l (clzVal e.wid (e.uA l))
def ctzFn (e : Env) (l : Nat) : Out := e.wr32 l (ctzVal e.wid (e.uA l))
def brevFn (e : Env) (l : Nat) : Out := { writes := e.wrD l (subSpan e.sub) (brevVal e.wid (e.uA l)) }

/-- R148: the field's place and length in b. -/
def fieldLen (b : Nat) : Nat := let pos := b % 256; let len := bits b 15 8
  if 32 ≤ pos ∨ len = 0 then 0 else min len (32 - pos)
def bfxVal (z : Bool) (a b : Nat) : Nat :=
  let n := fieldLen b
  if n = 0 then 0 else let f := a / 2 ^ (b % 256) % 2 ^ n; if z then f else sext n 32 f
def bfiVal (a b c : Nat) : Nat :=
  let n := fieldLen b
  if n = 0 then c else
  let m := (2 ^ n - 1) * 2 ^ (b % 256)
  (c &&& (2 ^ 32 - 1 - m)) ||| (a % 2 ^ n * 2 ^ (b % 256))
def bfxFn (e : Env) (l : Nat) : Out := e.wr32 l (bfxVal e.z (e.uA32 e.z l) (e.uB32 e.z l))
def bfiFn (e : Env) (l : Nat) : Out := e.wr32 l (bfiVal (e.uA32 e.z l) (e.uB32 e.z l) (e.uC32 e.z l))

/-- R149, R150. -/
def movFn (e : Env) (l : Nat) : Out := { writes := e.wrD l (subSpan e.sub) (e.uB l) }
def moviFn (e : Env) (l : Nat) : Out := { writes := e.wrD l 2 e.f.lit.toNat }
def leaFn (e : Env) (l : Nat) : Out :=
  { writes := e.wrD l 2 (wrap 64 ((e.a64 l : Int) + sv e.z 32 (e.uB32 e.z l) * 2 ^ subOp e.sub)) }

/-- Packed integers (R151): n elements of width w. -/
def elemOf (w i x : Nat) : Nat := x / 2 ^ (w * i) % 2 ^ w
def packed (n w : Nat) (f : Nat → Nat) : Nat := forN n (fun i d => d + f i % 2 ^ w * 2 ^ (w * i)) 0
def paddVal (n w : Nat) (sat z sub : Bool) (a b : Nat) : Nat :=
  packed n w (fun i => let x := sv z w (elemOf w i a); let y := sv z w (elemOf w i b)
    wrVal sat z w (if sub then x - y else x + y))
def pminmax (z isMax : Bool) (a b : Nat) : Nat :=
  packed 4 8 (fun i => let x := sv z 8 (elemOf 8 i a); let y := sv z 8 (elemOf 8 i b)
    wrap 8 (if isMax then max x y else min x y))
def Env.hA (e : Env) (l : Nat) : Nat := selHalves (modSel e.f.moda) (e.a32 l)
def Env.hB (e : Env) (l : Nat) : Nat := selHalves (modSel e.f.modb) (e.b32 l)
def Env.hC (e : Env) (l : Nat) : Nat := selHalves (modSel e.f.modc) (e.c32 l)
def Env.yA (e : Env) (l : Nat) : Nat := selBytes (modSel e.f.moda) (e.a32 l)
def Env.yB (e : Env) (l : Nat) : Nat := selBytes (modSel e.f.modb) (e.b32 l)
def Env.yC (e : Env) (l : Nat) : Nat := selBytes (modSel e.f.modc) (e.c32 l)
def iadd2Fn (e : Env) (l : Nat) : Out := e.wr32 l (paddVal 2 16 e.f.sat e.z (decide (subOp e.sub = 1)) (e.hA l) (e.hB l))
def iadd4Fn (e : Env) (l : Nat) : Out := e.wr32 l (paddVal 4 8 e.f.sat e.z (decide (subOp e.sub = 1)) (e.yA l) (e.yB l))
def vmin4Fn (e : Env) (l : Nat) : Out := e.wr32 l (pminmax e.z false (e.yA l) (e.yB l))
def vmax4Fn (e : Env) (l : Nat) : Out := e.wr32 l (pminmax e.z true (e.yA l) (e.yB l))

/-- R152: SUB[0] and SUB[2] give the signedness of the elements of a and b of IDP4; c is a whole 32-bit accumulator
unless a byte of it is selected. -/
def sum4 (f : Nat → Int) : Int := f 0 + f 1 + f 2 + f 3
def idp4Val (sat za zb : Bool) (a b c : Nat) : Nat :=
  wrVal sat false 32 (sgn 32 c + sum4 (fun i => sv za 8 (elemOf 8 i a) * sv zb 8 (elemOf 8 i b)))
def isadVal (z : Bool) (a b c : Nat) : Nat :=
  wrap 32 ((c : Int) + sum4 (fun i => ((sv z 8 (elemOf 8 i a) - sv z 8 (elemOf 8 i b)).natAbs : Int)))
def idp4Fn (e : Env) (l : Nat) : Out := e.wr32 l (idp4Val e.f.sat (bit e.sub 0) (bit e.sub 2) (e.yA l) (e.yB l) (e.yC l))
def isadFn (e : Env) (l : Nat) : Out := e.wr32 l (isadVal e.z (e.yA l) (e.yB l) (e.yC l))

/-- IADD: the sum, by `wr` (R140) (R60, B form). -/
def execIadd (g : BFields) (s : State) : Host.Outcome State Fault Refusal := .next (issueB s 0x20 g (fixed iaddFn))

/-- IADD_EXT: the sum, by `wr` (R140). -/
def execIaddExt (f : Fields) (s : State) : Host.Outcome State Fault Refusal := .next (issue s 0x20 f (fixed iaddFn))

/-- ISUB: the difference, by `wr` (R140) (R60, B form). -/
def execIsub (g : BFields) (s : State) : Host.Outcome State Fault Refusal := .next (issueB s 0x21 g (fixed isubFn))

/-- ISUB_EXT: the difference, by `wr` (R140). -/
def execIsubExt (f : Fields) (s : State) : Host.Outcome State Fault Refusal := .next (issue s 0x21 f (fixed isubFn))

/-- IADDX: sum or difference with a carry predicate (R142). -/
def execIaddx (f : Fields) (s : State) : Host.Outcome State Fault Refusal := .next (issue s 0x22 f (fixed iaddxFn))

/-- IMUL: low 32 bits of the product (R140) (R60, B form). -/
def execImul (g : BFields) (s : State) : Host.Outcome State Fault Refusal := .next (issueB s 0x23 g (fixed imulFn))

/-- IMUL_EXT: low 32 bits of the product (R140). -/
def execImulExt (f : Fields) (s : State) : Host.Outcome State Fault Refusal := .next (issue s 0x23 f (fixed imulFn))

/-- IMULH: high 32 bits of the product (R140). -/
def execImulh (f : Fields) (s : State) : Host.Outcome State Fault Refusal := .next (issue s 0x24 f (fixed imulhFn))

/-- IMAD: product and sum (R140). -/
def execImad (f : Fields) (s : State) : Host.Outcome State Fault Refusal := .next (issue s 0x25 f (fixed imadFn))

/-- IMADW: product and 64-bit sum (R140). -/
def execImadw (f : Fields) (s : State) : Host.Outcome State Fault Refusal := .next (issue s 0x26 f (fixed imadwFn))

/-- IDIV: truncated quotient (R141). -/
def execIdiv (f : Fields) (s : State) : Host.Outcome State Fault Refusal := .next (issue s 0x27 f (variable_ idivFn))

/-- IREM: remainder (R141). -/
def execIrem (f : Fields) (s : State) : Host.Outcome State Fault Refusal := .next (issue s 0x28 f (variable_ iremFn))

/-- IMIN: minimum (R140). -/
def execImin (f : Fields) (s : State) : Host.Outcome State Fault Refusal := .next (issue s 0x29 f (fixed iminFn))

/-- IMAX: maximum (R140). -/
def execImax (f : Fields) (s : State) : Host.Outcome State Fault Refusal := .next (issue s 0x2A f (fixed imaxFn))

/-- IABS: absolute value (R140). -/
def execIabs (f : Fields) (s : State) : Host.Outcome State Fault Refusal := .next (issue s 0x2B f (fixed iabsFn))

/-- INEG: negation (R140). -/
def execIneg (f : Fields) (s : State) : Host.Outcome State Fault Refusal := .next (issue s 0x2C f (fixed inegFn))

/-- SHL: left shift (R143) (R60, B form). -/
def execShl (g : BFields) (s : State) : Host.Outcome State Fault Refusal := .next (issueB s 0x2D g (fixed shlFn))

/-- SHL_EXT: left shift (R143). -/
def execShlExt (f : Fields) (s : State) : Host.Outcome State Fault Refusal := .next (issue s 0x2D f (fixed shlFn))

/-- SHR: logical right shift (R143) (R60, B form). -/
def execShr (g : BFields) (s : State) : Host.Outcome State Fault Refusal := .next (issueB s 0x2E g (fixed shrFn))

/-- SHR_EXT: logical right shift (R143). -/
def execShrExt (f : Fields) (s : State) : Host.Outcome State Fault Refusal := .next (issue s 0x2E f (fixed shrFn))

/-- SAR: arithmetic right shift (R143) (R60, B form). -/
def execSar (g : BFields) (s : State) : Host.Outcome State Fault Refusal := .next (issueB s 0x2F g (fixed sarFn))

/-- SAR_EXT: arithmetic right shift (R143). -/
def execSarExt (f : Fields) (s : State) : Host.Outcome State Fault Refusal := .next (issue s 0x2F f (fixed sarFn))

/-- ROT: rotation (R144). -/
def execRot (f : Fields) (s : State) : Host.Outcome State Fault Refusal := .next (issue s 0x30 f (fixed rotFn))

/-- FSHF: funnel shift (R144). -/
def execFshf (f : Fields) (s : State) : Host.Outcome State Fault Refusal := .next (issue s 0x31 f (fixed fshfFn))

/-- AND: bitwise AND (R145) (R60, B form). -/
def execAnd (g : BFields) (s : State) : Host.Outcome State Fault Refusal := .next (issueB s 0x32 g (fixed andFn))

/-- AND_EXT: bitwise AND (R145). -/
def execAndExt (f : Fields) (s : State) : Host.Outcome State Fault Refusal := .next (issue s 0x32 f (fixed andFn))

/-- OR: bitwise OR (R145) (R60, B form). -/
def execOr (g : BFields) (s : State) : Host.Outcome State Fault Refusal := .next (issueB s 0x33 g (fixed orFn))

/-- OR_EXT: bitwise OR (R145). -/
def execOrExt (f : Fields) (s : State) : Host.Outcome State Fault Refusal := .next (issue s 0x33 f (fixed orFn))

/-- XOR: bitwise XOR (R145) (R60, B form). -/
def execXor (g : BFields) (s : State) : Host.Outcome State Fault Refusal := .next (issueB s 0x34 g (fixed xorFn))

/-- XOR_EXT: bitwise XOR (R145). -/
def execXorExt (f : Fields) (s : State) : Host.Outcome State Fault Refusal := .next (issue s 0x34 f (fixed xorFn))

/-- ANDN: a AND NOT b (R145) (R60, B form). -/
def execAndn (g : BFields) (s : State) : Host.Outcome State Fault Refusal := .next (issueB s 0x35 g (fixed andnFn))

/-- ANDN_EXT: a AND NOT b (R145). -/
def execAndnExt (f : Fields) (s : State) : Host.Outcome State Fault Refusal := .next (issue s 0x35 f (fixed andnFn))

/-- BFSEL: a bitwise function chosen by c (R146). -/
def execBfsel (f : Fields) (s : State) : Host.Outcome State Fault Refusal := .next (issue s 0x36 f (fixed bfselFn))

/-- POPC: count of 1 bits (R147). -/
def execPopc (f : Fields) (s : State) : Host.Outcome State Fault Refusal := .next (issue s 0x37 f (fixed popcFn))

/-- CLZ: leading zeros (R147). -/
def execClz (f : Fields) (s : State) : Host.Outcome State Fault Refusal := .next (issue s 0x38 f (fixed clzFn))

/-- CTZ: trailing zeros (R147). -/
def execCtz (f : Fields) (s : State) : Host.Outcome State Fault Refusal := .next (issue s 0x39 f (fixed ctzFn))

/-- BREV: bits reversed (R147). -/
def execBrev (f : Fields) (s : State) : Host.Outcome State Fault Refusal := .next (issue s 0x3A f (fixed brevFn))

/-- BFX: field extracted (R148). -/
def execBfx (f : Fields) (s : State) : Host.Outcome State Fault Refusal := .next (issue s 0x3B f (fixed bfxFn))

/-- BFI: field inserted (R148). -/
def execBfi (f : Fields) (s : State) : Host.Outcome State Fault Refusal := .next (issue s 0x3C f (fixed bfiFn))

/-- LEA: base and scaled index (R150). -/
def execLea (f : Fields) (s : State) : Host.Outcome State Fault Refusal := .next (issue s 0x3D f (fixed leaFn))

/-- MOV: copy of source B (R149) (R60, B form). -/
def execMov (g : BFields) (s : State) : Host.Outcome State Fault Refusal := .next (issueB s 0x3E g (fixed movFn))

/-- MOV_EXT: copy of source B (R149). -/
def execMovExt (f : Fields) (s : State) : Host.Outcome State Fault Refusal := .next (issue s 0x3E f (fixed movFn))

/-- MOVI: the 64-bit literal (R149). -/
def execMovi (f : Fields) (s : State) : Host.Outcome State Fault Refusal := .next (issue s 0x3F f (fixed moviFn))

/-- IADD2: packed 16-bit add (R151). -/
def execIadd2 (f : Fields) (s : State) : Host.Outcome State Fault Refusal := .next (issue s 0x40 f (fixed iadd2Fn))

/-- IADD4: packed 8-bit add (R151). -/
def execIadd4 (f : Fields) (s : State) : Host.Outcome State Fault Refusal := .next (issue s 0x41 f (fixed iadd4Fn))

/-- VMIN4: packed minimum (R151). -/
def execVmin4 (f : Fields) (s : State) : Host.Outcome State Fault Refusal := .next (issue s 0x42 f (fixed vmin4Fn))

/-- VMAX4: packed maximum (R151). -/
def execVmax4 (f : Fields) (s : State) : Host.Outcome State Fault Refusal := .next (issue s 0x43 f (fixed vmax4Fn))

/-- IDP4: dot product (R152). -/
def execIdp4 (f : Fields) (s : State) : Host.Outcome State Fault Refusal := .next (issue s 0x44 f (fixed idp4Fn))

/-- ISAD: sum of absolute differences (R152). -/
def execIsad (f : Fields) (s : State) : Host.Outcome State Fault Refusal := .next (issue s 0x45 f (fixed isadFn))

end Sys2Proof.Machine
end

