-- ==== Sys2Proof/Machine/Predicate.lean ====
section
/-! DEFINITION. Predicates, comparisons and selection (R134 to R139). -/

namespace Sys2Proof.Machine

/-- The integer relations (R135). -/
def icmpVal (op : Nat) (a b : Int) : Bool :=
  match op with
  | 0 => decide (a = b) | 1 => decide (a ≠ b) | 2 => decide (a < b) | 3 => decide (a ≤ b) | 4 => decide (b < a) | _ => decide (b ≤ a)
def icmpFn (e : Env) (l : Nat) : Out := { writes := wrP e.f.d (icmpVal (subOp e.sub) (e.svA l) (e.svB l)) }

/-- The format codes of FCMP, FCLASS, F2I and I2F. -/
def fmtOf (n : Nat) : Fmt := if n = 0 then .fp32 else if n = 1 then .fp16 else .bf16
/-- A source in a 32- or 16-bit format, with its select (R136); `.h1` reads bits [31:16] of a literal too (log 86). -/
def srcFmt (fmt sel v : Nat) : Nat := if fmt = 0 then v else selHalf sel v

/-- FCMP's result and flags (R136). -/
def fcmpVal (cond : Nat) (a b : Val) : Bool × BitVec 5 :=
  let isNan := fun v : Val => match v with
    | .nan _ => true
    | _ => false
  if isNan a || isNan b then
    let inv := a.snan || b.snan || (2 ≤ cond && cond ≤ 5)
    (cond == 1 || cond == 6, if inv then flInvalid else 0#5)
  else
    let c := Val.cmp a b
    (match cond with
      | 0 => c == .eq | 1 => c != .eq | 2 => c == .lt | 3 => c != .gt | 4 => c == .gt | 5 => c != .lt | 6 => false | _ => true, 0#5)
def fcmpFn (e : Env) (l : Nat) : Out :=
  let fmt := e.sub % 4
  let a := srcFmt fmt (modSel e.f.moda) (e.a32 l)
  let b := srcFmt fmt (modSel e.f.modb) (e.b32 l)
  let (r, fl) := fcmpVal (e.sub / 4) ((fmtOf fmt).val a) ((fmtOf fmt).val b)
  { writes := wrP e.f.d r, flags := fl }

/-- R137. -/
def psetFn (e : Env) (l : Nat) : Out :=
  { writes := wrP e.f.d (match e.sub with
      | 0 => e.predSrc l e.f.a && e.predSrc l e.f.b
      | 1 => e.predSrc l e.f.a || e.predSrc l e.f.b
      | 2 => e.predSrc l e.f.a != e.predSrc l e.f.b
      | _ => bit (e.uA32 false l) (e.uB32 false l % 32)) }

/-- R138: a predicate, 32 predicates into a register, or a register under a mask into 32 predicates. The two sources of
the last form take element selects as an integer instruction's do, extended by sign (log 85). -/
def pmovFn (e : Env) (l : Nat) : Out :=
  match e.sub with
  | 0 => { writes := wrP e.f.d (e.predSrc l e.f.a) }
  | 1 => e.wr32 l (bits (e.lane l).p.toNat (e.f.a.toNat + 31) e.f.a.toNat)
  | _ =>
    let a := e.uA32 false l
    let b := e.uB32 false l
    { writes := ((List.range 32).filter (fun i => bit b i)).map (fun i => { dest := .p (e.f.d.toNat + i), val := b2n (bit a i) }) }

/-- R139. -/
def selFn (e : Env) (l : Nat) : Out :=
  { writes := e.wrD l (subSpan e.sub) (if e.predSrc l e.f.c then e.uA l else e.uB l) }

/-- ICMP: integer comparison into a predicate (R135). -/
def execIcmp (f : Fields) (s : State) : Host.Outcome State Fault Refusal := .next (issue s 0x50 f (fixed icmpFn))

/-- FCMP: floating-point comparison into a predicate (R136). -/
def execFcmp (f : Fields) (s : State) : Host.Outcome State Fault Refusal := .next (issue s 0x51 f (fixed fcmpFn))

/-- PSET: predicates combined, or a bit tested (R137). -/
def execPset (f : Fields) (s : State) : Host.Outcome State Fault Refusal := .next (issue s 0x52 f (fixed psetFn))

/-- PMOV: predicates moved (R138). -/
def execPmov (f : Fields) (s : State) : Host.Outcome State Fault Refusal := .next (issue s 0x53 f (fixed pmovFn))

/-- SEL: one of two sources by a predicate (R139). -/
def execSel (f : Fields) (s : State) : Host.Outcome State Fault Refusal := .next (issue s 0x54 f (fixed selFn))

end Sys2Proof.Machine
end

