-- ==== Sys2Proof/Machine/Special.lean ====
section
/-! DEFINITION. The special functions (R161 to R163): each exact value is held to far more bits than FP32 rounding can
need, with the sticky mark for the bits below (log 10), so that R96 rounds it correctly. -/

namespace Sys2Proof.Machine

/-- Integer square root by bits: the greatest r with r × r ≤ n, given a bound on its bits. -/
def isqrtGo (n : Nat) : Nat → Nat → Nat
  | 0, r => r
  | i + 1, r => let c := r + 2 ^ i; isqrtGo n i (if c * c ≤ n then c else r)

/-- floor(√n). -/
def isqrt (n : Nat) : Nat := isqrtGo n (n.log2 / 2 + 1) 0

/-- √ of a positive real, to at least 64 bits. -/
def Rl.sqrt (r : Rl) : Rl :=
  let par := if r.exp % 2 = 0 then 0 else 1
  let n := r.mant <<< (128 + par)
  let q := isqrt n
  ⟨false, q, (r.exp - 128 - par) / 2, decide (q * q ≠ n)⟩

/-- 1 / √ of a positive real, to at least 64 bits. -/
def Rl.rsqrt (r : Rl) : Rl :=
  let par : Nat := if r.exp % 2 = 0 then 0 else 1
  let n := 160 + 2 * r.mant.log2 + par
  let d := 2 ^ n / r.mant
  let q := isqrt d
  ⟨false, q, -(((n : Int) + r.exp) / 2), decide (q * q * r.mant ≠ 2 ^ n)⟩

/-- The working precision in bits below the point, and the bits dropped from a result before its sticky mark. -/
def fxP : Nat := 560
def fxGuard : Nat := 24

/-- A positive fixed-point value with fxP bits below the point as a real with the sticky mark. -/
def ofFx (neg : Bool) (x : Nat) : Rl := ⟨neg, x >>> fxGuard, (fxGuard : Int) - fxP, true⟩

/-- A positive real in fixed point, truncated. -/
def toFx (r : Rl) : Nat :=
  let k := r.exp + fxP
  if k ≥ 0 then r.mant <<< k.toNat else r.mant >>> (-k).toNat

/-- Σ t(k) for terms where the next term is `next k t`, k from `k` on, `fuel` terms. -/
def series (next : Nat → Int → Int) : Nat → Nat → Int → Int → Int
  | 0, _, _, acc => acc
  | fuel + 1, k, t, acc => series next fuel (k + 1) (next k t) (acc + t)

/-- exp(y) − 1 in fixed point, for 0 ≤ y < 4. -/
def expm1Fx (y : Nat) : Nat :=
  (series (fun k t => t * y / (2 ^ fxP * ((k : Int) + 1))) 200 1 y 0).toNat

/-- Σ z^(2k+1) / (2k+1) in fixed point (atanh z), for 0 ≤ z ≤ 1/3. -/
def atanhGo (z2 : Nat) : Nat → Nat → Nat → Nat → Nat
  | 0, _, _, acc => acc
  | fuel + 1, k, t, acc => atanhGo z2 fuel (k + 1) ((t * z2) >>> fxP) (acc + t / (2 * k + 1))

def atanhFx (z : Nat) : Nat := atanhGo ((z * z) >>> fxP) 190 0 z 0

/-- ln 2 in fixed point. -/
def ln2Fx : Nat := 2 * atanhFx (2 ^ fxP / 3)

/-- arctan(1/k) in fixed point. -/
def atanInvFx (k : Nat) : Nat :=
  let go := fun (acc : Int × Int) (i : Nat) =>
    let (t, s) := acc
    (t / ((k : Int) * k), s + (if i % 2 = 0 then t / (2 * i + 1) else -(t / (2 * i + 1))))
  ((List.range 140).foldl go (((2 ^ fxP / k : Nat) : Int), 0)).2.toNat

/-- π in fixed point, by Machin's formula. -/
def piFx : Nat := 16 * atanInvFx 5 - 4 * atanInvFx 239

/-- sin and cos of 0 ≤ y < 2 in fixed point. -/
def sinFx (y : Nat) : Nat :=
  (series (fun k t => -(t * y * y / (2 ^ (2 * fxP) * ((2 * (k : Int)) * (2 * k + 1))))) 75 1 y 0).toNat
def cosFx (y : Nat) : Nat :=
  (series (fun k t => -(t * y * y / (2 ^ (2 * fxP) * ((2 * (k : Int) - 1) * (2 * k))))) 75 1 (2 ^ fxP) 0).toNat

/-- sin (`cos` false) or cos of a finite non-zero x, its argument reduced by π/2 (R162). -/
def sincos (isCos : Bool) (r : Rl) : Rl :=
  let x := toFx r
  let half := piFx / 2
  let q := x / half
  -- the multiple of π/2 is taken from π to enough further bits for the largest argument
  let y := x % half
  let q := if isCos then q + 1 else q
  let s := q / 2 % 2 = 1
  let v := if q % 2 = 0 then sinFx y else cosFx y
  ofFx (if isCos then s else (s != r.neg)) v

/-- 2^x for a finite x that is not an integer. -/
def exp2Rl (r : Rl) : Rl :=
  if (r.mant.log2 : Int) + r.exp ≥ 9 then
    (if r.neg then ⟨false, 2 ^ 64, -600, true⟩ else ⟨false, 2 ^ 64, 200, true⟩)
  else
    let x := toFx r                                   -- |x|; no bit of an FP32 value lies below
    let one := 2 ^ fxP
    let n : Int := if r.neg then -(((x + one - 1) / one : Nat) : Int) else ((x / one : Nat) : Int)
    let fr := if r.neg then ((n * -1).toNat * one - x) else x % one
    let m := one + expm1Fx (fr * ln2Fx / one)
    let y := ofFx false m
    { y with exp := y.exp + n }

/-- log2 of a positive x that is not a power of two. -/
def log2Rl (r : Rl) : Rl :=
  let l := r.mant.log2
  let e := (l : Int) + r.exp
  let one := 2 ^ fxP
  let m := (r.mant <<< fxP) / 2 ^ l                   -- 1 ≤ m < 2
  let z := ((m - one) <<< fxP) / (m + one)
  let lg := (2 * atanhFx z) * one / ln2Fx
  let v : Int := e * one + lg
  ofFx (decide (v < 0)) v.natAbs

/-- tanh of a finite non-zero x. -/
def tanhRl (r : Rl) : Rl :=
  if (r.mant.log2 : Int) + r.exp ≥ 6 then ⟨r.neg, 2 ^ 100 - 1, -100, true⟩
  else
    let one := 2 ^ fxP
    let y := 2 * toFx r
    let n := y / ln2Fx
    let em := expm1Fx (y - n * ln2Fx)
    let big := (one + em) <<< n                       -- e^y
    let num := big - one
    ofFx r.neg ((num <<< fxP) / (big + one))

/-- A real that is ±2^k, or 0. -/
def Rl.isPow2 (r : Rl) : Bool := decide (r.mant = 2 ^ r.mant.log2)

/-- Whether a real is an integer. -/
def Rl.isInt (r : Rl) : Bool := decide ((r.split 0).2 = .exact)

/-- The special functions of one source (R161). -/
inductive SpecialFn where
  | rcp | rsq | sqrt | exp2 | log2 | sin | cos | tanh
  deriving DecidableEq, Repr, Inhabited

/-- 1 as a value. -/
def Val.one (neg : Bool) : Val := .fin ⟨neg, 1, 0, false⟩

/-- The exact value of a special function and the flags of its special inputs (R163). -/
def specialVal (fn : SpecialFn) (a : Val) : Val × Flags :=
  match a with
  | .nan s => (.nan false, if s then flInvalid else 0#5)
  | .inf s => match fn with
    | .rcp => (.fin ⟨s, 0, 0, false⟩, 0#5)
    | .rsq => if s then (.nan false, flInvalid) else (.fin ⟨false, 0, 0, false⟩, 0#5)
    | .sqrt => if s then (.nan false, flInvalid) else (.inf false, 0#5)
    | .exp2 => if s then (.fin ⟨false, 0, 0, false⟩, 0#5) else (.inf false, 0#5)
    | .log2 => if s then (.nan false, flInvalid) else (.inf false, 0#5)
    | .sin => (.nan false, flInvalid)
    | .cos => (.nan false, flInvalid)
    | .tanh => (Val.one s, 0#5)
  | .fin r =>
    if r.mant = 0 then match fn with
      | .rcp => (.inf r.neg, flDivZero)
      | .rsq => (.inf r.neg, flDivZero)
      | .sqrt => (.fin r, 0#5)
      | .exp2 => (Val.one false, 0#5)
      | .log2 => (.inf true, flDivZero)
      | .sin => (.fin r, 0#5)
      | .cos => (Val.one false, 0#5)
      | .tanh => (.fin r, 0#5)
    else match fn with
      | .rcp => (.fin (Rl.div ⟨false, 1, 0, false⟩ r), 0#5)
      | .rsq => if r.neg then (.nan false, flInvalid) else (.fin r.rsqrt, 0#5)
      | .sqrt => if r.neg then (.nan false, flInvalid) else (.fin r.sqrt, 0#5)
      | .exp2 =>
        if r.isInt then
          let n : Int := (r.split 0).1
          let n := if n > 4096 then 4096 else n
          (.fin ⟨false, 1, if r.neg then -n else n, false⟩, 0#5)
        else (.fin (exp2Rl r), 0#5)
      | .log2 =>
        if r.neg then (.nan false, flInvalid)
        else if r.isPow2 then (Val.ofInt ((r.mant.log2 : Int) + r.exp), 0#5)
        else (.fin (log2Rl r), 0#5)
      | .sin => (.fin (sincos false r), 0#5)
      | .cos => (.fin (sincos true r), 0#5)
      | .tanh => (.fin (tanhRl r), 0#5)

end Sys2Proof.Machine
end

