-- ==== Sys2Proof/Machine/Float.lean ====
section
/-! DEFINITION. Floating point, special functions and conversions (R153 to R167). -/

namespace Sys2Proof.Machine

/-- Steps 4 and 5 of R69 on a w-bit pattern: the sign cleared, then flipped. -/
def signOps (w : Nat) (abs neg : Bool) (x : Nat) : Nat :=
  let y := if abs then x % 2 ^ (w - 1) else x % 2 ^ w
  if neg then y ^^^ 2 ^ (w - 1) else y
def Env.ctlBit (e : Env) (i : Nat) : Bool := e.f.ctl.getLsbD i
def Env.rnd (e : Env) : Rnd := Rnd.ofField e.f.rnd
/-- FP32 sources with the controls of R71. -/
def Env.fA (e : Env) (l : Nat) : Nat := signOps 32 (e.ctlBit 3) (e.ctlBit 0) (e.a32 l)
def Env.fB (e : Env) (l : Nat) : Nat := signOps 32 (e.ctlBit 4) (e.ctlBit 1) (e.b32 l)
def Env.fC (e : Env) (l : Nat) : Nat := signOps 32 false (e.ctlBit 2) (e.c32 l)
def f32 (x : Nat) : Val := Fmt.fp32.val x
/-- A 32-bit FP result with its flags. -/
def Env.wrF (e : Env) (l : Nat) (r : Nat × BitVec 5) : Out := { writes := e.wrD l 1 r.1, flags := r.2 }
def Env.roundF (e : Env) (v : Val × Flags) : Nat × Flags := roundOp .fp32 e.rnd e.f.sat v

/-- R156. -/
def faddFn (e : Env) (l : Nat) : Out := e.wrF l (e.roundF (Val.add e.rnd (f32 (e.fA l)) (f32 (e.fB l))))
def fsubFn (e : Env) (l : Nat) : Out := e.wrF l (e.roundF (Val.add e.rnd (f32 (e.fA l)) (f32 (e.fB l)).negate))
def fmulFn (e : Env) (l : Nat) : Out := e.wrF l (e.roundF (Val.mul (f32 (e.fA l)) (f32 (e.fB l))))
def ffmaFn (e : Env) (l : Nat) : Out := e.wrF l (e.roundF (Val.fma e.rnd (f32 (e.fA l)) (f32 (e.fB l)) (f32 (e.fC l))))
/-- A value times 2^n. -/
def Val.scale (v : Val) (n : Int) : Val :=
  match v with
  | .fin r => .fin { r with exp := r.exp + n }
  | x => x
def fscaleFn (e : Env) (l : Nat) : Out := e.wrF l (e.roundF ((f32 (e.fA l)).scale (sgn 32 (e.b32 l)), 0#5))
/-- R157. -/
def fminFn (e : Env) (l : Nat) : Out := e.wrF l (fminmax .fp32 false (e.fA l) (e.fB l))
def fmaxFn (e : Env) (l : Nat) : Out := e.wrF l (fminmax .fp32 true (e.fA l) (e.fB l))
/-- R158. -/
def frndVal (mode : Rnd) (x : Nat) : Nat × Flags :=
  match f32 x with
  | .nan s => (Fmt.fp32.nanEnc, if s then flInvalid else 0#5)
  | .inf _ => (x, 0#5)
  | .fin r =>
    if r.mant = 0 then (x, 0#5) else
    let (n0, fr) := r.split 0
    ((round .fp32 .rne false (.fin ⟨r.neg, chooseInt mode r.neg n0 fr, 0, false⟩)).1, 0#5)
def frndFn (e : Env) (l : Nat) : Out := e.wrF l (frndVal e.rnd (e.fA l))
/-- R159. -/
def fclassVal (f : Fmt) (x : Nat) : Nat :=
  let s := bit x (f.width - 1)
  match f.val x with
  | .nan true => 2 ^ 8
  | .nan false => 2 ^ 9
  | .inf n => if n then 1 else 2 ^ 7
  | .fin r => if r.mant = 0 then (if s then 2 ^ 3 else 2 ^ 4)
    else if r.mant < 2 ^ f.frac then (if s then 2 ^ 2 else 2 ^ 5) else (if s then 2 else 2 ^ 6)
def fclassFn (e : Env) (l : Nat) : Out :=
  let fmt := e.sub % 4
  e.wr32 l (fclassVal (fmtOf fmt) (srcFmt fmt (modSel e.f.moda) (e.a32 l)))

/-- Packed 16-bit (R160): both elements, their flags joined. -/
def halves (f : Nat → Nat × Flags) : Nat × Flags := ((f 0).1 + (f 1).1 * 65536, (f 0).2 ||| (f 1).2)
def Env.hFmt (e : Env) : Fmt := if bit e.sub 0 then .bf16 else .fp16
def Env.eA (e : Env) (l i : Nat) : Nat := signOps 16 (e.ctlBit 3) (e.ctlBit 0) (elemOf 16 i (e.hA l))
def Env.eB (e : Env) (l i : Nat) : Nat := signOps 16 (e.ctlBit 4) (e.ctlBit 1) (elemOf 16 i (e.hB l))
def Env.eC (e : Env) (l i : Nat) : Nat := signOps 16 false (e.ctlBit 2) (elemOf 16 i (e.hC l))
def Env.round2 (e : Env) (l : Nat) (v : Nat → Val × Flags) : Out :=
  e.wrF l (halves (fun i => roundOp e.hFmt e.rnd e.f.sat (v i)))
def hadd2Fn (e : Env) (l : Nat) : Out := e.round2 l (fun i => Val.add e.rnd (e.hFmt.val (e.eA l i)) (e.hFmt.val (e.eB l i)))
def hmul2Fn (e : Env) (l : Nat) : Out := e.round2 l (fun i => Val.mul (e.hFmt.val (e.eA l i)) (e.hFmt.val (e.eB l i)))
def hfma2Fn (e : Env) (l : Nat) : Out :=
  e.round2 l (fun i => Val.fma e.rnd (e.hFmt.val (e.eA l i)) (e.hFmt.val (e.eB l i)) (e.hFmt.val (e.eC l i)))
def hmin2Fn (e : Env) (l : Nat) : Out := e.wrF l (halves (fun i => fminmax e.hFmt false (e.eA l i) (e.eB l i)))
def hmax2Fn (e : Env) (l : Nat) : Out := e.wrF l (halves (fun i => fminmax e.hFmt true (e.eA l i) (e.eB l i)))

/-- Special functions (R161 to R163): the exact value, rounded once. -/
def specFn (sp : SpecialFn) (e : Env) (l : Nat) : Out := e.wrF l (e.roundF (specialVal sp (f32 (e.fA l))))
def fdivFn (e : Env) (l : Nat) : Out := e.wrF l (e.roundF (Val.div (f32 (e.fA l)) (f32 (e.b32 l))))

/-- The narrow format of FCVT and CVTPK (R164, R167). -/
def narrow (n : Nat) : Fmt := match n with
  | 1 => .fp16 | 2 => .bf16 | 3 => .e4m3 | _ => .e5m2
/-- R164. -/
def fcvtFn (e : Env) (l : Nat) : Out :=
  let f := narrow (e.sub % 8)
  let w := f.width
  let op := signOps (if bit e.sub 3 then 32 else w) (e.ctlBit 3) (e.ctlBit 0)
  if bit e.sub 3 then e.wrF l (round f e.rnd e.f.sat (f32 (op (e.a32 l))))
  else
    let x := if w = 16 then selHalf (modSel e.f.moda) (e.a32 l) else selByte (modSel e.f.moda) (e.a32 l)
    e.wrF l (round .fp32 .rne false (f.val (op x)))
/-- R165. -/
def f2iFn (e : Env) (l : Nat) : Out :=
  let fmt := e.sub / 4
  let f := fmtOf fmt
  let x := signOps f.width (e.ctlBit 3) (e.ctlBit 0) (srcFmt fmt (modSel e.f.moda) (e.a32 l))
  let r := roundInt e.wid (!e.z) e.rnd e.f.sat (f.val x)
  { writes := e.wrD l (subSpan e.sub) r.1, flags := r.2 }
/-- R166. -/
def i2fFn (e : Env) (l : Nat) : Out := e.wrF l (round (fmtOf (e.sub / 4)) e.rnd e.f.sat (Val.ofInt (e.svA l)))
/-- R167. -/
def cvtpkFn (e : Env) (l : Nat) : Out :=
  let f := narrow (e.sub % 8)
  let ya := round f e.rnd e.f.sat (f32 (signOps 32 (e.ctlBit 3) (e.ctlBit 0) (e.a32 l)))
  let yb := round f e.rnd e.f.sat (f32 (e.b32 l))
  let h := b2n (bit e.sub 3)
  let c := e.c32 l
  let d := if f.width = 16 then ya.1 + yb.1 * 65536
    else if h = 0 then c / 65536 * 65536 + ya.1 + yb.1 * 256 else c % 65536 + ya.1 * 2 ^ 16 + yb.1 * 2 ^ 24
  { writes := e.wrD l 1 d, flags := ya.2 ||| yb.2 }

/-- FADD: FP32 sum rounded once (R156) (R60, B form). -/
def execFadd (g : BFields) (s : State) : Host.Outcome State Fault Refusal := .next (issueB s 0x60 g (fixed faddFn))

/-- FADD_EXT: FP32 sum rounded once (R156). -/
def execFaddExt (f : Fields) (s : State) : Host.Outcome State Fault Refusal := .next (issue s 0x60 f (fixed faddFn))

/-- FSUB: FP32 difference rounded once (R156) (R60, B form). -/
def execFsub (g : BFields) (s : State) : Host.Outcome State Fault Refusal := .next (issueB s 0x61 g (fixed fsubFn))

/-- FSUB_EXT: FP32 difference rounded once (R156). -/
def execFsubExt (f : Fields) (s : State) : Host.Outcome State Fault Refusal := .next (issue s 0x61 f (fixed fsubFn))

/-- FMUL: FP32 product rounded once (R156) (R60, B form). -/
def execFmul (g : BFields) (s : State) : Host.Outcome State Fault Refusal := .next (issueB s 0x62 g (fixed fmulFn))

/-- FMUL_EXT: FP32 product rounded once (R156). -/
def execFmulExt (f : Fields) (s : State) : Host.Outcome State Fault Refusal := .next (issue s 0x62 f (fixed fmulFn))

/-- FFMA: fused multiply-add (R156). -/
def execFfma (f : Fields) (s : State) : Host.Outcome State Fault Refusal := .next (issue s 0x63 f (fixed ffmaFn))

/-- FMIN: lesser operand (R157). -/
def execFmin (f : Fields) (s : State) : Host.Outcome State Fault Refusal := .next (issue s 0x64 f (fixed fminFn))

/-- FMAX: greater operand (R157). -/
def execFmax (f : Fields) (s : State) : Host.Outcome State Fault Refusal := .next (issue s 0x65 f (fixed fmaxFn))

/-- FRND: integral value (R158). -/
def execFrnd (f : Fields) (s : State) : Host.Outcome State Fault Refusal := .next (issue s 0x66 f (fixed frndFn))

/-- FCLASS: one-hot class (R159). -/
def execFclass (f : Fields) (s : State) : Host.Outcome State Fault Refusal := .next (issue s 0x67 f (fixed fclassFn))

/-- FSCALE: scaling by a power of two (R156). -/
def execFscale (f : Fields) (s : State) : Host.Outcome State Fault Refusal := .next (issue s 0x68 f (fixed fscaleFn))

/-- HADD2: packed 16-bit operation (R160). -/
def execHadd2 (f : Fields) (s : State) : Host.Outcome State Fault Refusal := .next (issue s 0x70 f (fixed hadd2Fn))

/-- HMUL2: packed 16-bit operation (R160). -/
def execHmul2 (f : Fields) (s : State) : Host.Outcome State Fault Refusal := .next (issue s 0x71 f (fixed hmul2Fn))

/-- HFMA2: packed 16-bit operation (R160). -/
def execHfma2 (f : Fields) (s : State) : Host.Outcome State Fault Refusal := .next (issue s 0x72 f (fixed hfma2Fn))

/-- HMIN2: packed 16-bit operation (R160). -/
def execHmin2 (f : Fields) (s : State) : Host.Outcome State Fault Refusal := .next (issue s 0x73 f (fixed hmin2Fn))

/-- HMAX2: packed 16-bit operation (R160). -/
def execHmax2 (f : Fields) (s : State) : Host.Outcome State Fault Refusal := .next (issue s 0x74 f (fixed hmax2Fn))

/-- FRCP: correctly rounded (R162, R163), returned later (R78). -/
def execFrcp (f : Fields) (s : State) : Host.Outcome State Fault Refusal := .next (issue s 0x80 f (variable_ (specFn SpecialFn.rcp)))

/-- FRSQ: correctly rounded (R162, R163), returned later (R78). -/
def execFrsq (f : Fields) (s : State) : Host.Outcome State Fault Refusal := .next (issue s 0x81 f (variable_ (specFn SpecialFn.rsq)))

/-- FSQRT: correctly rounded (R162, R163), returned later (R78). -/
def execFsqrt (f : Fields) (s : State) : Host.Outcome State Fault Refusal := .next (issue s 0x82 f (variable_ (specFn SpecialFn.sqrt)))

/-- FDIV: correctly rounded (R162, R163), returned later (R78). -/
def execFdiv (f : Fields) (s : State) : Host.Outcome State Fault Refusal := .next (issue s 0x83 f (variable_ fdivFn))

/-- FEXP2: correctly rounded (R162, R163), returned later (R78). -/
def execFexp2 (f : Fields) (s : State) : Host.Outcome State Fault Refusal := .next (issue s 0x84 f (variable_ (specFn SpecialFn.exp2)))

/-- FLOG2: correctly rounded (R162, R163), returned later (R78). -/
def execFlog2 (f : Fields) (s : State) : Host.Outcome State Fault Refusal := .next (issue s 0x85 f (variable_ (specFn SpecialFn.log2)))

/-- FSIN: correctly rounded (R162, R163), returned later (R78). -/
def execFsin (f : Fields) (s : State) : Host.Outcome State Fault Refusal := .next (issue s 0x86 f (variable_ (specFn SpecialFn.sin)))

/-- FCOS: correctly rounded (R162, R163), returned later (R78). -/
def execFcos (f : Fields) (s : State) : Host.Outcome State Fault Refusal := .next (issue s 0x87 f (variable_ (specFn SpecialFn.cos)))

/-- FTANH: correctly rounded (R162, R163), returned later (R78). -/
def execFtanh (f : Fields) (s : State) : Host.Outcome State Fault Refusal := .next (issue s 0x88 f (variable_ (specFn SpecialFn.tanh)))

/-- FCVT: format conversion (R164). -/
def execFcvt (f : Fields) (s : State) : Host.Outcome State Fault Refusal := .next (issue s 0x90 f (fixed fcvtFn))

/-- F2I: to an integer (R165). -/
def execF2i (f : Fields) (s : State) : Host.Outcome State Fault Refusal := .next (issue s 0x91 f (fixed f2iFn))

/-- I2F: from an integer (R166). -/
def execI2f (f : Fields) (s : State) : Host.Outcome State Fault Refusal := .next (issue s 0x92 f (fixed i2fFn))

/-- CVTPK: two conversions packed (R167). -/
def execCvtpk (f : Fields) (s : State) : Host.Outcome State Fault Refusal := .next (issue s 0x93 f (fixed cvtpkFn))

end Sys2Proof.Machine
end

