-- ==== Sys2Proof/Machine/Lanes.lean ====
section
/-! DEFINITION. Collectives: arrival, issue, stranding (R44 to R48, R168 to R176), and the release of synchronising
canonical points (R308). -/

namespace Sys2Proof.Machine

/-- The convergence register a collective names (R71). -/
def cvOf (f : Fields) : Nat := f.ctl.toNat % 8
/-- The participant set that a first arrival reads (R42, R45, R169). -/
def Group.cvSet (g : Group) (n : Nat) : LaneMask := if n = 0 then g.live else Sparse.get 0#64 g.cv n

/-- The waiting instance of a PC, a depth and a convergence register (R44). -/
def Group.inst? (g : Group) (pc : DWord) (depth cv : Nat) : Option Inst :=
  g.insts.find? (fun i => i.pc == pc && i.depth == depth && cvOf i.f == cv && i.done.isNone)

/-- The common depth of an issue set. -/
def Env.depth (e : Env) : Nat := match e.set with
  | l :: _ => (e.lane l).frames.length
  | [] => 0

/-- An arrival of a lane, its sources read now (R168). -/
def Env.arrival (e : Env) (src : Env → Nat → Nat × Nat × Nat) (l : Nat) : Arrival :=
  let x := src e l
  { lane := l, guard := e.guard l, a := x.1, b := x.2.1, c := x.2.2 }

/-- The participant set that an issue set meets at its instance (R44, R169). -/
def Env.party (e : Env) : LaneMask :=
  match e.grp.inst? e.pc e.depth (cvOf e.f) with
  | some i => if cvOf e.f = 0 then e.grp.live else i.members
  | none => e.grp.cvSet (cvOf e.f)
/-- The lanes of a mask arrive and park; their sync sets gain the participants (R46, R308). -/
def Env.arrive (e : Env) (s : State) (src : Env → Nat → Nat × Nat × Nat) (m : LaneMask) : State :=
  let known := e.grp.inst? e.pc e.depth (cvOf e.f)
  let id := match known with
    | some i => i.id
    | none => s.nextId
  let arr := (maskList e.w m).map (e.arrival src)
  let s1 := match known with
    | some _ => s.updGroup e.grid.tag e.team.idx e.grp.num (fun g =>
        { g with insts := updFirst (fun i => i.id == id) (fun i => { i with arrivals := i.arrivals ++ arr }) g.insts })
    | none => (s.updGroup e.grid.tag e.team.idx e.grp.num (fun g =>
        { g with insts := g.insts ++ [({ id := id, pc := e.pc, depth := e.depth, opc := e.opc, f := e.f, members := e.party, arrivals := arr, done := none } : Inst)] })).fresh
  let mat := isMatrix e.opc
  let s2 := s1.updGroup e.grid.tag e.team.idx e.grp.num (fun g => g.updMask m (fun _ l =>
    { l with st := .atCollective id, sigma := l.sigma ||| e.party, matArr := l.matArr || mat,
             arrived := if mat then id :: l.arrived else l.arrived }))
  s2.stampInsts e.grid.tag e.team.idx e.grp.num
/-- A collective (R46, R47): a lane outside the participant set faults when its guard is true and goes on when it is false,
since a guard-false lane raises no fault (R70, log 22); the others arrive. -/
def collective (src : Env → Nat → Nat × Nat × Nat) (e : Env) : State :=
  match e.perf.filter (fun l => !e.party.getLsbD l) with
  | [] =>
    let away := e.mask &&& ~~~ e.party
    let s1 := if away = 0#64 then e.s else { e with mask := away }.retire e.s noTarget
    if e.mask &&& e.party = 0#64 then s1 else e.arrive s1 src (e.mask &&& e.party)
  | ls => e.fail (ls.map (fun l => (l, cIllegalOperand, 0)))

/-- Sources of the lane collectives. -/
def srcShuf (e : Env) (l : Nat) : Nat × Nat × Nat := (e.a32 l, e.b32 l, 0)
def srcPred (e : Env) (l : Nat) : Nat × Nat × Nat := (b2n (e.predSrc l e.f.a), 0, 0)
def srcA (e : Env) (l : Nat) : Nat × Nat × Nat := (e.a32 l, 0, 0)

/-- The members of an issuing instance in ascending lane index, as they arrived. -/
def Inst.parts (i : Inst) (w : Nat) : List Arrival :=
  (List.range w).filterMap (fun l => i.arrivals.find? (fun a => a.lane == l))
def arrivalAt (ps : List Arrival) (l : Nat) : Option Arrival := ps.find? (fun a => a.lane == l)

/-- LSHUF's value for a member (R170). -/
def shufVal (mode w : Nat) (ps : List Arrival) (m : Arrival) : Nat :=
  let s : Int := match mode with
    | 0 => (m.b : Int)
    | 1 => (m.lane : Int) - m.b
    | 2 => (m.lane : Int) + m.b
    | _ => ((m.lane ^^^ m.b : Nat) : Int)
  if 0 ≤ s ∧ s < w then
    match arrivalAt ps s.toNat with
    | some x => if x.guard then x.a else 0
    | none => m.a
  else m.a

/-- LBCAST's value (R171). -/
def bcastVal (w : Nat) (ps : List Arrival) (m : Arrival) : Nat :=
  match arrivalAt ps (m.b % w) with
  | some x => if x.guard then x.a else 0
  | none => 0

/-- LVOTE (R172). -/
def voteVal (mode : Nat) (ps : List Arrival) : Bool :=
  let vs := (ps.filter (·.guard)).map (fun a => a.a == 1)
  match mode with
  | 0 => vs.all id
  | 1 => vs.any id
  | _ => vs.all id || vs.all not

/-- LBALLOT and LMATCH masks (R172, R175). -/
def ballotVal (ps : List Arrival) : LaneMask := maskOf ((ps.filter (fun a => a.guard && a.a == 1)).map (·.lane))
def matchVal (ps : List Arrival) (m : Arrival) : LaneMask := maskOf ((ps.filter (fun a => a.guard && a.a == m.a)).map (·.lane))

/-- `combine` of R173 with its flags. -/
def combine (op : Nat) (fp : Bool) (mode : Rnd) (sat : Bool) (x y : Nat) : Nat × Flags :=
  if fp then
    match op with
    | 0 => roundOp .fp32 mode sat (Val.add mode (f32 x) (f32 y))
    | 1 => fminmax .fp32 false x y
    | _ => fminmax .fp32 true x y
  else (match op with
    | 0 => (x + y) % 2 ^ 32
    | 1 => if sgn 32 y < sgn 32 x then y else x
    | 2 => if sgn 32 x < sgn 32 y then y else x
    | 3 => min x y
    | 4 => max x y
    | 5 => x &&& y
    | 6 => x ||| y
    | _ => x ^^^ y, 0#5)

/-- The identity of R173. -/
def identity (op : Nat) (fp : Bool) : Nat :=
  if fp then (match op with
    | 0 => 0x80000000 | 1 => 0x7F800000 | _ => 0xFF800000)
  else match op with
    | 1 => 0x7FFFFFFF | 2 => 0x80000000 | 3 => 0xFFFFFFFF | 5 => 0xFFFFFFFF | _ => 0

/-- The fold of R174 over the guard-true members: outputs by lane, the last accumulator, the flags. -/
def foldScan (op : Nat) (fp exc : Bool) (mode : Rnd) (sat : Bool) :
    List Arrival → Option Nat → Flags → List (Nat × Nat) → List (Nat × Nat) × Option Nat × Flags
  | [], acc, fl, outs => (outs, acc, fl)
  | m :: ms, acc, fl, outs =>
    if !m.guard then foldScan op fp exc mode sat ms acc fl outs else
    let v := f32 m.a
    let (x, fl1) := if fp then (match v with
      | .nan sg => (Fmt.fp32.nanEnc, if sg then flInvalid else 0#5)
      | _ => (m.a, 0#5)) else (m.a, 0#5)
    let (acc', fl2) := match acc with
      | none => (x, 0#5)
      | some a => combine op fp mode sat a x
    let out := if exc then acc.getD (identity op fp) else acc'
    foldScan op fp exc mode sat ms (some acc') (fl ||| fl1 ||| fl2) (outs ++ [(m.lane, out)])

/-- Destination writes of a member: registers from field D in its window. -/
def memberWr (g : Group) (f : Fields) (l span val : Nat) : List Wr :=
  match Operand.ofField f.d, g.lanes[l]? with
  | .v n, some x => (List.range span).map (fun k => { dest := .v (x.w0 + n + k), val := val / 2 ^ (32 * k) % 2 ^ 32 })
  | _, _ => []

/-- The register results of a lane collective (R168 to R175): writes by lane, and the flags every guard-true member
receives. -/
def laneResults (w : Nat) (g : Group) (i : Inst) : List (Nat × List Wr) × Flags :=
  let ps := i.parts w
  let act := ps.filter (·.guard)
  let sub := i.f.sub.toNat
  let reg (v : Arrival → Nat) := act.map (fun m => (m.lane, memberWr g i.f m.lane 1 (v m)))
  let msk (v : Arrival → LaneMask) := act.map (fun m => (m.lane, memberWr g i.f m.lane (if w = 64 then 2 else 1) (v m).toNat))
  match i.opc with
  | 0xA0 => (reg (shufVal sub w ps), 0#5)
  | 0xA1 => (reg (bcastVal w ps), 0#5)
  | 0xA2 => (act.map (fun m => (m.lane, wrP i.f.d (voteVal sub ps))), 0#5)
  | 0xA3 => (msk (fun _ => ballotVal ps), 0#5)
  | 0xA6 => (msk (matchVal ps), 0#5)
  | 0xA7 => ([], 0#5)
  | _ =>
    let (outs, acc, fl) := foldScan (sub % 8) (bit sub 3) (bit sub 4) (Rnd.ofField i.f.rnd) i.f.sat ps none 0#5 []
    if i.opc = 0xA4 then (reg (fun _ => acc.getD 0), fl)
    else (outs.map (fun o => (o.1, memberWr g i.f o.1 1 o.2)), fl)

/-- The members of an issued instance return to running past the instruction (R46), their marker applied. -/
def State.releaseInst (s : State) (g : Group) (i : Inst) : State :=
  let m := i.arrivedMask
  let len := Form.len i.f.form
  let irrev := i.opc == 0xA7 && cvOf i.f == i.f.d.toNat
  let guard (l : Nat) := match arrivalAt i.arrivals l with
    | some a => a.guard
    | none => false
  let s1 := s.updGroup g.tag g.team g.num (fun g => { (g.updMask m (fun k l =>
      { (Lane.past { l with st := .running } i.opc i.pc len (guard k) none) with irrev := l.irrev || irrev || (guard k && irrevocable i.opc) }))
      with insts := g.insts.filter (fun x => x.id ≠ i.id) })
  if i.f.sw then
    s1.updGroup g.tag g.team g.num (fun g => g.updMask m (fun k l =>
      if l.st = .running ∧ s1.outstanding g.tag g.team g.num k then { l with st := .draining } else l))
  else s1

/-- The tiles an instance names (R225). -/
def tilesOf (opc : Nat) (f : Fields) : List Nat :=
  if opc = 0xE4 then [f.sub.toNat % 16] else if opc = 0xE6 then [f.d.toNat, f.a.toNat] else [f.d.toNat]
/-- An instance enters the team's matrix order; a commit marker marks the earlier ones of its tile (R313). -/
def Team.enter (t : Team) (m : MatInst) : Team :=
  let ts := tilesOf m.opc m.f
  let hit := fun (x : Nat × List Nat) => x.2.any (fun n => ts.contains n)
  if m.opc = 0xE3 then
    { t with matq := t.matq ++ [m], marked := t.marked ++ (t.past.filter hit).map (·.1), past := t.past.filter (fun x => !hit x) }
  else { t with matq := t.matq ++ [m], past := t.past ++ [(m.id, ts)] }

/-- Whether a complete instance may issue: its group may, and what came before it has (R46, R169, R225): the group's earlier
instances, for a matrix instance those of the team's other groups, and for a CVSET the results of earlier collectives. -/
def State.mayAct (s : State) (g : Group) (i : Inst) (t : Nat) : Bool :=
  let earlier (x : Inst) : Bool := match x.done with
    | some u => decide (u < t)
    | none => false
  s.unstopped g && !(g.insts.any earlier) &&
  !(isMatrix i.opc && (s.teamGroups g.tag g.team).any (fun x => x.insts.any (fun y => isMatrix y.opc && earlier y))) &&
  !(i.opc == 0xA7 && s.results.any (fun r => r.coll && r.tag == g.tag && r.team == g.team && r.grp == g.num))

/-- COLLECTIVE_ISSUE (R46): a complete instance issues, the group's completing arrivals in order (R169); a matrix
instance with a guard-true member enters the matrix order (R223, R225). -/
def collectiveIssueAt (s : State) (tag team num inst : Nat) : State :=
  match s.grid? tag, s.group? tag team num with
  | some gr, some g =>
    match g.insts.find? (fun i => i.id == inst) with
    | none => s
    | some i =>
      match i.done with
      | none => s
      | some t =>
        if !s.mayAct g i t then s else
        let ps := i.parts gr.kcb.width
        if isMatrix i.opc then
          let s1 := if ps.any (·.guard) then
              (s.updTeam tag team (fun tm =>
                tm.enter ({
                  id := i.id, grp := num, pc := i.pc, opc := i.opc, f := i.f, arrivals := ps, stamp := t,
                  after := s.still (ps.flatMap (fun a => (g.lanes.getD a.lane default).after)), canonSince := g.canonSince } : MatInst))).updGroup
                tag team num (fun g => { g with canonSince := false })
            else s
          s1.releaseInst g i
        else
          let (ws, fl) := laneResults gr.kcb.width g i
          let s1 := if i.opc = 0xA7 then
              s.updGroup tag team num (fun g =>
                { g with cv := Sparse.set 0#64 g.cv i.f.d.toNat (maskOf ((ps.filter (fun a => a.guard && a.a == 1)).map (·.lane))) })
            else if ws.isEmpty then s
            else s.addResult
              { id := s.nextId, tag := tag, team := team, grp := num, issue := t, uni := false, low := 0, lanes := maskOf (ws.map (·.1)), pc := i.pc,
                writes := ws, flags := ws.map (fun x => (x.1, fl)), coll := true }
          s1.releaseInst g i
  | _, _ => s

/-- COLLECTIVE_STRANDED (R48): the instances that fault at this boundary. -/
def Group.stranded (g : Group) : List Inst :=
  let wait := g.insts.filter (fun i => i.done.isNone)
  let exited (m : LaneMask) := (m &&& g.live) == 0#64
  let stuck := g.lanes.all (fun l => match l.st with
    | .exited => true
    | .atSync => true
    | .atCollective k => wait.any (fun i => i.id == k)
    | _ => false)
  let held := g.lanes.any (fun l => match l.st with
    | .atCollective _ => true
    | _ => false)
  if stuck && held then wait else wait.filter (fun i => exited (i.set g &&& ~~~ i.arrivedMask))

/-- The lanes of a synchronising point that may be released: the greatest set each of whose sync-set members is in it
or has exited (R308). -/
def syncGo (g : Group) : Nat → LaneMask → LaneMask
  | 0, r => r
  | n + 1, r =>
    syncGo g n (maskOf ((maskList 64 r).filter (fun l => match g.lanes[l]? with
      | some x => (x.sigma &&& g.live &&& ~~~ r) == 0#64
      | none => false)))
def Group.syncReady (g : Group) : LaneMask :=
  syncGo g g.lanes.length (maskOf ((List.range g.lanes.length).filter (fun i => match g.lanes[i]? with
    | some l => decide (l.st = .atSync)
    | none => false)))

def strandedAt (s : State) (tag team num : Nat) : State :=
  match s.group? tag team num with
  | none => s
  | some g =>
    if !s.unstopped g then s else
    let st := if g.syncReady = 0#64 then g.stranded else g.stranded.filter (fun i => (i.set g &&& ~~~ i.arrivedMask &&& g.live) == 0#64)
    if st.isEmpty then s
    else (s.raise tag (st.flatMap (fun i => (maskList 64 i.arrivedMask).map (fun l => faultRec g l cStranded i.pc 0)))).stopGroup tag team num

/-- The released lanes of one address issue the CANON there. -/
def issueCanonAt (s : State) (tag team num : Nat) (mask : LaneMask) (pc : DWord) : State :=
  match s.grid? tag, s.group? tag team num with
  | some gr, some g =>
    let m := mask &&& maskOf ((List.range g.lanes.length).filter (fun i => (g.lanes[i]?.map (·.pc)) == some pc))
    match s.fetch (s.coreOf tag team) gr.proc pc.toNat with
    | .ok (.canon f) _ => issue { s with cur := { tag := tag, team := team, grp := num, mask := m, pc := pc } } 0x0A f canonBody
    | _ => s
  | _, _ => s

/-- SYNC_CANON_RELEASE (R308): at an issue boundary of the group, so not while it is stopped; the lanes whose sync sets
are resolved run again and issue their CANON. -/
def syncReleaseAt (s : State) (tag team num : Nat) : State :=
  match s.group? tag team num with
  | none => s
  | some g =>
    if !s.unstopped g then s else
    let r := g.syncReady
    let pcs := ((maskList 64 r).filterMap (fun i => g.lanes[i]?.map (·.pc))).eraseDups
    pcs.foldl (fun s pc => issueCanonAt s tag team num r pc)
      (s.updGroup tag team num (fun g => g.updMask r (fun _ l => { l with st := .running, sigma := 0#64 })))

/-- COLLECTIVE_ISSUE: a complete instance issues (R46). -/
def execCollectiveIssue (tag team grp inst : Nat) (s : State) : Host.Outcome State Fault Refusal := .next (collectiveIssueAt s tag team grp inst)

/-- COLLECTIVE_STRANDED: the arrived lanes of stranded instances fault (R48). -/
def execCollectiveStranded (tag team grp : Nat) (s : State) : Host.Outcome State Fault Refusal := .next (strandedAt s tag team grp)

/-- SYNC_CANON_RELEASE: parked lanes whose sync sets are resolved run again and issue their CANON (R308). -/
def execSyncCanonRelease (tag team grp : Nat) (s : State) : Host.Outcome State Fault Refusal := .next (syncReleaseAt s tag team grp)

/-- LSHUF: arrival at a shuffle (R170). -/
def execLshuf (f : Fields) (s : State) : Host.Outcome State Fault Refusal := .next (issue s 0xA0 f (collective srcShuf))

/-- LBCAST: arrival at a broadcast (R171). -/
def execLbcast (f : Fields) (s : State) : Host.Outcome State Fault Refusal := .next (issue s 0xA1 f (collective srcShuf))

/-- LVOTE: arrival at a vote (R172). -/
def execLvote (f : Fields) (s : State) : Host.Outcome State Fault Refusal := .next (issue s 0xA2 f (collective srcPred))

/-- LBALLOT: arrival at a ballot (R172). -/
def execLballot (f : Fields) (s : State) : Host.Outcome State Fault Refusal := .next (issue s 0xA3 f (collective srcPred))

/-- LRED: arrival at a reduction (R173, R174). -/
def execLred (f : Fields) (s : State) : Host.Outcome State Fault Refusal := .next (issue s 0xA4 f (collective srcA))

/-- LSCAN: arrival at a scan (R173, R174). -/
def execLscan (f : Fields) (s : State) : Host.Outcome State Fault Refusal := .next (issue s 0xA5 f (collective srcA))

/-- LMATCH: arrival at a match (R175). -/
def execLmatch (f : Fields) (s : State) : Host.Outcome State Fault Refusal := .next (issue s 0xA6 f (collective srcA))

/-- CVSET: arrival at a write of a convergence register (R176). -/
def execCvset (f : Fields) (s : State) : Host.Outcome State Fault Refusal := .next (issue s 0xA7 f (collective srcPred))

end Sys2Proof.Machine
end

