-- ==== Sys2Proof/Machine/System.lean ====
section
/-! DEFINITION. Status registers, kernel parameters and constants, the jig generator and work claims (R177 to R183). -/

namespace Sys2Proof.Machine

/-- The coordinates of a team of an indexed grid (R28). -/
def Grid.coord (g : Grid) (team k : Nat) : Nat :=
  if g.kcb.disp then 0 else
  match k with
  | 0 => team % g.x
  | 1 => team / g.x % g.y
  | _ => team / (g.x * g.y)

/-- The content of a status register for a lane (R177). -/
def Env.status (e : Env) (l sel : Nat) : Nat :=
  let x := e.lane l
  match sel with
  | 0x00 => l
  | 0x01 => e.grp.num
  | 0x02 => e.grp.role
  | 0x03 => e.flat l
  | 0x04 => e.w
  | 0x05 => e.grid.kcb.lanes
  | 0x06 => e.team.idx % 2 ^ 32
  | 0x07 => e.team.idx / 2 ^ 32
  | 0x08 => e.grid.rank e.team.idx
  | 0x09 => e.grid.kcb.cluster
  | 0x0A => e.grid.coord e.team.idx 0
  | 0x0B => e.grid.coord e.team.idx 1
  | 0x0C => e.grid.coord e.team.idx 2
  | 0x10 => x.fstat.toNat
  | 0x11 => x.lc0.toNat
  | 0x12 => x.lc1.toNat
  | 0x13 => x.lc2.toNat
  | 0x14 => x.frames.length
  | 0x15 => x.loops.length
  | 0x16 => b2n x.demoted
  | _ => e.s.time % 2 ^ 64

def rdsrFn (e : Env) (l : Nat) : Out :=
  { writes := e.wrD l (if e.f.a.toNat = srTime then 2 else 1) (e.status l e.f.a.toNat) }

/-- Faults of the performing lanes that a check finds, or the effect. -/
def Env.checkedSys (e : Env) (chk : Nat → Option (Nat × Nat)) (eff : State) : State :=
  match e.perf.filterMap (fun l => (chk l).map (fun x => (l, x.1, x.2))) with
  | [] => eff
  | fs => e.fail fs

/-- WRSR (R178, R130). -/
def Lane.setStatus (l : Lane) (sel v : Nat) : Lane :=
  if sel = 0x10 then { l with fstat := BitVec.ofNat 5 v } else l.setLc (sel - 0x11) (BitVec.ofNat 32 v)
def wrsrBody (e : Env) : State :=
  e.checkedSys (fun l => if e.f.d = 0x10#8 ∧ 32 ≤ e.a32 l then some (cIllegalOperand, 0) else none)
    (e.retire (e.s.updGroup e.grid.tag e.team.idx e.grp.num (fun g => g.updMask (maskOf e.perf)
      (fun i x => x.setStatus e.f.d.toNat (e.a32 i)))) noTarget)

/-- The 64-byte launch record (R180). -/
def Grid.launchRec (g : Grid) : List Byte :=
  leBytes 64 (put 0 g.x + put 32 g.y + put 64 g.z + put 96 g.kcb.cluster + put 128 g.n + put 192 (b2n g.kcb.disp) + put 224 g.tag)

/-- LDK's bytes and its space (R179). -/
def Env.ldkSize (e : Env) : Nat := if bit e.sub 0 then 8 else 4
def Env.ldkCon (e : Env) : Bool := bit e.sub 1
def Env.ldkLen (e : Env) : Nat :=
  if e.ldkCon then ((e.s.object? e.grid.handle).map (·.rodataLen)).getD 0 else 64 + e.grid.params.length
/-- The checks of an offset (R179). -/
def Env.ldkBad (e : Env) (off : Nat) : Option Nat :=
  if off % e.ldkSize ≠ 0 then some cAlign else if off + e.ldkSize > e.ldkLen then some cPermission else none
/-- LDK from the parameter space. -/
def ldkFn (e : Env) (l : Nat) : Out :=
  let span := if bit e.sub 0 then 2 else 1
  if e.quiet.contains l then { writes := e.wrD l span 0 } else
  match e.ldkBad (e.a32 l) with
  | none => { writes := e.wrD l span (ofLe (((e.grid.launchRec ++ e.grid.params).drop (e.a32 l)).take e.ldkSize)) }
  | some c => if e.hushed l then { writes := e.wrD l span 0 } else { fault := some (c, e.a32 l) }

/-- RAND (R181). -/
def randVal (ctr key j : Nat) : Nat :=
  let h := ctr ^^^ key ^^^ (j * 0x3C6EF372 % 2 ^ 32)
  let h := h * 0x2C1B3C6D % 2 ^ 32
  let h := h ^^^ (h >>> 12)
  let h := h * 0x297A2D39 % 2 ^ 32
  h ^^^ (h >>> 15)
def randFn (e : Env) (l : Nat) : Out := e.wr32 l (randVal (e.a32 l) (e.b32 l) (e.f.ctl.toNat % 8))

/-- WKFETCH (R182): the claim leaves for the dispenser. -/
def wkfetchBody (e : Env) : State :=
  let n := if e.f.a = 0xF0#8 then 1 else e.a32 (e.set.headD 0)
  if n = 0 ∨ n > 65536 then e.fail ((e.set.take 1).map (fun l => (l, cIllegalOperand, 0)))
  else
    let x : Fetch := { id := e.s.nextId, tag := e.grid.tag, team := e.team.idx, grp := e.grp.num, issue := e.s.nextId, lanes := e.mask,
                       pc := e.pc, d := e.f.d.toNat - 0xC0, n := n }
    e.retire { e.s.fresh with fetches := e.s.fetches ++ [x] } noTarget

/-- DISPENSER_CLAIM (R182): the next items handed out, the group's earlier claim finished (R320). -/
def claimAt (s : State) (id : Nat) : State :=
  match s.fetches.find? (fun x => x.id == id) with
  | none => s
  | some x =>
    match s.grid? x.tag with
    | none => s
    | some g =>
      let k := min x.n (g.n - g.next)
      let new : List Claim := if k = 0 then [] else [{ team := x.team, grp := x.grp, first := g.next, g := k }]
      let s1 := s.updGrid x.tag (fun g =>
        { g with next := g.next + k, claims := g.claims.filter (fun c => !(c.team == x.team && c.grp == x.grp)) ++ new })
      let ws : List Wr := [{ dest := .s x.d, val := g.next % 2 ^ 32 }, { dest := .s (x.d + 1), val := g.next / 2 ^ 32 },
        { dest := .s (x.d + 2), val := k }]
      ({ s1 with fetches := s1.fetches.filter (fun y => y.id ≠ id) }).addResult
        { id := s1.nextId, tag := x.tag, team := x.team, grp := x.grp, issue := x.issue, uni := true, low := lowestLane x.lanes, lanes := x.lanes,
          pc := x.pc, writes := [((maskList 64 x.lanes).headD 0, ws)], flags := [], coll := false }

/-- DISPENSER_CLAIM: a claim reaches the dispenser (R182). -/
def execDispenserClaim (id : Nat) (s : State) : Host.Outcome State Fault Refusal := .next (claimAt s id)

/-- The lanes that an enabled flag of a result makes fault (R101): for a uniform result the lowest lane of its issuing set, of a
collective the lowest member (R168). -/
def Result.traps (r : Result) (trap : BitVec 5) : List (Nat × BitVec 5) :=
  if r.uni then ((r.flags.filter (fun x => x.2 &&& trap ≠ 0#5)).take 1).map (fun x => (r.low, x.2)) else
  let l := r.flags.filter (fun x => r.lanes.getLsbD x.1 && x.2 &&& trap ≠ 0#5)
  if r.coll then l.take 1 else l
/-- Whether a result may be written: of a group's collectives the earlier come first (R169). -/
def State.mayReturn (s : State) (r : Result) : Bool :=
  !(r.coll && s.results.any (fun x => x.coll && x.tag == r.tag && x.team == r.team && x.grp == r.grp && decide (x.issue < r.issue)))
/-- The writes and flags of a result put into its group: for the lanes that have not exited, a uniform one for the set as
long as one of its lanes awaits it (R42, R50). -/
def Group.return_ (g : Group) (r : Result) : Group :=
  let due := r.writes.filter (fun x => if r.uni then r.lanes ≠ 0#64 else r.lanes.getLsbD x.1)
  let g1 := due.foldl (fun (g : Group) x => g.putAll x.1 (g.inOrder r.issue x.2)) g
  let g2 := r.flags.foldl (fun (g : Group) x => g.updMask (if r.uni then r.lanes else r.lanes &&& maskOf [x.1]) (fun _ l => l.orFlags x.2)) g1
  g2.ahead ((due.flatMap (fun x => sDests (g.inOrder r.issue x.2)))) r.issue

/-- RESULT_RETURN (R78, R154): the writes and flags, or FP_TRAP; draining ends with the last result. -/
def returnAt (s : State) (id : Nat) : State :=
  match s.results.find? (fun r => r.id == id) with
  | none => s
  | some r =>
    if !s.mayReturn r then s else
    let s0 := { s with results := s.results.filter (fun x => x.id ≠ id) }
    match s0.grid? r.tag, s0.group? r.tag r.team r.grp with
    | some gr, some g =>
      match r.traps gr.kcb.fptrap with
      | [] => (s0.updGroup r.tag r.team r.grp (fun g => g.return_ r)).undrain r.tag r.team r.grp
      | ts => (s0.raise r.tag (ts.map (fun x => faultRec g x.1 cFpTrap r.pc x.2.toNat))).stopGroup r.tag r.team r.grp
    | _, _ => s0

/-- RESULT_RETURN: a variable-latency result is written (R78). -/
def execResultReturn (id : Nat) (s : State) : Host.Outcome State Fault Refusal := .next (returnAt s id)

/-- RDSR: a status register (R177). -/
def execRdsr (f : Fields) (s : State) : Host.Outcome State Fault Refusal := .next (issue s 0xF0 f (fixed rdsrFn))

/-- WRSR: a status register written (R178). -/
def execWrsr (f : Fields) (s : State) : Host.Outcome State Fault Refusal := .next (issue s 0xF1 f (wrsrBody))

/-- RAND: the jig generator (R181). -/
def execRand (f : Fields) (s : State) : Host.Outcome State Fault Refusal := .next (issue s 0xF3 f (fixed randFn))

/-- WKFETCH: a claim of work items (R182). -/
def execWkfetch (f : Fields) (s : State) : Host.Outcome State Fault Refusal := .next (issue s 0xF4 f (wkfetchBody))

end Sys2Proof.Machine
end

