-- ==== Sys2Proof/Machine/Memory.lean ====
section
/-! DEFINITION. Memory instructions as they issue (R184 to R204, R208 to R210, R213 to R220): addresses and checks,
the accesses, signals and copies they leave behind, and arrivals at barriers. -/

namespace Sys2Proof.Machine

/-! ### Addresses and checks (R184, R186) -/

/-- Address x (R184). -/
def Env.addr (e : Env) (l : Nat) : Nat := wrap 64 ((e.a64 l : Int) + (if e.f.form = .xl then sgn 64 e.f.lit.toNat else 0))

/-- What the checks of R186 find for one lane. -/
inductive Chk where
  | ok (l : Loc)
  | fault (code addr : Nat)
  | miss (va : Nat) (mig : Bool)
  deriving DecidableEq, Repr, Inhabited

/-- Where the space of an access lies. -/
inductive Space where
  | global | own | cluster
  deriving DecidableEq, Repr, Inhabited

/-- The scratchpad place of an offset of a started, unretired team. -/
def Team.place (t : Team) (off : Nat) : Loc := .scr t.core (t.base + off)
/-- The team of a rank in the cluster of a team (R249). -/
def State.rankTeam? (s : State) (g : Grid) (team rank : Nat) : Option Team :=
  if rank < g.kcb.cluster then s.team? g.tag (g.clusterOf team * g.kcb.cluster + rank) else none

/-- An address of a process translated for a core of a partition; `x` is the address a fault reports. A miss that has been
declined is the fault MEM_TRANSLATION (R259). -/
def State.chkVa (s : State) (core part pid va x : Nat) (k : Acc) : Chk × State :=
  let (t, s1) := s.translateAt core part pid va k
  match t with
  | .at_ l => (.ok l, s1)
  | .miss mig => if s.declined.contains (pid, va) then (.fault cTranslation x, s1) else (.miss va mig, s1)
  | .bad c => (.fault c x, s1)
/-- A global address of a program's checked and translated (R186); none names the register backing area or an image (R246). -/
def State.chkGlobal (s : State) (core part pid x size : Nat) (k : Acc) : Chk × State :=
  if x % size ≠ 0 then (.fault cAlign x, s)
  else if !canonicalVa x || s.offLimits pid x then (.fault cPermission x, s)
  else s.chkVa core part pid x x k

/-- The checks of one lane's access (R186, R193). -/
def Env.chk (e : Env) (s : State) (sp : Space) (x size : Nat) (k : Acc) : Chk × State :=
  match sp with
  | .global => s.chkGlobal e.team.core e.grid.part e.grid.proc x size k
  | .own =>
    if x % size ≠ 0 then (.fault cAlign x, s)
    else if x + size > e.grid.kcb.scratch then (.fault cScratch x, s)
    else (.ok (e.team.place x), s)
  | .cluster =>
    if x % size ≠ 0 then (.fault cAlign x, s)
    else match s.rankTeam? e.grid e.team.idx (x / 2 ^ 32) with
      | none => (.fault cScratch x, s)
      | some t =>
        if x % 2 ^ 32 + size > e.grid.kcb.scratch then (.fault cScratch x, s) else (.ok (t.place (x % 2 ^ 32)), s)

/-- Checks of some lanes in ascending order; what the walks leave stays (R258, R260). -/
def chkList (f : State → Nat → Chk × State) : List Nat → State → List (Nat × Chk) × State
  | [], s => ([], s)
  | l :: ls, s =>
    let (c, s1) := f s l
    let (cs, s2) := chkList f ls s1
    ((l, c) :: cs, s2)
def Env.chkAll (e : Env) (sp : Space) (size : Nat) (k : Acc) (addr : Nat → Nat) (ls : List Nat) (s : State) : List (Nat × Chk) × State :=
  chkList (fun s l => e.chk s sp (addr l) size k) ls s

def chkFaults (cs : List (Nat × Chk)) : List (Nat × Nat × Nat) :=
  cs.filterMap (fun x => match x.2 with
    | .fault c a => some (x.1, c, a)
    | _ => none)
def chkMisses (cs : List (Nat × Chk)) : List (Nat × Nat × Bool) :=
  cs.filterMap (fun x => match x.2 with
    | .miss a m => some (x.1, a, m)
    | _ => none)
def chkOk (cs : List (Nat × Chk)) : List (Nat × Loc) :=
  cs.filterMap (fun x => match x.2 with
    | .ok l => some (x.1, l)
    | _ => none)

/-- Whether a process registered an address as device-served (R259). -/
def State.isServed (s : State) (pid va : Nat) : Bool :=
  match s.proc? pid with
  | none => false
  | some p => p.served.any (fun r => decide (r.1 ≤ va) && decide (va < r.1 + r.2))

/-- A translation fault (R186, R259): the lanes stay at the instruction and the group is passed over until it is serviced; who serves
it follows the first missing address. -/
def State.holdSet (s : State) (pid tag team num : Nat) (mask : LaneMask) (pc : DWord) (k : Acc) (miss : List (Nat × Nat × Bool)) : State :=
  match miss with
  | [] => s
  | (_, va, mig) :: _ =>
    let t : TFault := { id := s.nextId, proc := pid, va := va, k := k, who := .issue tag team num mask pc,
                        lanes := miss.map (fun m => (m.1, m.2.1)), device := mig || s.isServed pid va, mig := mig, since := s.time }
    ({ s.fresh with tfaults := s.tfaults ++ [t] }).updGroup tag team num (fun g => { g with hold := some t.id })

def Env.holdAll (e : Env) (s : State) (k : Acc) (miss : List (Nat × Nat × Bool)) : State :=
  s.holdSet e.grid.proc e.grid.tag e.team.idx e.grp.num e.mask e.pc k miss

/-- Accesses left by an issue, in order. -/
def State.addAccs (s : State) (l : List Access) : State := { s with accs := s.accs ++ l, nextId := s.nextId + l.length }

/-- Destination k registers on. -/
def Dest.plus (d : Dest) (k : Nat) : Dest :=
  match d with
  | .v n => .v (n + k)
  | .s n => .s (n + k)
  | x => x

/-- The lanes that an access of a lane stands for: the whole set when it is uniform (R42). -/
def Env.side (e : Env) (l : Nat) : LaneMask := if e.uniform then e.mask else maskOf [l]
/-- What barriers put before an action of some lanes (R221). -/
def Env.afterOf (e : Env) (m : LaneMask) : List Nat := e.s.still ((maskList 64 m).flatMap (fun i => (e.lane i).after))
/-- One access of a lane. Only LDG and STG carry a cache hint (R191). -/
def Env.acc (e : Env) (id l : Nat) (kind : AccKind) (loc : Loc) (addr size dat : Nat) (dest : Dest) : Access :=
  { id := id, tag := e.grid.tag, team := e.team.idx, grp := e.grp.num, lane := l,
    lanes := e.side l, by_ := e.side l, issue := e.s.nextId, pc := e.pc, kind := kind, loc := loc, addr := addr,
    size := size, dat := dat, dat2 := 0, dest := dest, dest2 := .none, scope := e.f.ctl.toNat % 4, ord := e.f.ctl.toNat / 4 % 4,
    ch := if e.opc = 0xB0 ∨ e.opc = 0xB1 then e.sub / 8 else 0, wait := none, stale := false,
    hush := e.hushed l, after := e.afterOf (e.side l), spread := false, waited := false }

/-- Accesses with consecutive stamps. -/
def numbered (base : Nat) (l : List (Nat → Access)) : List Access := l.mapIdx (fun i f => f (base + i))

/-- A result of 0 for lanes whose access is suppressed, or whose fault is not reported (R49). -/
def Env.zeros (e : Env) (s : State) (span : Nat) (ls : List Nat) : State :=
  if ls.isEmpty then s else
  s.addResult { id := s.nextId, tag := e.grid.tag, team := e.team.idx, grp := e.grp.num, issue := e.s.nextId, uni := e.uniform,
                lanes := if e.uniform then e.mask else maskOf ls, pc := e.pc, low := lowestLane e.mask,
                writes := ls.map (fun l => (l, e.wrD l span 0)), flags := [], coll := false }

/-! ### Loads and stores (R190 to R193) -/

/-- The access pieces of a lane: 16 bytes are two of 8, the lower half first (R188). -/
def pieces (size : Nat) : List Nat := if size = 16 then [0, 8] else [0]
def pieceSize (size : Nat) : Nat := if size = 16 then 8 else size

/-- The lanes whose load is made. -/
def Env.asks (e : Env) : List Nat := e.exec.filter (fun l => !(e.quiet.contains l))
/-- A load whose lanes have been checked: it holds for a translation fault, faults, or leaves; a fault that is not reported
gives 0 (R42, R49). -/
def Env.loads (e : Env) (cs : List (Nat × Chk)) (s1 : State) (span : Nat) (mk : Nat × Loc → List (Nat → Access)) : State :=
  let fs := (chkFaults cs).filter (fun x => !e.hushed x.1)
  let quiet := e.quiet ++ ((chkFaults cs).filter (fun x => e.hushed x.1)).map (·.1)
  if !(chkMisses cs).isEmpty then e.holdAll s1 .rd (chkMisses cs)
  else if !fs.isEmpty then { e with s := s1 }.fail fs
  else e.retire (e.zeros (s1.addAccs (numbered s1.nextId ((chkOk cs).flatMap mk))) span quiet) noTarget
def loadBody (sp : Space) (e : Env) : State :=
  let size := szBytes e.sub
  let sx := e.sub % 8 == 0 || e.sub % 8 == 2
  let (cs, s1) := e.chkAll sp size .rd e.addr e.asks e.s
  e.loads cs s1 (szSpan e.sub) (fun x => (pieces size).map (fun o id =>
    e.acc id x.1 (.load sx) (x.2.plus o) (e.addr x.1 + o) (pieceSize size) size ((e.destAt x.1 e.f.d 0).plus (o / 4))))

/-- One lane's LDK of the constant space (R179): the offset's checks, then the page of `.rodata`, serviced like any (R259);
a fault reports the offset. -/
def Env.ldkChk (e : Env) (s : State) (l : Nat) : Chk × State :=
  match e.ldkBad (e.a32 l) with
  | some c => (.fault c (e.a32 l), s)
  | none => s.chkVa e.team.core e.grid.part e.grid.proc (((e.s.object? e.grid.handle).map (·.rodata)).getD 0 + e.a32 l) (e.a32 l) .rd
/-- LDK: parameters are at hand; a constant is read from memory, in no order with any access. -/
def ldkBody (e : Env) : State :=
  if !e.ldkCon then variable_ ldkFn e else
  let (cs, s1) := chkList e.ldkChk e.asks e.s
  e.loads cs s1 (e.ldkSize / 4) (fun x => [fun id => e.acc id x.1 .ldk x.2 (e.a32 x.1) e.ldkSize e.ldkSize (e.destAt x.1 e.f.d 0)])

def storeBody (sp : Space) (e : Env) : State :=
  let size := szBytes e.sub
  let ls := e.perf.filter (fun l => !(e.lane l).demoted)
  let (cs, s1) := e.chkAll sp size .wr e.addr ls e.s
  if !(chkMisses cs).isEmpty then e.holdAll s1 .wr (chkMisses cs)
  else if !(chkFaults cs).isEmpty then { e with s := s1 }.fail (chkFaults cs)
  else
    let mk (x : Nat × Loc) : List (Nat → Access) := (pieces size).map (fun o id =>
      e.acc id x.1 .store (x.2.plus o) (e.addr x.1 + o) (pieceSize size)
        (e.raw x.1 e.f.b e.f.modb (szSpan e.sub) / 2 ^ (8 * o) % 2 ^ (8 * pieceSize size)) .none)
    e.retire (s1.addAccs (numbered s1.nextId ((chkOk cs).flatMap mk))) noTarget

/-! ### Atomics and reductions (R194 to R197, R298) -/

/-- The place's slice, for a tagged reduction. -/
def Loc.slice (l : Loc) : Nat := match l with
  | .dram a => sliceOf a
  | _ => 0
def Loc.isSys (l : Loc) : Bool := match l with
  | .sys _ => true
  | _ => false
def Loc.dramAddr (l : Loc) : Nat := match l with
  | .dram a => a
  | _ => 0

/-- A REDG `.fadd` of a deterministic grid (R298): each reduction leaves with its key. -/
def taggedBody (e : Env) (oks : List (Nat × Loc)) (s1 : State) : State :=
  let bad := oks.filter (fun (x : Nat × Loc) => x.2.isSys || (e.lane x.1).tseq == 2 ^ 32 - 1)
  if !bad.isEmpty then { e with s := s1 }.fail (bad.map (fun (x : Nat × Loc) => (x.1, cDeterminism, 0)))
  else
    let new : List RedPending := oks.mapIdx (fun i (x : Nat × Loc) =>
      { id := s1.nextId + i, grp := e.grp.num, tag := e.grid.tag, pc := e.pc, va := e.addr x.1,
        red := { slice := x.2.slice, addr := x.2.dramAddr, val := BitVec.ofNat 32 (e.b32 x.1), team := e.team.idx,
                 lane := e.flat x.1, seq := (e.lane x.1).tseq, spilled := none } })
    let s1 := oks.foldl (fun (s : State) (x : Nat × Loc) => s.dropLine e.team.core (x.2.down 64)) s1
    let s2 : State := { s1 with reds := s1.reds ++ new, nextId := s1.nextId + new.length }
    e.retire (s2.updGroup e.grid.tag e.team.idx e.grp.num (fun g => g.updMask (maskOf (oks.map (·.1)))
      (fun _ l => { l with tseq := l.tseq + 1 }))) noTarget

def atomBody (sp : Space) (cas ret : Bool) (e : Env) : State :=
  let w64 := bit e.sub 4
  let span := if w64 then 2 else 1
  let size := 4 * span
  let op := e.sub % 16
  let ls := e.perf.filter (fun l => !(e.lane l).demoted)
  let quiet := e.perf.filter (fun l => (e.lane l).demoted)
  let (cs, s1) := e.chkAll sp size .rw e.addr ls e.s
  if !(chkMisses cs).isEmpty then e.holdAll s1 .rw (chkMisses cs)
  else if !(chkFaults cs).isEmpty then { e with s := s1 }.fail (chkFaults cs)
  else if sp = .global ∧ cas = false ∧ ret = false ∧ e.grid.kcb.det = true ∧ op = 9 then taggedBody e (chkOk cs) s1
  else
    let mk (x : Nat × Loc) : Nat → Access := fun id =>
      { e.acc id x.1 (if cas then .cas ret else .atom op ret) x.2 (e.addr x.1) size (e.raw x.1 e.f.b e.f.modb span)
          (if ret then e.destAt x.1 e.f.d 0 else .none) with dat2 := if cas then e.raw x.1 e.f.c e.f.modc span else 0 }
    let s2 := s1.addAccs (numbered s1.nextId ((chkOk cs).map mk))
    e.retire (if ret then e.zeros s2 span quiet else s2) noTarget

/-! ### Fences and cache control (R198 to R200) -/

/-- FENCE: an ordering point among the lane's accesses. -/
def fenceBody (e : Env) : State :=
  e.retire (e.s.addAccs (numbered e.s.nextId (e.perf.map (fun l id => e.acc id l .fence (.sys 0) 0 0 0 .none)))) noTarget

/-- IFENCE: the lanes drain until what precedes it has been performed and the octet's code dropped (R199). -/
def ifenceBody (e : Env) : State :=
  e.retire (e.s.addAccs (numbered e.s.nextId (e.perf.map (fun l id => e.acc id l .ifence (.sys 0) 0 0 0 .none)))) noTarget

/-- PREF and CCTL change what the caches hold and nothing else; an address that fails its checks, read permission among
them (log 88), does nothing. A line of another home is never in the L2 (R251): its prefetch is a read over the link that
answers nobody. -/
def cacheLane (pref : Bool) (e : Env) (s : State) (l : Nat) : State :=
  let x := e.addr l
  let (c, s1) := s.chkGlobal e.team.core e.grid.part e.grid.proc x 1 .rd
  match c with
  | .ok loc =>
    let line := loc.down 64
    let inSuper := fun (b : Super) => b.base == loc.dramAddr / 256 * 256
    if pref then
      match loc with
      | .dram a =>
        let s2 := s1.touchL2 a e.grid.part false 0
        if e.sub = 0 then s2.fillL1 e.team.core line (s2.readAt line 64) else s2
      | _ =>
        if e.sub = 0 then s1.addAccs [{ e.acc s1.nextId l (.load false) loc x 1 0 .none with lanes := 0#64, by_ := 0#64, scope := 0, ord := 0 }] else s1
    else match e.sub with
      | 0 => forN 4 (fun i s => s.dropLine e.team.core ((loc.down 256).plus (64 * i))) s1
      | _ => if loc.isSys then s1 else match e.sub with
        | 1 => { s1 with l2 := updFirst inSuper (fun b => { b with dirty := 0#4 }) s1.l2 }
        | 2 => { s1 with l2 := s1.l2.filter (fun b => !inSuper b) }
        | _ => { s1 with l2 := updFirst inSuper (fun b => { b with mark := 1 }) s1.l2 }
  | _ => s1
def cacheBody (pref : Bool) (e : Env) : State := e.retire (e.perf.foldl (cacheLane pref e) e.s) noTarget

/-! ### Transaction barriers as issued (R214 to R218) -/

def Env.xbSpace (e : Env) : Space := if bit e.sub 0 then .global else .own

/-- The object XBINIT writes (R215). -/
def xbObject (scope n tag : Nat) : Nat := put 4 1 + put 6 scope + put 8 n + put 64 n + put 88 tag

/-- Room for `n` entries in a grid's barrier roll (R296): a page of the backing area more when the roll has filled what it
holds, at the address that 8 bytes an entry give (log 25); serviced like any page (R53). -/
def Env.rollRoom (e : Env) (s : State) (n : Nat) : Chk × State :=
  if n ≤ e.grid.rollCap then (.ok (.sys 0), s) else
  s.chkVa e.team.core e.grid.part e.grid.proc (e.grid.backing + 8 * e.grid.rollCap) (e.grid.backing + 8 * e.grid.rollCap) .rw

def xbinitBody (e : Env) : State :=
  let (cs, s1) := e.chkAll e.xbSpace 16 .wr e.addr e.perf e.s
  let vals := (chkOk cs).filter (fun x => e.b32 x.1 = 0 || decide (2 ^ 23 ≤ e.b32 x.1))
  let fs := chkFaults cs ++ vals.map (fun x => (x.1, cIllegalOperand, 0))
  if !(chkMisses cs).isEmpty then e.holdAll s1 .wr (chkMisses cs)
  else if !fs.isEmpty then { e with s := s1 }.fail fs
  else
    let new := (if bit e.sub 0 then (chkOk cs).map (fun x => e.addr x.1) else []).filter (fun a => !e.grid.roll.contains a)
    let roll := e.grid.roll ++ new.eraseDups
    match e.rollRoom s1 roll.length with
    | (.fault c a, s2) => { e with s := s2 }.fail ((e.perf.take 1).map (fun l => (l, c, a)))
    | (.miss va mig, s2) => e.holdAll s2 .rw ((e.perf.take 1).map (fun l => (l, va, mig)))
    | (.ok _, s2) =>
      let mk (x : Nat × Loc) : Nat → Access := fun id =>
        e.acc id x.1 .xbinit x.2 (e.addr x.1) 16 (xbObject (e.f.ctl.toNat % 4) (e.b32 x.1) e.grid.tag) .none
      let s3 := s2.addAccs (numbered s2.nextId ((chkOk cs).map mk))
      let cap := if roll.length ≤ e.grid.rollCap then e.grid.rollCap else e.grid.rollCap + 8192
      e.retire (s3.updGrid e.grid.tag (fun g => { g with roll := roll, rollCap := cap })) noTarget

/-- XBEXPECT and XBARRIVE: one signal of each performing lane, the values checked before any (R216). -/
def signalBody (bad : Nat → Bool) (da ds : Nat → Int) (e : Env) : State :=
  let (cs, s1) := e.chkAll e.xbSpace 16 .rw e.addr e.perf e.s
  let fs := chkFaults cs ++ ((chkOk cs).filter (fun x => bad x.1)).map (fun x => (x.1, cIllegalOperand, 0))
  if !(chkMisses cs).isEmpty then e.holdAll s1 .rw (chkMisses cs)
  else if !fs.isEmpty then { e with s := s1 }.fail fs
  else
    let new : List Sig := (chkOk cs).mapIdx (fun i (x : Nat × Loc) =>
      { id := s1.nextId + i, tag := e.grid.tag, team := e.team.idx, grp := e.grp.num, lane := x.1, pc := e.pc, loc := x.2,
        addr := e.addr x.1, da := da x.1, ds := ds x.1, scope := if x.2.isSys then 3 else 2, copy := none, wait := none,
        after := e.afterOf (maskOf [x.1]), spread := false })
    e.retire { s1 with sigs := s1.sigs ++ new, nextId := s1.nextId + new.length } noTarget
def xbexpectBody (e : Env) : State :=
  signalBody (fun l => decide (2 ^ 31 ≤ e.b32 l)) (fun _ => if bit e.sub 1 then 1 else 0) (fun l => (e.b32 l : Int)) e
def arrivals (e : Env) (l : Nat) : Nat := if e.f.b = 0xF0#8 then 1 else e.b32 l
def xbarriveBody (e : Env) : State :=
  signalBody (fun l => arrivals e l = 0 || decide (2 ^ 23 ≤ arrivals e l)) (fun l => (arrivals e l : Int)) (fun _ => 0) e

/-- XBWAIT parks its lanes until the observation finds the phase done (R218); XBTEST observes once. -/
def xbwaitBody (e : Env) : State :=
  let (cs, s1) := e.chkAll e.xbSpace 16 .rd e.addr e.perf e.s
  if !(chkMisses cs).isEmpty then e.holdAll s1 .rd (chkMisses cs)
  else if !(chkFaults cs).isEmpty then { e with s := s1 }.fail (chkFaults cs)
  else
    let oks := chkOk cs
    let pd := if e.f.d.toNat < 96 then some e.f.d.toNat else none
    let s2 := s1.addAccs (numbered s1.nextId (oks.map (fun x id => e.acc id x.1 .xbwait x.2 (e.addr x.1) 16 0 .none)))
    let s3 := e.retire s2 noTarget
    s3.updGroup e.grid.tag e.team.idx e.grp.num (fun g => g.updMask (maskOf (oks.map (·.1))) (fun i l =>
      match oks.find? (fun x => x.1 == i) with
      | some x => { l with st := .atXbar { loc := x.2, addr := e.addr i, phase := e.b32 i % 16, pd := pd, armed := false } }
      | none => l))
def xbtestBody (e : Env) : State :=
  let (cs, s1) := e.chkAll e.xbSpace 16 .rd e.addr e.perf e.s
  if !(chkMisses cs).isEmpty then e.holdAll s1 .rd (chkMisses cs)
  else if !(chkFaults cs).isEmpty then { e with s := s1 }.fail (chkFaults cs)
  else
    let pdest (x : BitVec 8) : Dest := if x.toNat < 96 then .p x.toNat else .none
    let mk (x : Nat × Loc) : Nat → Access := fun id =>
      { e.acc id x.1 .xbtest x.2 (e.addr x.1) 16 (e.b32 x.1 % 16) (pdest e.f.d) with dest2 := pdest e.f.c }
    e.retire (s1.addAccs (numbered s1.nextId ((chkOk cs).map mk))) noTarget

/-! ### Team and cluster barriers (R219 to R221) -/

/-- One arrival of a lane (R220), with what it puts before the release, or the fault. -/
def Bar.arrive (b : Bar) (limit c : Nat) (before : List Nat) (me : Nat × Nat × Nat) : Option Bar :=
  if c > limit then none
  else if b.n = 0 then some { n := 1, e := some c, before := before, who := [me] }
  else if b.e = some c then some { b with n := b.n + 1, before := b.before ++ before, who := b.who ++ [me] } else none

/-- The arrivals of the performing lanes of a team barrier, in ascending order, each with its release check. -/
def barLane (n : Nat) (wait : Bool) (e : Env) (x : State × List (Nat × Nat × Nat)) (l : Nat) : State × List (Nat × Nat × Nat) :=
  let (s, fs) := x
  match (s.team? e.grid.tag e.team.idx).bind (fun t => t.tb[n]?) with
  | none => x
  | some b =>
    match b.arrive e.grid.kcb.lanes (e.a32 l) (s.beforeOf e.grid.tag e.team.idx e.grp.num l) (e.team.idx, e.grp.num, l) with
    | none => (s, fs ++ [(l, cIllegalOperand, 0)])
    | some b' =>
      let s1 := s.updTeam e.grid.tag e.team.idx (fun t => { t with tb := updAt (fun _ => b') n t.tb })
      let s2 := if wait then s1.updLane e.grid.tag e.team.idx e.grp.num l (fun x => { x with st := .atTeamBar n, owed := e.f.sw }) else s1
      (s2.checkTb e.grid.tag e.team.idx n, fs)
def barBody (wait : Bool) (e : Env) : State :=
  let (s1, fs) := e.perf.foldl (barLane e.f.d.toNat wait e) (e.retire e.s noTarget, [])
  if fs.isEmpty then s1 else e.fail fs

/-- The same at the cluster barrier. -/
def cbarLane (wait : Bool) (e : Env) (x : State × List (Nat × Nat × Nat)) (l : Nat) : State × List (Nat × Nat × Nat) :=
  let (s, fs) := x
  let cl := e.grid.clusterOf e.team.idx
  match s.grid? e.grid.tag with
  | none => x
  | some g =>
    match (Sparse.get { n := 0, e := none } g.cbars cl).arrive (e.grid.kcb.lanes * e.grid.kcb.cluster) (e.a32 l)
        (s.beforeOf e.grid.tag e.team.idx e.grp.num l) (e.team.idx, e.grp.num, l) with
    | none => (s, fs ++ [(l, cIllegalOperand, 0)])
    | some b' =>
      let s1 := s.updGrid e.grid.tag (fun g => { g with cbars := Sparse.set { n := 0, e := none } g.cbars cl b' })
      let s2 := if wait then s1.updLane e.grid.tag e.team.idx e.grp.num l (fun x => { x with st := .atClusterBar, owed := e.f.sw }) else s1
      (s2.checkCb e.grid.tag cl, fs)
def cbarBody (wait : Bool) (e : Env) : State :=
  let (s1, fs) := e.perf.foldl (cbarLane wait e) (e.retire e.s noTarget, [])
  if fs.isEmpty then s1 else e.fail fs

/-! ### Copies as posted (R201 to R204, R208 to R210) -/

/-- Shape fields (R202). -/
def shSpr (sh : Nat) : Nat := bits sh 15 0
def shRows (sh : Nat) : Nat := bits sh 31 16
def shPitch (sh : Nat) : Nat := bits sh 63 32
/-- Whether a shape keeps R202; `s2x` wants a pitch of 0. -/
def shapeOk (cpy s2x : Bool) (sh : Nat) : Bool :=
  1 ≤ shSpr sh && 1 ≤ shRows sh && shPitch sh % 32 == 0 &&
  (if s2x then shPitch sh == 0 else shRows sh == 1 || decide (shSpr sh * 32 ≤ shPitch sh)) &&
  (!cpy || decide (shSpr sh * shRows sh ≤ 12288))
/-- The global-side offset of sector i, and the packed one (R202). -/
def globOff (sh i : Nat) : Nat := i / shSpr sh * shPitch sh + i % shSpr sh * 32
def packOff (i : Nat) : Nat := i * 32

/-- The first byte of `n` at an address whose top bits are not all equal to bit 56 (R203, check 5): the first, or the start of
the gap that the range runs into. -/
def badByte (lo n : Nat) : Option Nat :=
  if !canonicalVa lo then some lo else if !canonicalVa ((lo + n - 1) % 2 ^ 64) then some (2 ^ 56) else none
/-- The same over the rows of a shape. -/
def firstBad (base sh : Nat) : Option Nat :=
  (List.range (shRows sh)).findSome? (fun r => badByte ((base + r * shPitch sh) % 2 ^ 64) (shSpr sh * 32))

/-- A posted copy's operands: destination, source, shape, barrier. -/
structure CopyOps where
  dst : Nat
  src : Nat
  shape : Nat
  bar : Option Nat
  deriving DecidableEq, Repr, Inhabited

/-- The kind of copy an instruction posts. -/
def Env.copyDir (e : Env) : CopyDir :=
  if e.opc = 0xD1 then .g2g else if e.sub % 4 = 0 then .g2s else if e.sub % 4 = 1 then .s2g else .s2x
def Env.copyOps (e : Env) (l : Nat) : CopyOps :=
  let d (span : Nat) := e.raw l e.f.d 0#10 span
  let c (span : Nat) := if e.f.c = 0xF0#8 then none else some (e.raw l e.f.c e.f.modc span)
  match e.copyDir with
  | .g2s => { dst := d 1, src := e.a64 l, shape := e.b64 l, bar := c 1 }
  | .s2g => { dst := d 2, src := e.a32 l, shape := e.b64 l, bar := c (if bit e.sub 3 then 2 else 1) }
  | .s2x => { dst := d 1, src := e.a32 l, shape := e.b64 l, bar := c 1 }
  | .g2g => { dst := d 2, src := e.a64 l, shape := e.b64 l, bar := c 2 }

/-- Bytes a copy moves (R202). -/
def copyBytes (sh : Nat) : Nat := shSpr sh * shRows sh * 32

/-- The checks of R203 for one lane, CPYG without checks 3 and 4 (R208): the first that fails. -/
def copyChk (dir : CopyDir) (mc gb : Bool) (mask cluster scratch : Nat) (o : CopyOps) : Option (Nat × Nat) :=
  let t := copyBytes o.shape
  let barr (r : List (Nat × Nat)) : List (Nat × Nat) := match o.bar with
    | some b => r ++ [(b, 16)]
    | none => r
  let badAlign := (barr [(o.dst, 32), (o.src, 32)]).find? (fun (x : Nat × Nat) => decide (x.1 % x.2 ≠ 0))
  let ends : List (Nat × Nat) :=
    (if dir = .g2s ∨ dir = .s2x then [(o.dst, t)] else []) ++ (if dir = .s2g ∨ dir = .s2x then [(o.src, t)] else [])
  let scr : List (Nat × Nat) := if dir = .g2g ∨ gb = true then ends else barr ends
  let glob : List Nat := (if dir = .s2g ∨ dir = .g2g then [o.dst] else []) ++ (if dir = .g2s ∨ dir = .g2g then [o.src] else [])
  if !shapeOk (decide (dir ≠ .g2g)) (decide (dir = .s2x)) o.shape then some (cIllegalOperand, o.shape % 2 ^ 32)
  else match badAlign with
    | some x => some (cAlign, x.1)
    | none =>
      if dir ≠ .g2g ∧ mc = true ∧ (mask = 0 ∨ 2 ^ cluster ≤ mask) then some (cMulticast, mask)
      else match scr.find? (fun (x : Nat × Nat) => decide (x.1 + x.2 > scratch)) with
        | some x => some (cCopyBounds, x.1)
        | none =>
          let bar := if dir = .g2g ∨ gb = true then o.bar.bind (fun b => badByte b 16) else none
          ((glob.findSome? (fun b => firstBad b o.shape)).orElse (fun _ => bar)).map (fun a => (cPermission, a))

def Env.copyMc (e : Env) : Bool := e.opc == 0xD0 && bit e.sub 2
def Env.copyGb (e : Env) : Bool := e.opc == 0xD1 || bit e.sub 3
def Env.copyMask (e : Env) : Nat := if e.copyMc then e.f.lit.toNat % 256 else 0

/-- Entries of a team's copy queue in use (R204, R209). -/
def Team.queueUsed (t : Team) : Nat := t.copies.length

/-- CPY and CPYG (R203, R204): the checks, then entries for every performing lane or none; without room the issue does
not take place and the group is passed over. -/
def copyBody (e : Env) : State :=
  let ls := e.perf.filter (fun l => !(e.lane l).demoted)
  let chk (l : Nat) := copyChk e.copyDir e.copyMc (e.copyGb && e.copyDir == .s2g) e.copyMask e.grid.kcb.cluster e.grid.kcb.scratch (e.copyOps l)
  match ls.filterMap (fun l => (chk l).map (fun x => (l, x.1, x.2))) with
  | [] =>
    if e.grid.kcb.copyq < e.team.queueUsed + ls.length then
      e.s.updGroup e.grid.tag e.team.idx e.grp.num (fun g => { g with blocked := ls.length })
    else
      let mk (i l : Nat) : Copy :=
        let o := e.copyOps l
        { seq := (e.team.nextSeq + i) % 2 ^ 32, hint := false, dir := e.copyDir, mc := e.copyMc, gb := e.copyGb, mask := e.copyMask,
          src := o.src, dst := o.dst, shape := o.shape, bar := o.bar, lane := e.flat l, pc := e.pc, made := 0, sigs := 0,
          faulted := false, stamp := e.s.nextId + i, after := e.afterOf (maskOf [l]), wait := none, buf := none, hold := none }
      let new := ls.mapIdx mk
      let s1 := e.s.updTeam e.grid.tag e.team.idx (fun t =>
        let seq := (t.nextSeq + new.length) % 2 ^ 32
        { t with copies := t.copies ++ new, nextSeq := seq })
      e.retire { s1 with nextId := s1.nextId + new.length } noTarget
  | fs => e.fail fs

/-- CPYHINT (R209): dropped whole without a free entry or when it fails R203. -/
def hintBody (e : Env) : State :=
  let ls := e.perf.filter (fun l => !(e.lane l).demoted)
  let add (s : State) (l : Nat) : State :=
    let ok := shapeOk false false (e.b64 l) && e.a64 l % 32 == 0 && (firstBad (e.a64 l) (e.b64 l)).isNone
    match s.team? e.grid.tag e.team.idx with
    | none => s
    | some t =>
      if !ok || e.grid.kcb.copyq ≤ t.queueUsed then s
      else
        let c : Copy :=
        { seq := s.nextId, hint := true, dir := .g2g, mc := false, gb := false, mask := 0, src := e.a64 l, dst := 0,
          shape := e.b64 l, bar := none, lane := e.flat l, pc := e.pc, made := 0, sigs := 0, faulted := false, stamp := s.nextId,
          after := [], wait := none, buf := none, hold := none }
        (s.updTeam e.grid.tag e.team.idx (fun t => { t with copies := t.copies ++ [c] })).fresh
  e.retire (ls.foldl add e.s) noTarget

/-- CPYSTAT (R210): the queue read, an acquire of complete copies. -/
def statVal (t : Team) (sel : Nat) : Nat :=
  let cs := t.copies.filter (fun c => !c.hint)
  match sel with
  | 0 => cs.length
  | 1 => t.nextSeq
  | _ => match cs with
    | c :: _ => c.seq
    | [] => t.nextSeq
def cpystatBody (e : Env) : State := variable_ (fun e l => e.wr32 l (statVal e.team e.sub)) { e with s := e.s.dropL1 e.team.core }

/-! ### A barrier object and its waiters (R213, R218) -/

def xbPhase (o : Nat) : Nat := o % 16
def xbValid (o : Nat) : Bool := bit o 4
def xbPoison (o : Nat) : Bool := bit o 5
def xbScope (o : Nat) : Nat := bits o 7 6
def xbApend (o : Nat) : Int := sgn 24 (bits o 31 8)
def xbSpend (o : Nat) : Int := sgn 32 (bits o 63 32)
def xbReload (o : Nat) : Nat := bits o 87 64
def xbTag (o : Nat) : Nat := bits o 111 88
/-- The object with new counts. -/
def xbCounts (o : Nat) (a d : Int) : Nat := o % 256 + put 8 (wrap 24 a) + put 32 (wrap 32 d) + put 64 (o / 2 ^ 64)
/-- `done` of R218. -/
def xbDone (o p : Nat) : Bool := xbPhase o ≠ p || xbPoison o

/-- A waiter leaves XBWAIT: its poison predicate is written and it runs (R218). -/
def Lane.wake (l : Lane) (w : XWait) (o : Nat) : Lane :=
  let pr := match w.pd with
    | none => l.p
    | some n => if xbPoison o then l.p ||| ((1#96) <<< n) else l.p &&& ~~~ ((1#96) <<< n)
  { l with st := .running, p := pr }
/-- The acquire of an observation that found the phase done, unpoisoned (R218): also at team scope the deliveries of the
team's copies, which do not pass through the L1, become visible (R250, R262). -/
def State.xbAcquire (s : State) (core o : Nat) : State := if xbPoison o then s else s.dropL1 core

/-- Waiters of one group whose object the `n` bytes at `loc` meet observe again. -/
def wakeGroup (s : State) (loc : Loc) (n : Nat) (g : Group) : State :=
  (List.range g.lanes.length).foldl (fun (s : State) l =>
    match (g.lanes.getD l default).st with
    | .atXbar w =>
      let o := s.readNAt w.loc 16
      if w.armed && w.loc.meets 16 loc n && xbDone o w.phase then
        (s.updLane g.tag g.team g.num l (fun x => x.wake w o)).xbAcquire (s.coreOf g.tag g.team) o
      else s
    | _ => s) s
/-- Waiters on any object that a write of `n` bytes at a place touches observe again (R215, R218). -/
def State.wakeXb (s : State) (loc : Loc) (n : Nat) : State :=
  s.groups.foldl (fun (s : State) g => wakeGroup s loc n g) s

/-- LDG: a global load leaves (R190 to R192). -/
def execLdg (f : Fields) (s : State) : Host.Outcome State Fault Refusal := .next (issue s 0xB0 f (loadBody .global))

/-- STG: a global store leaves (R192). -/
def execStg (f : Fields) (s : State) : Host.Outcome State Fault Refusal := .next (issue s 0xB1 f (storeBody .global))

/-- LDS: a scratchpad load leaves (R192). -/
def execLds (f : Fields) (s : State) : Host.Outcome State Fault Refusal := .next (issue s 0xB2 f (loadBody .own))

/-- STS: a scratchpad store leaves (R192). -/
def execSts (f : Fields) (s : State) : Host.Outcome State Fault Refusal := .next (issue s 0xB3 f (storeBody .own))

/-- LDX: a cluster load leaves (R193). -/
def execLdx (f : Fields) (s : State) : Host.Outcome State Fault Refusal := .next (issue s 0xB4 f (loadBody .cluster))

/-- STX: a cluster store leaves (R193). -/
def execStx (f : Fields) (s : State) : Host.Outcome State Fault Refusal := .next (issue s 0xB5 f (storeBody .cluster))

/-- ATOMG: a global atomic leaves (R196). -/
def execAtomg (f : Fields) (s : State) : Host.Outcome State Fault Refusal := .next (issue s 0xB8 f (atomBody .global false true))

/-- CASG: a global compare-and-swap leaves (R196). -/
def execCasg (f : Fields) (s : State) : Host.Outcome State Fault Refusal := .next (issue s 0xB9 f (atomBody .global true true))

/-- REDG: a global reduction leaves (R196, R298). -/
def execRedg (f : Fields) (s : State) : Host.Outcome State Fault Refusal := .next (issue s 0xBA f (atomBody .global false false))

/-- ATOMS: a scratchpad atomic leaves (R196). -/
def execAtoms (f : Fields) (s : State) : Host.Outcome State Fault Refusal := .next (issue s 0xBB f (atomBody .own false true))

/-- CASS: a scratchpad compare-and-swap leaves (R196). -/
def execCass (f : Fields) (s : State) : Host.Outcome State Fault Refusal := .next (issue s 0xBC f (atomBody .own true true))

/-- REDS: a scratchpad reduction leaves (R196). -/
def execReds (f : Fields) (s : State) : Host.Outcome State Fault Refusal := .next (issue s 0xBD f (atomBody .own false false))

/-- FENCE: an ordering point (R198). -/
def execFence (f : Fields) (s : State) : Host.Outcome State Fault Refusal := .next (issue s 0xC0 f (fenceBody))

/-- IFENCE: fetches that follow see the stores that precede it (R199). -/
def execIfence (f : Fields) (s : State) : Host.Outcome State Fault Refusal := .next (issue s 0xC1 f (ifenceBody))

/-- LDK: a parameter or constant (R179). -/
def execLdk (f : Fields) (s : State) : Host.Outcome State Fault Refusal := .next (issue s 0xF2 f (ldkBody))

/-- PREF: a prefetch (R200). -/
def execPref (f : Fields) (s : State) : Host.Outcome State Fault Refusal := .next (issue s 0xC2 f (cacheBody true))

/-- CCTL: a cache operation (R200). -/
def execCctl (f : Fields) (s : State) : Host.Outcome State Fault Refusal := .next (issue s 0xC3 f (cacheBody false))

/-- CPY: copies posted (R201 to R204). -/
def execCpy (f : Fields) (s : State) : Host.Outcome State Fault Refusal := .next (issue s 0xD0 f (copyBody))

/-- CPYG: global copies posted (R208). -/
def execCpyg (f : Fields) (s : State) : Host.Outcome State Fault Refusal := .next (issue s 0xD1 f (copyBody))

/-- CPYHINT: hints posted (R209). -/
def execCpyhint (f : Fields) (s : State) : Host.Outcome State Fault Refusal := .next (issue s 0xD2 f (hintBody))

/-- CPYSTAT: the copy queue read (R210). -/
def execCpystat (f : Fields) (s : State) : Host.Outcome State Fault Refusal := .next (issue s 0xD3 f (cpystatBody))

/-- XBINIT: a barrier object written (R215). -/
def execXbinit (f : Fields) (s : State) : Host.Outcome State Fault Refusal := .next (issue s 0xD4 f (xbinitBody))

/-- XBEXPECT: sectors announced (R216). -/
def execXbexpect (f : Fields) (s : State) : Host.Outcome State Fault Refusal := .next (issue s 0xD5 f (xbexpectBody))

/-- XBARRIVE: arrivals signalled (R216). -/
def execXbarrive (f : Fields) (s : State) : Host.Outcome State Fault Refusal := .next (issue s 0xD6 f (xbarriveBody))

/-- XBWAIT: lanes park until the phase is done (R218). -/
def execXbwait (f : Fields) (s : State) : Host.Outcome State Fault Refusal := .next (issue s 0xD7 f (xbwaitBody))

/-- XBTEST: a phase observed (R218). -/
def execXbtest (f : Fields) (s : State) : Host.Outcome State Fault Refusal := .next (issue s 0xD8 f (xbtestBody))

/-- BARW: arrival and wait at a team barrier (R220). -/
def execBarw (f : Fields) (s : State) : Host.Outcome State Fault Refusal := .next (issue s 0xD9 f (barBody true))

/-- BARA: arrival at a team barrier (R220). -/
def execBara (f : Fields) (s : State) : Host.Outcome State Fault Refusal := .next (issue s 0xDA f (barBody false))

/-- CBARW: arrival and wait at the cluster barrier (R220). -/
def execCbarw (f : Fields) (s : State) : Host.Outcome State Fault Refusal := .next (issue s 0xDB f (cbarBody true))

/-- CBARA: arrival at the cluster barrier (R220). -/
def execCbara (f : Fields) (s : State) : Host.Outcome State Fault Refusal := .next (issue s 0xDC f (cbarBody false))

end Sys2Proof.Machine
end

