-- ==== Sys2Proof/Machine/Matrix.lean ====
section
/-! DEFINITION. Matrix instructions (R223 to R243): arrivals, operand reads, the checks and the arithmetic of R108 to
R117, tiles and their shadows; and the ternary and quantising instructions (R244, R245). -/

namespace Sys2Proof.Machine

/-! ### Arrivals (R223, R168) -/

def srcMma (e : Env) (l : Nat) : Nat × Nat × Nat := (e.a64 l, e.b64 l, e.c32 l)
def srcNone (_ : Env) (_ : Nat) : Nat × Nat × Nat := (0, 0, 0)
/-- ADRAIN keeps the window base of the lane, which places its status register. -/
def srcDrain (e : Env) (l : Nat) : Nat × Nat × Nat := (e.a64 l, e.b32 l, (e.lane l).w0)
def srcDesc (e : Env) (l : Nat) : Nat × Nat × Nat := (e.a64 l, 0, 0)
def srcE (e : Env) (l : Nat) : Nat × Nat × Nat := (e.a32 l, 0, 0)

/-! ### Descriptors and format words (R226 to R230) -/

def dBase (d : Nat) : Nat := bits d 18 0
def dRot (d : Nat) : Nat := bits d 21 19
def dPitch (d : Nat) : Nat := bits d 45 32
def dTpitch (d : Nat) : Nat := bits d 63 46
/-- addr(d, r, b) of R227, from a base. -/
def dAddr (base d r b : Nat) : Nat :=
  let p := dPitch d * 32
  base + r * p + (if dRot d = 0 then b else (b + 32 * (r % 2 ^ dRot d)) % p)
/-- Whether a descriptor keeps R226, its alignment apart. -/
def descOk (steer : Bool) (rowLen d : Nat) : Bool :=
  dBase d < Config.scratchBytes && bits d 31 22 == 0 && 1 ≤ dPitch d && dPitch d ≤ 12288 &&
  (if steer then decide (dTpitch d ≤ 12288) else dTpitch d == 0) && decide (rowLen ≤ dPitch d * 32)

def wFa (w : Nat) : Nat := bits w 3 0
def wFb (w : Nat) : Nat := bits w 7 4
def wTa (w : Nat) : Bool := bit w 8
def wTb (w : Nat) : Bool := bit w 9
def wNg (w : Nat) : Nat := bits w 22 16
/-- Group length, WA and WB of an admitted pair (R108). -/
def pairOf (fb fa : Nat) : Option (Nat × Nat × Nat) :=
  if fb = 7 then (if fa ≤ 1 then some (160, 12, 0) else if fa = 4 then some (160, 8, 0)
    else if fa = 2 ∨ fa = 3 then some (160, 16, 0) else none)
  else if fb ≤ 1 ∧ fa ≤ 1 then some (32, 12, 6)
  else if fb ≠ fa then none
  else match fa with
    | 2 => some (32, 16, 9) | 3 => some (32, 16, 9) | 4 => some (32, 8, 9) | 5 => some (32, 6, 3) | 6 => some (32, 12, 6)
    | _ => none
/-- Bytes of `n` elements of a format in one row (R228). -/
def rowBytes (fmt n : Nat) : Nat := match fmt with
  | 2 => 2 * n | 3 => 2 * n | 5 => n / 2 | 7 => n / 5 | _ => n
def isMx (fmt : Nat) : Bool := fmt == 5 || fmt == 6
def noTranspose (fmt : Nat) : Bool := fmt == 5 || fmt == 6 || fmt == 7

/-- Element `k` of a row of bytes (R95, R106, R228). -/
def elemAt (fmt : Nat) (row : List Byte) (k : Nat) : Val :=
  let b (i : Nat) := (row.getD i 0#8).toNat
  match fmt with
  | 0 => Fmt.e4m3.val (b k)
  | 1 => Fmt.e5m2.val (b k)
  | 2 => Fmt.bf16.val (b (2 * k) + 256 * b (2 * k + 1))
  | 3 => Fmt.fp16.val (b (2 * k) + 256 * b (2 * k + 1))
  | 4 => Val.ofInt (sgn 8 (b k))
  | 5 => Fmt.e2m1.val (b (k / 2) / 16 ^ (k % 2) % 16)
  | 6 => Fmt.e4m3.val (b k)
  | _ => Val.ofInt (t5Digit (b (k / 5)) (k % 5))
/-- The elements along k of tile index `i`. -/
def vecAt (fmt : Nat) (tr : Bool) (rows : List (List Byte)) (kk i : Nat) : List Val :=
  if tr then (List.range kk).map (fun k => elemAt fmt (rows.getD k []) i)
  else (List.range kk).map (fun k => elemAt fmt (rows.getD i []) k)

/-! ### Group values (R109, R110) -/

/-- e(x) of a finite non-zero value (R109). -/
def eOf : Val → Option Int
  | .fin r => if r.mant = 0 then none else some ((r.mant.log2 : Int) + 1 + r.exp)
  | _ => none
def eMax (l : List Val) : Option Int := l.foldl (fun m v => match m, eOf v with
  | some a, some b => some (max a b)
  | none, b => b
  | a, none => a) none
/-- trunc(x × 2^n). -/
def truncScaled (n : Int) : Val → Int
  | .fin r =>
    let k := r.exp + n
    let m : Nat := if 0 ≤ k then r.mant <<< k.toNat else r.mant >>> (-k).toNat
    if r.neg then -(m : Int) else m
  | _ => 0
def isFin : Val → Bool
  | .fin _ => true
  | _ => false
/-- group_value of R110 over one group's elements; a scale is none for the NaN scale. -/
def groupValue (fa fb wa wb : Nat) (as bs : List Val) (sa sb : Option Int) : Val :=
  match sa, sb with
  | some xa, some xb =>
    if !(as.all isFin && bs.all isFin) then .nan false
    else match eMax as, eMax bs with
      | some ma, some mb =>
        let ea : Int := if fa = 4 then (wa : Int) - 1 else ma
        let p := as.map (truncScaled ((wa : Int) - 1 - ea))
        let (q, f) : List Int × Int :=
          if fb = 7 then (bs.map (truncScaled 0), ea - wa + 1)
          else
            let eb : Int := if fb = 4 then (wb : Int) - 1 else mb
            (bs.map (truncScaled ((wb : Int) - 1 - eb)), ea + eb - wa - wb + 2)
        .fin (Rl.ofInt false ((List.zipWith (· * ·) p q).foldl (· + ·) 0) (f + xa + xb))
      | _, _ => Val.ofInt 0
  | _, _ => .nan false

/-! ### Tiles (R112 to R117) -/

def Tile.at (t : Tile) (k : Nat) : BitVec 128 := Sparse.get 0#128 t.elem k
def Tile.isNan (t : Tile) (k : Nat) : Bool := Sparse.get false t.nan k
/-- An element written; it is no longer poisoned (R255, log 16). -/
def Tile.put (t : Tile) (k : Nat) (x : BitVec 128) : Tile :=
  { t with elem := Sparse.set 0#128 t.elem k x, spoilt := t.spoilt.filter (fun i => i ≠ k) }
def Tile.mark (t : Tile) (k : Nat) : Tile := { t with nan := Sparse.set false t.nan k true }
/-- AZERO (R112, R239): E is unchanged. -/
def Tile.zero (t : Tile) : Tile := { t with elem := [], nan := [], flag := false, spoilt := [] }
/-- fp32_add of R113. -/
def Tile.addFp (t : Tile) (k : Nat) (g : Val) : Tile :=
  t.put k (BitVec.ofNat 128 (roundOp .fp32 .rne false (Val.add .rne (f32 (t.at k).toNat) g)).1)
/-- exact_add of R114; an infinite value never reaches it. -/
def Tile.addExact (t : Tile) (k : Nat) (g : Val) : Tile :=
  match g with
  | .fin r =>
    let w := truncScaled (-t.e) g
    let below := decide (r.exp < t.e) && decide (r.mant % 2 ^ (t.e - r.exp).toNat ≠ 0)
    let v := (t.at k).toInt + w
    let above := decide (v < -(2 ^ 127)) || decide (2 ^ 127 ≤ v)
    { t.put k (BitVec.ofInt 128 v) with flag := t.flag || below || above }
  | _ => t.mark k
def Tile.add (t : Tile) (k : Nat) (g : Val) : Tile := if t.exact then t.addExact k g else t.addFp k g
/-- The value an element holds. -/
def Tile.val (t : Tile) (k : Nat) : Val :=
  if t.exact then (if t.isNan k then .nan false else .fin (Rl.ofInt false (t.at k).toInt t.e)) else f32 (t.at k).toNat
/-- AMERGE's element and tile rules (R117), every source value read first. -/
def Tile.merge (d s : Tile) : Tile :=
  let step (k : Nat) (t : Tile) : Tile :=
    if s.exact then
      let t1 := if s.isNan k then t.mark k else t
      t1.addExact k (.fin (Rl.ofInt false (s.at k).toInt s.e))
    else t.addFp k (f32 (s.at k).toNat)
  let t := forN (d.rows * d.cols) step d
  { t with flag := t.flag || s.flag }
/-- ALOAD's element (R242). -/
def Tile.loadElem (t : Tile) (k x : Nat) : Tile :=
  if !t.exact then
    match f32 x with
    | .nan _ => t.put k (BitVec.ofNat 128 Fmt.fp32.nanEnc)
    | _ => t.put k (BitVec.ofNat 128 x)
  else
    let t1 : Tile := { t.put k 0#128 with nan := Sparse.set false t.nan k false }
    match f32 x with
    | .nan _ => t1.mark k
    | .inf _ => { t1.mark k with flag := true }
    | v => t1.addExact k v

/-- ADRAIN's output formats (R238), with their size; none for an integer. -/
def drainSize (f : Nat) : Nat := match f with
  | 0 => 4 | 1 => 2 | 2 => 2 | 6 => 4 | _ => 1
/-- drain of R116 for one element, and whether its input or product was NaN. -/
def drainVal (t : Tile) (f : Nat) (mode : Rnd) (sat : Bool) (k : Nat) (c : Val) : Nat × Bool :=
  let x := t.val k
  let y := (Val.mul x c).1
  let nan (v : Val) := match v with
    | .nan _ => true
    | _ => false
  let out := match f with
    | 0 => (round .fp32 mode sat y).1 | 1 => (round .fp16 mode sat y).1 | 2 => (round .bf16 mode sat y).1
    | 3 => (round .e4m3 mode sat y).1 | 4 => (round .e5m2 mode sat y).1
    | 5 => (roundInt 8 true mode sat y).1
    | _ => (roundInt 32 true mode sat y).1
  (out, nan x || nan y)

/-! ### Reading operands -/

/-- The bytes of a row of an operand of a team. -/
def State.rowAt (s : State) (t : Team) (base d len r : Nat) : List Byte :=
  (List.range len).map (fun b => s.scratch.read (scrKey t.core (t.base + dAddr base d r b)))
def State.rowsAt (s : State) (t : Team) (base d rows len : Nat) : List (List Byte) :=
  (List.range rows).map (s.rowAt t base d len)
def State.teamByte (s : State) (t : Team) (off : Nat) : Nat := (s.scratch.read (scrKey t.core (t.base + off))).toNat
/-- The lowest offset of [b, b + n) at or beyond a bound. -/
def beyond (scratch : Nat) (r : Nat × Nat) : Option Nat :=
  if r.2 ≠ 0 ∧ scratch < r.1 + r.2 then some (max r.1 scratch) else none
def lowest (l : List Nat) : Option Nat := l.foldl (fun m x => match m with
  | some y => some (min x y)
  | none => some x) none

/-- The fault of a matrix instance: code, lane, address, and the further faults that COUNT holds (R231). -/
structure MatFault where
  code : Nat
  lane : Nat
  addr : Nat
  extra : Nat
  deriving DecidableEq, Repr, Inhabited

/-- Guard-true participants, ascending. -/
def MatInst.act (m : MatInst) : List Arrival := m.arrivals.filter (·.guard)
def MatInst.lead (m : MatInst) : Arrival := m.act.headD { lane := 0, guard := false, a := 0, b := 0, c := 0 }
def MatInst.fail (m : MatInst) (code addr : Nat) : MatFault := { code := code, lane := m.lead.lane, addr := addr, extra := 0 }

/-- What an MMA or MMAG is asked to do, from its lowest guard-true participant. -/
structure MatReq where
  w : Nat
  da : Nat
  db : Nat
  aux : Nat
  mmag : Bool
  m : Nat
  n : Nat
  g : Nat
  wa : Nat
  wb : Nat
  deriving DecidableEq, Repr, Inhabited

def MatReq.k (r : MatReq) : Nat := wNg r.w * r.g
def MatReq.rowsA (r : MatReq) : Nat := if wTa r.w then r.k else r.m
def MatReq.lenA (r : MatReq) : Nat := rowBytes (wFa r.w) (if wTa r.w then r.m else r.k)
def MatReq.rowsB (r : MatReq) : Nat := if wTb r.w then r.k else r.n
def MatReq.lenB (r : MatReq) : Nat := rowBytes (wFb r.w) (if wTb r.w then r.n else r.k)
def MatReq.tab (r : MatReq) : Nat := bits r.aux 18 0
def MatReq.sa (r : MatReq) : Nat := bits r.aux 37 19
def MatReq.sb (r : MatReq) : Nat := bits r.aux 56 38
def MatReq.mx (r : MatReq) : Bool := isMx (wFa r.w)
def MatReq.blocks (r : MatReq) : Nat := r.m / 16

/-- The request as its words say, when R230 and R108 admit it for the tile. -/
def matReq (i : MatInst) (t : Tile) : Option MatReq :=
  let a := i.lead
  let w := a.c
  let dim (x : Nat) : Nat := if x = 0 then 16 else if x = 1 then 32 else if x = 2 then 64 else 0
  match pairOf (wFb w) (wFa w) with
  | none => none
  | some (g, wa, wb) =>
    let r : MatReq := { w := w, da := a.a, db := a.b, aux := i.f.lit.toNat, mmag := decide (i.opc = 0xE1), m := dim (bits w 13 12),
                        n := dim (bits w 15 14), g := g, wa := wa, wb := wb }
    if bits w 11 10 ≤ 1 ∧ r.m = t.rows ∧ r.n = t.cols ∧ 1 ≤ wNg w ∧ wNg w ≤ 64 ∧ bits w 31 23 = 0 ∧
       !(wTa w && noTranspose (wFa w)) ∧ !(wTb w && noTranspose (wFb w)) ∧ (r.mx ∨ (r.sa = 0 ∧ r.sb = 0)) ∧
       descOk false r.lenA r.da ∧ descOk r.mmag r.lenB r.db then some r else none

/-- Offset of a table entry, and the entry. -/
def MatReq.entryAt (r : MatReq) (q : Nat) : Nat := r.tab + 4 * q
def State.tabEntry (s : State) (t : Team) (r : MatReq) (q : Nat) : Nat :=
  s.scratch.readN (scrKey t.core (t.base + r.entryAt q)) 4
/-- The TILE of each row block: 0 for an MMA (R235). -/
def State.tabOf (s : State) (t : Team) (r : MatReq) : List Nat :=
  if r.mmag then (List.range r.blocks).map (fun q => s.tabEntry t r q % 65536) else []
def MatReq.baseB (r : MatReq) (tile : Nat) : Nat := dBase r.db + (if r.mmag then tile * dTpitch r.db * 32 else 0)
/-- The steering tiles that row blocks select, one for each row block (one for all of an MMA). -/
def MatReq.selected (r : MatReq) (tab : List Nat) : List Nat := if r.mmag then tab.filter (fun x => x ≠ 0xFFFF) else [0]

/-- Checks 2 to 4 of R231 for MMA and MMAG; a poisoned table entry is found as it is read (R255). -/
def matCheck (s : State) (t : Team) (scratch : Nat) (i : MatInst) (tile : Tile) : Except MatFault MatReq :=
  match matReq i tile with
  | none => .error (i.fail cIllegalOperand i.lead.c)
  | some r =>
    let inside := (List.range r.blocks).filter (fun q => decide (r.entryAt q + 4 ≤ scratch))
    let badEntry := if r.mmag then inside.find? (fun q => decide (65536 ≤ s.tabEntry t r q)) else none
    match (if r.mmag then inside.find? (fun q => s.poisoned (t.place (r.entryAt q)) 4) else none), badEntry with
    | some q, _ => .error (i.fail cEcc (r.entryAt q))
    | none, some q => .error (i.fail cIllegalOperand (r.entryAt q))
    | none, none =>
      match ([dBase r.da, dBase r.db, r.tab, r.sa, r.sb] : List Nat).find? (fun x => decide (x % 32 ≠ 0)) with
      | some x => .error (i.fail cAlign x)
      | none =>
        let tiles := if r.mmag then (inside.map (fun q => s.tabEntry t r q % 65536)).filter (fun x => x ≠ 0xFFFF) else [0]
        let ranges : List (Nat × Nat) := [(dBase r.da, r.rowsA * dPitch r.da * 32)] ++
          tiles.map (fun x => (r.baseB x, r.rowsB * dPitch r.db * 32)) ++
          (if r.mmag then [(r.tab, 4 * r.blocks)] else []) ++
          (if r.mx then [(r.sa, r.m * wNg r.w)] ++ tiles.map (fun x => (r.sb + x * r.n * wNg r.w, r.n * wNg r.w)) else [])
        match lowest (ranges.filterMap (beyond scratch)) with
        | some x => .error (i.fail cScratch x)
        | none => .ok r

/-- Whether a reuse mark takes effect on A, on B (R236). Bytes that a change of the other operand's format asks for beyond those read before
are 0 (log 111). -/
def reuseA (u : Option MatUse) (i : MatInst) (r : MatReq) : Option (List (List Byte)) :=
  match u with
  | none => none
  | some u =>
    if i.f.ctl.getLsbD 3 && u.grp == i.grp && !i.canonSince && u.da == r.da && wFa u.fmt == wFa r.w && wTa u.fmt == wTa r.w &&
       wNg u.fmt == wNg r.w && bits u.fmt 13 12 == bits r.w 13 12 then some u.aRows else none
def reuseB (u : Option MatUse) (i : MatInst) (r : MatReq) (tab : List Nat) : Option (List (List (List Byte))) :=
  match u with
  | none => none
  | some u =>
    if i.f.ctl.getLsbD 4 && u.grp == i.grp && !i.canonSince && u.db == r.db && wFb u.fmt == wFb r.w && wTb u.fmt == wTb r.w &&
       wNg u.fmt == wNg r.w && bits u.fmt 15 14 == bits r.w 15 14 && u.table == tab then some u.bRows else none

/-- The lowest offset of an operand's read bytes that a test finds. -/
def findByte (base d rows len : Nat) (p : Nat → Bool) : Option Nat :=
  lowest ((List.range rows).filterMap (fun r => lowest (((List.range len).map (dAddr base d r)).filter p)))

/-- The lowest read offset of poisoned data (R255). -/
def State.poisonIn (s : State) (t : Team) (base d rows len : Nat) : Option Nat :=
  if s.poison.isEmpty then none else findByte base d rows len (fun o => s.poisoned (t.place o) 1)

/-- The lowest poisoned offset of some ranges (R255). -/
def State.poisonAt (s : State) (t : Team) (ranges : List (Nat × Nat)) : Option Nat :=
  if s.poison.isEmpty then none else
  lowest (ranges.filterMap (fun x => ((List.range x.2).map (fun i => x.1 + i)).find? (fun o => s.poisoned (t.place o) 1)))
/-- The scale arrays that an MX instance reads (R229). -/
def MatReq.scales (r : MatReq) (live : List Nat) : List (Nat × Nat) :=
  if r.mx then (r.sa, r.m * wNg r.w) :: live.map (fun x => (r.sb + x * r.n * wNg r.w, r.n * wNg r.w)) else []
/-- Whether the instance adds to a poisoned element of its tile (R255). -/
def MatReq.spoilt (r : MatReq) (tab : List Nat) (x : Tile) : Bool :=
  bits r.w 11 10 ≠ 1 && x.spoilt.any (fun k => !(r.mmag && tab.getD (k / r.n / 16) 0xFFFF == 0xFFFF))

/-- The product of a row of A and a column of B, added group by group into element k (R233). -/
def mmaElem (s : State) (t : Team) (r : MatReq) (av bv : List Val) (i j tile : Nat) (k : Nat) (x : Tile) : Tile :=
  let ng := wNg r.w
  let scale (off : Nat) : Option Int := if r.mx then e8m0 (s.teamByte t off) else some 0
  forN ng (fun g x => x.add k (groupValue (wFa r.w) (wFb r.w) r.wa r.wb ((av.drop (g * r.g)).take r.g) ((bv.drop (g * r.g)).take r.g)
    (scale (r.sa + i * ng + g)) (scale (r.sb + tile * r.n * ng + j * ng + g)))) x

/-- An MMA or MMAG on its tile (R233, R235). -/
def mmaTile (s : State) (t : Team) (r : MatReq) (tab : List Nat) (aRows : List (List Byte)) (bRows : List (List (List Byte))) (x : Tile) : Tile :=
  let x0 := if bits r.w 11 10 = 1 then x.zero else x
  let vb := bRows.map (fun rows => (List.range r.n).map (vecAt (wFb r.w) (wTb r.w) rows r.k))
  forN r.m (fun i x =>
    let av := vecAt (wFa r.w) (wTa r.w) aRows r.k i
    let q := if r.mmag then i / 16 else 0
    let tile := if r.mmag then tab.getD q 0xFFFF else 0
    if r.mmag && tile == 0xFFFF then x else
    forN r.n (fun j x => mmaElem s t r av ((vb.getD q []).getD j []) i j tile (i * r.n + j) x) x) x0

/-! ### Instances taking effect (R225) -/

def Team.tile (t : Team) (n : Nat) : Tile := t.tiles.getD n default
def Team.setTile (t : Team) (n : Nat) (x : Tile) : Team := { t with tiles := updAt (fun _ => x) n t.tiles }

/-- A matrix fault, taken: the record, and the team stops with what is left of its order (R231, R332). -/
def State.matFault (s : State) (tag team : Nat) (i : MatInst) (x : MatFault) : State :=
  match s.group? tag team i.grp with
  | none => s
  | some g =>
    ((s.raise tag [{ faultRec g x.lane x.code i.pc x.addr with extra := x.extra }]).updTeam tag team (fun t =>
      { t with stopped := true, matq := [] })).undrain tag team i.grp

/-- The instance leaves the matrix order; its participants' wait ends. -/
def State.matDone (s : State) (tag team : Nat) (i : MatInst) (use : Option MatUse) : State :=
  (s.updTeam tag team (fun t => { t with matq := t.matq.filter (fun x => x.id ≠ i.id), lastMat := use })).undrain tag team i.grp

/-- MMA and MMAG (R231, R233 to R236). Every operand byte is read at one instant, so a race shows no mixture (log 8). -/
def mmaEffect (s : State) (gr : Grid) (t : Team) (i : MatInst) : State :=
  let diff := i.act.filter (fun a => a.c ≠ i.lead.c)
  match diff with
  | a :: rest => s.matFault gr.tag t.idx i { code := cFormat, lane := a.lane, addr := a.c, extra := rest.length }
  | [] =>
    let n := i.f.d.toNat
    match matCheck s t gr.kcb.scratch i (t.tile n) with
    | .error x => s.matFault gr.tag t.idx i x
    | .ok r =>
      let tab := s.tabOf t r
      let sel := if r.mmag then tab else [0]
      let ra := reuseA t.lastMat i r
      let rb := reuseB t.lastMat i r tab
      let live := sel.filter (fun x => !(r.mmag && x == 0xFFFF))
      let psn := (if ra.isSome then [] else (s.poisonIn t (dBase r.da) r.da r.rowsA r.lenA).toList) ++
        (if rb.isSome then [] else live.filterMap (fun x => s.poisonIn t (r.baseB x) r.db r.rowsB r.lenB)) ++
        (s.poisonAt t (r.scales live)).toList ++ (if r.spoilt tab (t.tile n) then [0] else [])
      match lowest psn with
      | some o => s.matFault gr.tag t.idx i (i.fail cEcc o)
      | none =>
        let bad := if wFb r.w = 7 ∧ rb.isNone then
            lowest (live.filterMap (fun x => findByte (r.baseB x) r.db r.rowsB r.lenB (fun o => t5Illegal (s.teamByte t o)))) else none
        match bad with
        | some o => s.matFault gr.tag t.idx i (i.fail cT5 o)
        | none =>
          let aRows := ra.getD (s.rowsAt t (dBase r.da) r.da r.rowsA r.lenA)
          let bRows := rb.getD (sel.map (fun x => if r.mmag && x == 0xFFFF then [] else s.rowsAt t (r.baseB x) r.db r.rowsB r.lenB))
          let use : MatUse := { grp := i.grp, opc := i.opc, fmt := r.w, da := r.da, db := r.db, table := tab, aRows := aRows, bRows := bRows }
          (s.updTeam gr.tag t.idx (fun t => t.setTile n (mmaTile s t r tab aRows bRows (t.tile n)))).matDone gr.tag t.idx i (some use)

/-- Checks 2 to 4 for ALOAD and ADRAIN: a descriptor, and the column scales when some (R242, R243). -/
def descCheck (scratch rows rowLen d : Nat) (scale : Option (Nat × Nat)) : Option (Nat × Nat) :=
  if !descOk false rowLen d then some (cIllegalOperand, d)
  else if dBase d % 32 ≠ 0 then some (cAlign, dBase d)
  else
    let out := beyond scratch (dBase d, rows * dPitch d * 32)
    match scale with
    | none => out.map (fun o => (cScratch, o))
    | some (off, n) =>
      if off % 32 ≠ 0 then some (cAlign, off)
      else (lowest (out.toList ++ (beyond scratch (off, n)).toList)).map (fun o => (cScratch, o))

def aloadEffect (s : State) (gr : Grid) (t : Team) (i : MatInst) : State :=
  let x := t.tile i.f.d.toNat
  let d := i.lead.a
  match descCheck gr.kcb.scratch x.rows (x.cols * 4) d none with
  | some (c, a) => s.matFault gr.tag t.idx i (i.fail c a)
  | none =>
    match s.poisonIn t (dBase d) d x.rows (x.cols * 4) with
    | some o => s.matFault gr.tag t.idx i (i.fail cEcc o)
    | none =>
      let rows := s.rowsAt t (dBase d) d x.rows (x.cols * 4)
      let y := forN (x.rows * x.cols) (fun k y => y.loadElem k (ofLe (((rows.getD (k / x.cols) []).drop (4 * (k % x.cols))).take 4))) x
      (s.updTeam gr.tag t.idx (fun t => t.setTile i.f.d.toNat y)).matDone gr.tag t.idx i none

/-- ADRAIN (R243). -/
def adrainEffect (s : State) (gr : Grid) (t : Team) (i : MatInst) : State :=
  let n := i.f.sub.toNat % 16
  let x := t.tile n
  let d := i.lead.a
  let of := i.f.c.toNat % 8
  let sz := drainSize of
  let scaled := i.f.b ≠ 0xF0#8
  let off := i.lead.b
  match descCheck gr.kcb.scratch x.rows (x.cols * sz) d (if scaled then some (off, x.cols * 4) else none) with
  | some (c, a) => s.matFault gr.tag t.idx i (i.fail c a)
  | none =>
    if scaled && s.poisoned (t.place off) (x.cols * 4) then s.matFault gr.tag t.idx i (i.fail cEcc off) else
    if !x.spoilt.isEmpty then s.matFault gr.tag t.idx i (i.fail cEcc 0) else
    let cs : List Val := (List.range x.cols).map (fun j =>
      if scaled then f32 (s.scratch.readN (scrKey t.core (t.base + off + 4 * j)) 4) else f32 0x3F800000)
    let outs := (List.range (x.rows * x.cols)).map (fun k =>
      (k, drainVal x of (Rnd.ofField i.f.rnd) i.f.sat k (cs.getD (k % x.cols) (.nan false))))
    let s1 := outs.foldl (fun (s : State) o =>
      forN sz (fun b s =>
        let l := t.place (dAddr (dBase d) d (o.1 / x.cols) (o.1 % x.cols * sz + b))
        (s.writeNAt l 1 (o.2.1 / 256 ^ b % 256)).wakeXb l 1) s) s
    let s2 := if bit i.f.sub.toNat 4 then s1.updTeam gr.tag t.idx (fun t => t.setTile n x.zero) else s1
    let status := b2n (x.exact && x.flag) + 2 * b2n (outs.any (fun o => o.2.2))
    let ws : List (Nat × List Wr) := match Operand.ofField i.f.d with
      | .v k => i.act.map (fun a => (a.lane, [({ dest := .v (a.c + k), val := status } : Wr)]))
      | _ => []
    let s3 := if ws.isEmpty then s2 else s2.addResult
      { id := s2.nextId, tag := gr.tag, team := t.idx, grp := i.grp, issue := i.stamp, uni := false, low := 0, lanes := maskOf (ws.map (·.1)),
        pc := i.pc, writes := ws, flags := [], coll := false }
    s3.matDone gr.tag t.idx i none

/-- ACFG (R239). -/
def acfgEffect (s : State) (gr : Grid) (t : Team) (i : MatInst) : State :=
  let x := t.tile i.f.d.toNat
  let e := sgn 32 i.lead.a
  if x.exact && decide (-2048 ≤ e) && decide (e ≤ 2047) then
    (s.updTeam gr.tag t.idx (fun t => t.setTile i.f.d.toNat { x with e := e })).matDone gr.tag t.idx i none
  else s.matFault gr.tag t.idx i (i.fail cIllegalOperand (wrap 64 e))

def amergeEffect (s : State) (gr : Grid) (t : Team) (i : MatInst) : State :=
  let n := i.f.d.toNat
  if !((t.tile n).spoilt.isEmpty && (t.tile i.f.a.toNat).spoilt.isEmpty) then s.matFault gr.tag t.idx i (i.fail cEcc 0) else
  (s.updTeam gr.tag t.idx (fun t => t.setTile n ((t.tile n).merge (t.tile i.f.a.toNat)))).matDone gr.tag t.idx i none
def azeroEffect (s : State) (gr : Grid) (t : Team) (i : MatInst) : State :=
  (s.updTeam gr.tag t.idx (fun t => t.setTile i.f.d.toNat (t.tile i.f.d.toNat).zero)).matDone gr.tag t.idx i none

/-- Whether what an instance must see has been made: its participants' earlier accesses, those of lanes that have exited since
among them (R50), and what a barrier's release put before theirs (R234, R221). -/
def matReady (s : State) (gr : Grid) (t : Team) (i : MatInst) : Bool :=
  let mine := maskOf (i.arrivals.map (·.lane))
  s.accs.all (fun a => a.tag ≠ gr.tag || a.loose ||
    !(a.team == t.idx && a.grp == i.grp && decide (a.id < i.stamp) && decide (a.by_ &&& mine ≠ 0#64))) &&
  s.made i.after

/-- Whether lanes of a group have arrived at a matrix instruction since their last canonical point (R312). -/
def Group.matrixSet (x : Group) : Bool := x.lanes.any (·.matArr)
/-- Whether a serialise holds an instance that has not begun (R313): until the sets are chosen, and then when the team's matrix set goes
back and no commit marker follows the instance; so does a grid held after one (R311). -/
def State.matHeld (s : State) (gr : Grid) (t : Team) (i : MatInst) : Bool :=
  match gr.ser with
  | none => false
  | some x => x.held || !x.decided || (!(t.marked.contains i.id) &&
      (s.teamGroups gr.tag t.idx).any (fun y => y.matrixSet && !(x.forward.contains (y.team, y.num))))

/-- MATRIX_INSTANCE_EFFECT: the head of the team's matrix order acts (R225); a commit marker has its own step. -/
def matrixEffectAt (s : State) (tag team id : Nat) : State :=
  match s.grid? tag, s.team? tag team with
  | some gr, some t =>
    match t.matq with
    | [] => s
    | i :: _ =>
      if i.id ≠ id ∨ matReady s gr t i = false ∨ s.matHeld gr t i = true then s else
      match i.opc with
      | 0xE0 => mmaEffect s gr t i
      | 0xE1 => mmaEffect s gr t i
      | 0xE2 => azeroEffect s gr t i
      | 0xE3 => s
      | 0xE4 => adrainEffect s gr t i
      | 0xE5 => aloadEffect s gr t i
      | 0xE6 => amergeEffect s gr t i
      | _ => acfgEffect s gr t i
  | _, _ => s

/-- The marker of an identity that may retire: it is the head of the team's matrix order, or the serialiser holds what comes before it, all
of it in other tiles' streams (R240, R313, step 5). -/
def State.marker? (s : State) (gr : Grid) (t : Team) (id : Nat) : Option MatInst :=
  let before := t.matq.takeWhile (fun m => m.id ≠ id)
  (t.matq.find? (fun m => m.id == id && m.opc == 0xE3)).filter (fun i =>
    before.all (fun m => s.matHeld gr t m && !((tilesOf m.opc m.f).contains i.f.d.toNat)))
/-- COMMIT_MARKER_RETIRE (R240): the shadow receives the tile as it stands. -/
def commitAt (s : State) (tag team id : Nat) : State :=
  match s.grid? tag, s.team? tag team with
  | some gr, some t =>
    match s.marker? gr t id with
    | none => s
    | some i =>
      (s.updTeam tag team (fun t => { t with shadows := updAt (fun _ => t.tile i.f.d.toNat) i.f.d.toNat t.shadows })).matDone tag team i none
  | _, _ => s

/-- MATRIX_INSTANCE_EFFECT: an instance takes effect on its tile (R225). -/
def execMatrixInstanceEffect (tag team id : Nat) (s : State) : Host.Outcome State Fault Refusal := .next (matrixEffectAt s tag team id)

/-- COMMIT_MARKER_RETIRE: a commit marker retires (R240). -/
def execCommitMarkerRetire (tag team id : Nat) (s : State) : Host.Outcome State Fault Refusal := .next (commitAt s tag team id)

/-! ### Ternary and quantisation (R244, R245) -/

def sgn1 (x : Nat) : Nat := if x % 256 = 0 then 1 else if x % 256 < 128 then 2 else 0
def t5packFn (e : Env) (l : Nat) : Out :=
  let a := e.a32 l
  let d := sgn1 a + 3 * sgn1 (a / 256) + 9 * sgn1 (a / 65536) + 27 * sgn1 (a / 2 ^ 24) + 81 * sgn1 (e.b32 l)
  let c := e.c32 l
  let n := e.sub % 4
  e.wr32 l (c - put (8 * n) (c / 256 ^ n % 256) + put (8 * n) d)
def t5unpkFn (e : Env) (l : Nat) : Out :=
  let y := e.a32 l / 256 ^ (e.sub % 4) % 256
  let bad := t5Illegal y
  let t (i w : Nat) : Nat := if bad then 0 else wrap w (t5Digit y i)
  { writes := e.wrD l 2 (t 0 8 + put 8 (t 1 8) + put 16 (t 2 8) + put 24 (t 3 8) + put 32 (t 4 32)) ++ wrP e.f.c bad }
def t5chkFn (e : Env) (l : Nat) : Out :=
  let a := e.a32 l
  let m := b2n (t5Illegal (a % 256)) + 2 * b2n (t5Illegal (a / 256 % 256)) + 4 * b2n (t5Illegal (a / 65536 % 256)) +
    8 * b2n (t5Illegal (a / 2 ^ 24 % 256))
  { writes := e.wrD l 1 m ++ wrP e.f.c (m ≠ 0) }

def mxqSrcSize (bf16 : Bool) : Nat := if bf16 then 64 else 128
def mxqDstSize (fp8 : Bool) : Nat := if fp8 then 32 else 16
/-- The block of R245: the scale, and the destination's bytes as a number. -/
def mxqVal (bf16 fp8 : Bool) (mode : Rnd) (src : List Byte) : Nat × Nat :=
  let vs : List Val := (List.range 32).map (fun i =>
    if bf16 then Fmt.bf16.val (ofLe ((src.drop (2 * i)).take 2)) else f32 (ofLe ((src.drop (4 * i)).take 4)))
  let f : Fmt := if fp8 then .e4m3 else .e2m1
  let pack (l : List Nat) : Nat := l.foldr (fun x acc => x + 2 ^ f.width * acc) 0
  if !(vs.all isFin) then (0xFF, 0)
  else match eMax vs with
    | none => (0, pack (vs.map (fun v => f.withSign v.neg? 0)))
    | some m =>
      let x : Int := min (max (m - 1 - (if fp8 then 8 else 2) + 127) 0) 254
      (x.toNat, pack (vs.map (fun v => (round f mode true (v.scale (127 - x))).1)))

/-- MXQ's checks for a lane: the offending code and offset; whether it lies on the source side. -/
def Env.mxqChk (e : Env) (l : Nat) : Option (Nat × Nat × Bool) :=
  let a := e.a32 l
  let b := e.b32 l
  let na := mxqSrcSize (bit e.sub 0)
  let nb := mxqDstSize (bit e.sub 1)
  if a % na ≠ 0 then some (cAlign, a, true) else if b % nb ≠ 0 then some (cAlign, b, false)
  else if a + na > e.grid.kcb.scratch then some (cScratch, a, true)
  else if b + nb > e.grid.kcb.scratch then some (cScratch, b, false) else none
/-- MXQ leaves for the scratchpad (R245): a demoted lane takes no fault and its write is suppressed (R49). -/
def mxqBody (e : Env) : State :=
  let bad := e.asks.filterMap (fun l => (e.mxqChk l).map (fun x => (l, x)))
  match bad.filter (fun x => !e.hushed x.1) with
  | [] =>
    let srcOk (l : Nat) : Bool := !(e.quiet.contains l) && decide (e.a32 l % mxqSrcSize (bit e.sub 0) = 0) && decide (e.a32 l + mxqSrcSize (bit e.sub 0) ≤ e.grid.kcb.scratch)
    let mk (l id : Nat) : Access :=
      { e.acc id l (.mxq (bit e.sub 0) (bit e.sub 1) e.f.rnd) (e.team.place (e.a32 l)) (e.a32 l) (mxqSrcSize (bit e.sub 0)) (e.b32 l)
          (e.destAt l e.f.d 0) with dat2 := b2n (e.hushed l) }
    let s1 := e.s.addAccs (numbered e.s.nextId ((e.exec.filter srcOk).map mk))
    e.retire (e.zeros s1 1 (e.exec.filter (fun l => !srcOk l))) noTarget
  | fs => e.fail (fs.map (fun x => (x.1, x.2.1, x.2.2.1)))

/-- MMA: arrival at a multiply-accumulate (R223, R233). -/
def execMma (f : Fields) (s : State) : Host.Outcome State Fault Refusal := .next (issue s 0xE0 f (collective srcMma))

/-- MMAG: arrival at a multiply with a steering tile for each row block (R235). -/
def execMmag (f : Fields) (s : State) : Host.Outcome State Fault Refusal := .next (issue s 0xE1 f (collective srcMma))

/-- AZERO: arrival at a zeroing of a tile (R239). -/
def execAzero (f : Fields) (s : State) : Host.Outcome State Fault Refusal := .next (issue s 0xE2 f (collective srcNone))

/-- ACMT: arrival at a commit marker (R240). -/
def execAcmt (f : Fields) (s : State) : Host.Outcome State Fault Refusal := .next (issue s 0xE3 f (collective srcNone))

/-- ADRAIN: arrival at a drain (R243). -/
def execAdrain (f : Fields) (s : State) : Host.Outcome State Fault Refusal := .next (issue s 0xE4 f (collective srcDrain))

/-- ALOAD: arrival at a load of a tile (R242). -/
def execAload (f : Fields) (s : State) : Host.Outcome State Fault Refusal := .next (issue s 0xE5 f (collective srcDesc))

/-- AMERGE: arrival at a merge of two tiles (R241). -/
def execAmerge (f : Fields) (s : State) : Host.Outcome State Fault Refusal := .next (issue s 0xE6 f (collective srcNone))

/-- ACFG: arrival at a setting of a window exponent (R239). -/
def execAcfg (f : Fields) (s : State) : Host.Outcome State Fault Refusal := .next (issue s 0xE7 f (collective srcE))

/-- T5PACK: five digit signs packed into a byte (R244). -/
def execT5pack (f : Fields) (s : State) : Host.Outcome State Fault Refusal := .next (issue s 0xE8 f (fixed t5packFn))

/-- T5UNPK: a byte unpacked into digits (R244). -/
def execT5unpk (f : Fields) (s : State) : Host.Outcome State Fault Refusal := .next (issue s 0xE9 f (fixed t5unpkFn))

/-- T5CHK: a mask of illegal bytes (R244). -/
def execT5chk (f : Fields) (s : State) : Host.Outcome State Fault Refusal := .next (issue s 0xEA f (fixed t5chkFn))

/-- MXQ: a block quantised in scratchpad (R245). -/
def execMxq (f : Fields) (s : State) : Host.Outcome State Fault Refusal := .next (issue s 0xEB f (mxqBody))

end Sys2Proof.Machine
end

