-- ==== Sys2Proof/Machine/Home.lean ====
section
/-! DEFINITION. Accesses, signals, copies and tagged reductions at their homes (R187 to R189, R195, R196, R205 to R207,
R209, R216 to R218, R250, R255, R264, R298 to R300), and the transactions that leave for other devices (R336, R337). -/

namespace Sys2Proof.Machine

/-! ### Transactions sent (R335 to R337) -/

/-- Fields of a system address (R335). -/
def sysOffset (a : Nat) : Nat := bits a 37 0
def sysHigh (a : Nat) : Nat := bits a 45 38
def sysDev (a : Nat) : Nat := bits a 53 46
def sysHost (a : Nat) : Bool := bit a 54

/-- What a request asks, its sender's own fields apart. -/
structure Ask where
  type : Nat
  scope : Nat := 0
  ord : Nat := 0
  op : Nat := 0
  cas : Bool := false
  w : Bool := false
  ret : Bool := false
  pid : Nat := 0
  addr : Nat
  mask : Nat := 0
  opa : Nat := 0
  opb : Nat := 0
  data : Nat := 0
  deriving DecidableEq, Repr, Inhabited

/-- The header of a request (R336). -/
def Ask.header (a : Ask) (src tid : Nat) : Nat :=
  put 0 a.type + put 4 src + put 12 (sysDev a.addr) + put 20 tid + put 36 a.scope + put 38 a.ord + put 40 a.op +
  put 44 (b2n a.cas) + put 45 (b2n a.w) + put 46 (b2n a.ret) + put 48 a.pid + put 56 a.addr + put 112 a.mask +
  put 176 (a.opa % 2 ^ 64) + put 240 (a.opb % 2 ^ 64)

/-- Whether every TID is that of an outstanding transaction: a request then waits (R336). -/
def State.noTid (s : State) : Bool := decide (65536 ≤ s.txns.length)
/-- Whether this device bridges its tray group to the host (R339). -/
def State.bridges (s : State) : Bool := s.links.any (fun l => l.role == 2)
/-- The least TID that no outstanding transaction bears. -/
def State.freeTid (s : State) : Nat :=
  ((List.range (s.txns.length + 1)).find? (fun t => !(s.txns.any (fun x => x.tid == t)))).getD 0

/-- A request leaves: over a link, or to this device's own host adapter when it is the bridging device (R339; log 94). -/
def State.send (s : State) (who : TxnFor) (a : Ask) : Nat × State :=
  let tid := s.freeTid
  let fl : Flit := { header := a.header s.fabric tid, data := a.data }
  let x : Txn := { tid := tid, who := who, addr := a.addr, sentAt := s.time }
  let s1 : State := { s with txns := s.txns ++ [x] }
  (tid, if sysHost a.addr && sysDev a.addr == s.fabric && s.bridges then { s1 with adapter := s1.adapter ++ [(tid, fl)] }
        else { s1 with outbox := s1.outbox ++ [fl] })

/-! ### What jobs keep of writes (R350, R353) -/

/-- The address of a job's PARTNER tensors at home here that names a byte of local memory. -/
def State.tensorVa (s : State) (j : Job) (pa : Nat) : Option Nat :=
  match s.proc? j.proc with
  | none => none
  | some p =>
    (j.tensors.filter (fun t => !t.replica && t.home == s.fabric)).findSome? (fun t =>
      (List.range ((t.vbase % 65536 + t.len + 65535) / 65536)).findSome? (fun i =>
        let page := t.vbase / 65536 * 65536 + 65536 * i
        match walk s.dram p.root page .rd with
        | .leaf a 0 _ _ _ _ =>
          let va := page + pa % 65536
          if a / 65536 = pa / 65536 ∧ t.vbase ≤ va ∧ va < t.vbase + t.len then some va else none
        | _ => none))
/-- Superblocks of PARTNER tensors that a write to local memory reaches, whoever makes it (R350). -/
def State.noteWrite (s : State) (pa : Nat) : State :=
  if s.jobs.isEmpty then s else
  { s with jobs := s.jobs.map (fun j => match s.tensorVa j pa with
      | none => j
      | some va => if j.dirty.contains (va / 256 * 256) then j else { j with dirty := j.dirty ++ [va / 256 * 256] }) }

/-- The two nearest of sorted ranges merged. -/
def mergeNearest (l : List (Nat × Nat)) : List (Nat × Nat) :=
  let gap (i : Nat) : Nat := match l[i]?, l[i + 1]? with
    | some a, some b => b.1 - (a.1 + a.2)
    | _, _ => 0
  let best := (List.range (l.length - 1)).foldl (fun m i => if gap i < gap m then i else m) 0
  match l[best]?, l[best + 1]? with
  | some a, some b => l.take best ++ [(a.1, b.1 + b.2 - a.1)] ++ l.drop (best + 2)
  | _, _ => l
/-- A 4 KiB range joined into an address-ordered log of at most 4,096 (R353). -/
def logRange (l : List (Nat × Nat)) (a : Nat) : List (Nat × Nat) :=
  let b := a / 4096 * 4096
  if l.any (fun r => decide (r.1 ≤ b) && decide (b < r.1 + r.2)) then l else
  let l1 : List (Nat × Nat) := l.filter (fun r => decide (r.1 < b)) ++ [(b, 4096)] ++ l.filter (fun r => decide (b < r.1))
  if l1.length > 4096 then mergeNearest l1 else l1
/-- A write that a process's job made visible (R353): `always` for a signal, else outside the job only. -/
def State.noteMade (s : State) (always : Bool) (proc a : Nat) : State :=
  if s.jobs.isEmpty then s else
  { s with jobs := s.jobs.map (fun j =>
      if j.proc == proc && (always || sysHost a || !(j.members.any (fun m => m.dev == sysDev a)))
      then { j with extCount := min (j.extCount + 1) (2 ^ 32 - 1), extRanges := logRange j.extRanges a } else j) }

def State.noteExternal (s : State) (proc a : Nat) : State := s.noteMade false proc a

/-! ### Order at the home (R187, R189, R264, R221) -/

/-- The owner of the line of global memory that holds a place (R189); no copy owns a scratchpad's. -/
def State.owner? (s : State) (l : Loc) : Option Owned :=
  match l with
  | .scr _ _ => none
  | l => s.owned.find? (fun o => o.line == l.down 64)

/-- Whether a load may pass an earlier access of its lane: a store or a reduction elsewhere (R264, R196). -/
def Access.passable (b a : Access) : Bool :=
  (match b.kind with
    | .store => true
    | .atom _ r => !r && b.ord ≠ 1 && b.ord ≠ 3
    | _ => false) && !(a.loc.meets a.size b.loc b.size)

def Access.sameGroup (a b : Access) : Bool := a.tag == b.tag && a.team == b.team && a.grp == b.grp

/-- Whether an access may be performed now: no copy owns its line, and what its lane's order, its issue's and a barrier's release
put before it has been performed. -/
def State.eligible (s : State) (a : Access) : Bool :=
  a.wait.isNone && (s.owner? a.loc).isNone && (a.loose ||
  (s.accs.all (fun b => b.loose || !(decide (b.id < a.id) && b.sameGroup a) ||
      (b.issue != a.issue && (b.by_ &&& a.by_ == 0#64 || (a.isLoad && b.passable a)))) &&
   s.sigs.all (fun b => !(decide (b.id < a.id) && b.copy.isNone && b.tag == a.tag && b.team == a.team && b.grp == a.grp) ||
      !(a.by_.getLsbD b.lane) || (a.isLoad && !(a.loc.meets a.size b.loc 16))) &&
   s.made a.after))

/-- Whether the earlier accesses and signals of a lane have been performed (R50, R207, R216, R218). -/
def State.laneClear (s : State) (tag team grp lane id : Nat) : Bool :=
  s.accs.all (fun b => b.loose || !(decide (b.id < id) && b.tag == tag && b.team == team && b.grp == grp && b.by_.getLsbD lane)) &&
  s.sigs.all (fun b => !(decide (b.id < id) && b.copy.isNone && b.tag == tag && b.team == team && b.grp == grp && b.lane == lane))
/-- Whether the set-up of a barrier comes first, by the release of a cluster barrier before the signal was issued, or before the copy
that it follows was posted (R222). -/
def State.setUp (s : State) (x : Sig) : Bool :=
  match s.team? x.tag x.team with
  | none => true
  | some t =>
    let at_ := match x.copy with
      | none => x.id
      | some q => ((t.copies.find? (fun c => !c.hint && c.seq == q)).map (·.stamp)).getD x.id
    t.setups.all (fun y => decide (at_ < y.2) || s.accs.all (fun a => a.id ≠ y.1 || !(a.loc.meets 16 x.loc 16)))
/-- Whether a signal may be applied: no copy owns its line, its barrier's set-up and what a barrier's release put before it have been
made, and of a lane's signal its earlier accesses and the signals of its issue set's lower lanes. -/
def State.sigReady (s : State) (x : Sig) : Bool :=
  x.wait.isNone && (s.owner? x.loc).isNone && s.setUp x && s.made x.after &&
  (x.copy.isSome || (s.laneClear x.tag x.team x.grp x.lane x.id &&
     s.sigs.all (fun b => !(decide (b.id < x.id) && b.copy.isNone && b.tag == x.tag && b.team == x.team && b.grp == x.grp))))

/-! ### The effect of an access (R192, R196, R215, R218) -/

/-- `new` of R195 at width w. -/
def rmw (op w old b : Nat) : Nat :=
  match op with
  | 0 => (old + b) % 2 ^ w
  | 1 => if sgn w b < sgn w old then b else old
  | 2 => if sgn w old < sgn w b then b else old
  | 3 => min old b
  | 4 => max old b
  | 5 => old &&& b
  | 6 => old ||| b
  | 7 => old ^^^ b
  | 8 => b
  | 9 => (roundOp .fp32 .rne false (Val.add .rne (f32 old) (f32 b))).1
  | 10 => (fminmax .fp32 false old b).1
  | 11 => (fminmax .fp32 true old b).1
  | 12 => if b ≤ old then 0 else (old + 1) % 2 ^ w
  | _ => if old = 0 ∨ b < old then b else old - 1

def Access.gone (s : State) (id : Nat) : State := { s with accs := s.accs.filter (fun a => a.id ≠ id) }

/-- The result of an access, on its way to the register file (R78). -/
def State.answer (s : State) (a : Access) (ws : List Wr) : State :=
  let s1 := (Access.gone s a.id)
  if a.lanes = 0#64 then s1 else
  s1.addResult { id := s1.nextId, tag := a.tag, team := a.team, grp := a.grp, issue := a.issue,
                 uni := popcount 64 a.by_.toNat ≠ 1, low := lowestLane a.by_, lanes := a.lanes, pc := a.pc, writes := [(a.lane, ws)], flags := [], coll := false }
/-- Destination k registers back. -/
def Dest.minus (d : Dest) (k : Nat) : Dest :=
  match d with
  | .v n => .v (n - k)
  | .s n => .s (n - k)
  | x => x
/-- Registers that a value of `size` bytes fills. -/
def loadWrites (d : Dest) (size v : Nat) : List Wr :=
  if size = 8 then [{ dest := d, val := v % 2 ^ 32 }, { dest := d.plus 1, val := v / 2 ^ 32 }] else [{ dest := d, val := v }]
def loadVal (sx : Bool) (size v : Nat) : Nat := if sx && decide (size < 4) then sext (8 * size) 32 v else v

def State.procOf (s : State) (tag : Nat) : Nat := match s.grid? tag with
  | some g => g.proc
  | none => 0
def State.partOf (s : State) (tag : Nat) : Nat := match s.grid? tag with
  | some g => g.part
  | none => 0

/-- The whole destination of a load: of a piece of 16 bytes, four registers. -/
def Access.whole (a : Access) : Dest := if a.dat = 16 ∧ a.addr % 16 = 8 then a.dest.minus 2 else a.dest
/-- A fault found at the home: the access is over, and the lane's group stops (R332), also when its lanes have exited (log 99). A
load that issued for demoted lanes alone gives 0 instead, in its whole destination: what its other piece brought is discarded
(R42, R49). -/
def State.accFault (s : State) (a : Access) (code addr : Nat) : State :=
  if a.reads && a.hush then
    let twin (b : Access) : Bool := b.id ≠ a.id && b.issue == a.issue && b.lane == a.lane && b.tag == a.tag && b.team == a.team && b.grp == a.grp
    let s1 : State := { s with
      accs := s.accs.filter (fun b => !(a.dat == 16 && twin b)),
      results := s.results.filter (fun r => !(a.dat == 16 && r.issue == a.issue && r.tag == a.tag && r.team == a.team && r.grp == a.grp &&
        r.writes.any (fun w => w.1 == a.lane))) }
    s1.answer a ((List.range (max 1 (a.dat / 4))).map (fun k => { dest := a.whole.plus k, val := 0 }))
  else ((Access.gone s a.id).faultLane a.tag a.team a.grp a.lane code a.pc addr).undrain a.tag a.team a.grp

/-- The line of the L2 that an access touches. -/
def State.touch (s : State) (l : Loc) (tag : Nat) (write : Bool) (ch : Nat) : State :=
  match l with
  | .dram a => s.touchL2 a (s.partOf tag) write ch
  | _ => s
/-- An acquire at cluster, device or system scope (R250). -/
def State.acquire (s : State) (core scope ord : Nat) : State :=
  if scope ≠ 0 ∧ (ord = 1 ∨ ord = 3) then s.dropL1 core else s
/-- A line lost by the L1s of a cluster's cores, for what a cluster barrier put before their accesses (R221, R250). -/
def State.dropAround (s : State) (tag team : Nat) (line : Loc) : State :=
  match s.grid? tag with
  | none => s
  | some g => (s.clusterCores g (g.clusterOf team)).foldl (fun s c => s.dropLine c line) s
/-- The same when the access is one of those. -/
def State.around (s : State) (a : Access) : State := if a.spread then s.dropAround a.tag a.team (a.loc.down 64) else s
/-- A write of an access at its place on this device: the bytes, the L1 copy, poison, the waiters, the job's record. -/
def State.commit (s : State) (a : Access) (core n v : Nat) : State :=
  let s1 := (((s.writeNAt a.loc n v).storeL1 core a.loc (leBytes n v)).curePoison a.loc n).touch a.loc a.tag true a.ch
  let s2 := match a.loc with
    | .dram x => s1.noteWrite x
    | _ => s1
  (s2.around a).wakeXb a.loc n

/-- Whether a load reads past the L1: it is an acquire beyond its team, or it waited for a line that a copy owned (R189, R250). -/
def Access.fresh (a : Access) : Bool := (a.scope ≠ 0 && (a.ord == 1 || a.ord == 3)) || a.waited
/-- The line of its core's L1 that a load reads (R250). -/
def State.hit? (s : State) (core : Nat) (a : Access) : Option L1Line :=
  if !a.isLoad || a.fresh then none else
  match a.loc with
  | .scr _ _ => none
  | l => s.l1? core (l.down 64)
/-- The bytes that a load reads from a line of its L1. -/
def L1Line.at_ (x : L1Line) (a : Access) : Nat := ofLe ((x.bytes.drop a.loc.inLine).take a.size)
/-- Whether the bytes that a load reads from a line of its L1 are poisoned there. -/
def L1Line.bad (x : L1Line) (a : Access) : Bool := x.spoilt.any (fun i => decide (a.loc.inLine ≤ i) && decide (i < a.loc.inLine + a.size))
/-- The bytes that a load reads at its home, whose line the L1 then holds (R250). -/
def State.loadBytes (s : State) (core : Nat) (a : Access) : Nat × State :=
  match a.loc with
  | .scr _ _ => (s.readNAt a.loc a.size, s)
  | l => (s.readNAt l a.size, (s.touch l a.tag false a.ch).fillL1 core (l.down 64) (s.readAt (l.down 64) 64))
def AccKind.signed : AccKind → Bool
  | .load sx => sx
  | _ => false
/-- A load answered from its L1's copy. -/
def State.answerHit (s : State) (a : Access) (x : L1Line) : State :=
  s.answer a (loadWrites a.dest a.size (loadVal a.kind.signed a.size (x.at_ a)))
/-- An error found in the L1's copy that a load consumes: corrected and counted, or marked there (R255). -/
def State.eccL1 (s : State) (w : Ecc) (core : Nat) (a : Access) : State :=
  match w with
  | .none => s
  | .corrected => { s with mgmt := { s.mgmt with eccCount := s.mgmt.eccCount + 1 } }
  | .uncorrectable => ({ s with l1 := s.l1.map (fun (x : L1Line) => if x.core == core && x.line == a.loc.down 64 then
      { x with spoilt := (List.range a.size).map (· + a.loc.inLine) ++ x.spoilt } else x) }).report .ecc

/-- The transaction that performs an access at a system address (R336). -/
def Access.ask (a : Access) (pid : Nat) : Ask :=
  let at_ := match a.loc with
    | .sys x => x
    | _ => 0
  let line := at_ / 64 * 64
  let o := at_ % 64
  let ones (n : Nat) := (2 ^ n - 1) * 2 ^ o
  match a.kind with
  | .store => { type := 2, scope := a.scope, ord := a.ord, pid := pid, addr := line, mask := ones a.size, data := a.dat * 2 ^ (8 * o) }
  | .xbinit => { type := 2, scope := a.scope, ord := 2, pid := pid, addr := line, mask := ones 16, data := a.dat * 2 ^ (8 * o) }
  | .atom op r => { type := 3, scope := a.scope, ord := a.ord, op := op, w := a.size == 8, ret := r, pid := pid, addr := at_, opa := a.dat }
  | .cas r => { type := 3, scope := a.scope, ord := a.ord, cas := true, w := a.size == 8, ret := r, pid := pid, addr := at_, opa := a.dat, opb := a.dat2 }
  | _ => { type := 1, scope := a.scope, ord := a.ord, pid := pid, addr := line }

/-- An observation of a barrier object reads it at its home: the core's L1 keeps no older copy of its line (R250, R263). -/
def State.seen (s : State) (a : Access) (core : Nat) : State := match a.loc with
  | .scr _ _ => s
  | l => s.dropLine core (l.down 64)
/-- What an observation of a barrier object gives its access (R218). A waiter on a barrier in another home, whose writes this device
does not see, observes it again until the phase is done; once its first observation has been made it stands in no lane's order, and the
set's other lanes go on. -/
def State.observe (s0 : State) (a : Access) (core o : Nat) : State :=
  let s := s0.seen a core
  if !xbValid o then s.accFault a cUninit a.addr
  else match a.kind with
    | .xbtest =>
      let s1 := if xbDone o a.dat then s.xbAcquire core o else s
      s1.answer a [{ dest := a.dest, val := b2n (xbDone o a.dat) }, { dest := a.dest2, val := b2n (xbPoison o) }]
    | _ =>
      let s1 := Access.gone s a.id
      match s1.lane? a.tag a.team a.grp a.lane with
      | none => s1
      | some l =>
        match l.st with
        | .atXbar w =>
          if xbDone o w.phase then (s1.updLane a.tag a.team a.grp a.lane (fun l => l.wake w o)).xbAcquire core o
          else if a.loc.isSys then { s with accs := updFirst (fun b => b.id == a.id) (fun b => { b with wait := none, by_ := 0#64 }) s.accs }
          else s1.updLane a.tag a.team a.grp a.lane (fun l => { l with st := .atXbar { w with armed := true } })
        | _ => s1

/-- Whether an access consumes the data at its place. -/
def Access.consumes (a : Access) : Bool := match a.kind with
  | .store => false
  | .fence => false
  | .ifence => false
  | .xbinit => false
  | _ => true

/-- What ECC finds in data that an access consumes (R255). -/
def State.ecc (s : State) (x : Ecc) (l : Loc) (n : Nat) : State :=
  match x with
  | .none => s
  | .corrected => { s with mgmt := { s.mgmt with eccCount := s.mgmt.eccCount + 1 } }
  | .uncorrectable => (s.addPoison l n).report .ecc

/-- MXQ at the scratchpad (R245). -/
def State.mxqAt (s : State) (a : Access) (src dst : Bool) (rnd : BitVec 2) : State :=
  let (x, v) := mxqVal src dst (Rnd.ofField rnd) (s.readAt a.loc a.size)
  let s1 := match s.team? a.tag a.team with
    | some t =>
      if a.dat2 = 1 then s else
      let l := t.place a.dat
      let n := mxqDstSize dst
      ((s.writeNAt l n v).curePoison l n).wakeXb l n
    | none => s
  s1.answer a [{ dest := a.dest, val := x }]

/-- An access performed at its home on this device. -/
def State.perform (s : State) (a : Access) (core : Nat) : State :=
  match a.kind with
  | .load sx =>
    let (v, s1) := s.loadBytes core a
    (s1.acquire core a.scope a.ord).answer a (loadWrites a.dest a.size (loadVal sx a.size v))
  | .store => Access.gone (s.commit a core a.size a.dat) a.id
  | .xbinit => Access.gone ((s.commit a core 16 a.dat).dropLine core (a.loc.down 64)) a.id
  | .atom op ret =>
    let old := s.readNAt a.loc a.size
    let s1 := ((s.commit a core a.size (rmw op (8 * a.size) old a.dat)).dropLine core (a.loc.down 64)).acquire core a.scope a.ord
    if ret then s1.answer a (loadWrites a.dest a.size old) else Access.gone s1 a.id
  | .cas ret =>
    let old := s.readNAt a.loc a.size
    let s1 := ((s.commit a core a.size (if old = a.dat then a.dat2 else old)).dropLine core (a.loc.down 64)).acquire core a.scope a.ord
    if ret then s1.answer a (loadWrites a.dest a.size old) else Access.gone s1 a.id
  | .fence => Access.gone (s.acquire core a.scope a.ord) a.id
  | .ifence => (((Access.gone s a.id).dropI core).undrain a.tag a.team a.grp)
  | .ldk => (s.touch a.loc a.tag false 0).answer a (loadWrites a.dest a.size (s.readNAt a.loc a.size))
  | .xbtest => (s.touch a.loc a.tag false 0).observe a core (s.readNAt a.loc 16)
  | .xbwait => (s.touch a.loc a.tag false 0).observe a core (s.readNAt a.loc 16)
  | .mxq src dst rnd => s.mxqAt a src dst rnd

/-- A fence's access has no place. -/
def Access.isFence (a : Access) : Bool := match a.kind with
  | .fence => true
  | .ifence => true
  | _ => false

/-- Whether an access that leaves over a link lets its core's L1 keep its copy of the line: loads, and stores, which update it when
they have been made (R250). -/
def Access.keepsLine (a : Access) : Bool := a.reads || (match a.kind with
  | .store => true
  | .xbtest => true
  | .xbwait => true
  | _ => false)

/-- ACCESS_AT_HOME (R187): an eligible access takes effect at its home, or leaves for another device. -/
def accessAt (s : State) (id : Nat) (ecc : Ecc) : State :=
  match s.accs.find? (fun a => a.id == id) with
  | none => s
  | some a =>
    if !s.eligible a then s else
    let core := s.coreOf a.tag a.team
    if a.isFence then s.perform a core else
    match s.hit? core a with
    | some _ =>
      let s1 := s.eccL1 ecc core a
      (match s1.hit? core a with
        | none => s1
        | some x => if x.bad a then s1.accFault a cEcc a.addr else s1.answerHit a x)
    | none =>
      match a.loc with
      | .sys _ =>
        if s.noTid then s else
        let s1 := if a.keepsLine then s else s.dropLine core (a.loc.down 64)
        let (tid, s2) := s1.send (.access a.id) (a.ask (s1.partOf a.tag))
        { s2 with accs := updFirst (fun b => b.id == id) (fun b => { b with wait := some tid, stale := false }) s2.accs }
      | _ =>
        if a.consumes then
          let s1 := s.ecc ecc a.loc a.size
          if s1.poisoned a.loc a.size then s1.accFault a cEcc a.addr else s1.perform a core
        else s.perform a core

/-- ACCESS_AT_HOME: a memory access takes effect (R187). -/
def execAccessAtHome (id : Nat) (ecc : Ecc) (s : State) : Host.Outcome State Fault Refusal := .next (accessAt s id ecc)

/-! ### Signals (R216, R217) -/

/-- One signal on a barrier object: the object, and the refusal's code. -/
def signalObj (o : Nat) (da ds : Int) : Nat × Option Nat :=
  if !xbValid o then (o, some cUninit)
  else if xbPoison o then (o, none)
  else
    let a := xbApend o - da
    let d := xbSpend o + ds
    if a < -(2 ^ 23) ∨ 2 ^ 23 ≤ a ∨ d < -(2 ^ 31) ∨ 2 ^ 31 ≤ d then (o + 32, some cIllegalOperand)
    else if a = 0 ∧ d = 0 then
      let o1 := xbCounts o (xbReload o) 0
      (o1 - o1 % 16 + (xbPhase o + 1) % 16, none)
    else (xbCounts o a d, none)

/-- A copy that is complete leaves the queue (R204, R205). -/
def deliveries (c : Copy) : Nat :=
  shSpr c.shape * shRows c.shape * (if c.mc then popcount 8 c.mask else 1)
def Team.reap (t : Team) : Team :=
  { t with copies := t.copies.filter (fun c => c.hint || c.faulted || !(c.made == deliveries c && c.sigs == 0)) }
/-- Lines that copies own no more: the accesses that waited for them act on the bytes as they stand (R189). -/
def State.disown (s : State) (p : Owned → Bool) : State :=
  let gone := s.owned.filter p
  if gone.isEmpty then s else
  { s with owned := s.owned.filter (fun o => !p o),
           accs := s.accs.map (fun a => if gone.any (fun o => a.loc.down 64 == o.line) then { a with waited := true } else a) }
/-- A faulted copy leaves it too. -/
def State.dropCopy (s : State) (tag team seq : Nat) : State :=
  (s.disown (fun o => o.tag == tag && o.team == team && o.seq == seq)).updTeam tag team (fun t =>
    { t with copies := t.copies.filter (fun c => c.hint || c.seq ≠ seq) })
def State.updCopy (s : State) (tag team seq : Nat) (f : Copy → Copy) : State :=
  s.updTeam tag team (fun t => { t with copies := updFirst (fun c => !c.hint && c.seq == seq) f t.copies })

/-- The signal is over: one less for its copy. -/
def State.sigDone (s : State) (x : Sig) : State :=
  let s1 : State := { s with sigs := s.sigs.filter (fun y => y.id ≠ x.id) }
  match x.copy with
  | none => s1
  | some q => (s1.updCopy x.tag x.team q (fun c => { c with sigs := c.sigs - 1 })).updTeam x.tag x.team Team.reap

/-- A refused signal: the sender's grid faults, naming the lane that issued it or posted the copy (R217). -/
def State.sigFault (s : State) (x : Sig) (code : Nat) : State :=
  match s.group? x.tag x.team x.grp with
  | none => s
  | some g =>
    let s1 := s.raise x.tag [faultRec g x.lane code x.pc x.addr]
    if x.copy.isSome then s1 else s1.stopGroup x.tag x.team x.grp

def State.putObject (s : State) (l : Loc) (o : Nat) : State :=
  let s1 := s.writeNAt l 16 o
  let s2 := match l with
    | .dram a => s1.noteWrite a
    | _ => s1
  s2.wakeXb l 16

/-- Whether a core's copy engine waits for the answer to a transfer or a signal: it sends no signal before (R337). -/
def State.engineBusy (s : State) (core : Nat) : Bool :=
  s.txns.any (fun t => match t.who with
    | .copyRd tag team _ => s.coreOf tag team == core
    | .copyWr tag team _ => s.coreOf tag team == core
    | .sig id => s.sigs.any (fun x => x.id == id && x.copy.isSome && s.coreOf x.tag x.team == core)
    | _ => false)
/-- The other cores' copies of a signalled line, when a cluster barrier put the signal before their accesses. -/
def State.roundSig (s : State) (x : Sig) : State := if x.spread then s.dropAround x.tag x.team (x.loc.down 64) else s
/-- BARRIER_SIGNAL (R216). -/
def signalAt (s : State) (id : Nat) : State :=
  match s.sigs.find? (fun x => x.id == id) with
  | none => s
  | some x =>
    if !s.sigReady x then s else
    match x.loc with
    | .sys a =>
      if s.noTid || (x.copy.isSome && s.engineBusy (s.coreOf x.tag x.team)) then s else
      let (tid, s1) := (s.dropLine (s.coreOf x.tag x.team) ((Loc.sys a).down 64)).send (.sig x.id) { type := 4, scope := x.scope, ord := 2, pid := s.partOf x.tag, addr := a, opa := wrap 64 x.da, opb := wrap 64 x.ds }
      { s1 with sigs := updFirst (fun y => y.id == id) (fun y => { y with wait := some tid }) s1.sigs }
    | l =>
      if s.poisoned l 16 then (s.sigDone x).sigFault x cEcc else
      let (o, bad) := signalObj (s.readNAt l 16) x.da x.ds
      let s1 := ((((s.putObject l o).dropLine (s.coreOf x.tag x.team) (l.down 64)).roundSig x).touch l x.tag true 0).sigDone x
      match bad with
      | none => s1
      | some c => (s1.logRefusal x.addr c 0).sigFault x c

/-- BARRIER_SIGNAL: a barrier's atomic unit applies a signal (R216). -/
def execBarrierSignal (id : Nat) (s : State) : Host.Outcome State Fault Refusal := .next (signalAt s id)

/-! ### Copy deliveries (R205 to R208) -/

/-- Ranks that a copy writes to, in order; one unnamed place otherwise. -/
def Copy.ranks (c : Copy) : List Nat := (List.range 8).filter (fun r => bit c.mask r)
/-- The sector and the destination rank of delivery `n` (R205). -/
def Copy.sector (c : Copy) (n : Nat) : Nat := if c.mc then n / c.ranks.length else n
def Copy.rank? (c : Copy) (n : Nat) : Option Nat := if c.mc then c.ranks[n % c.ranks.length]? else none

/-- A copy's fault (R205): it stops, and the record names the posting lane. -/
def State.copyFault (s : State) (gr : Grid) (t : Team) (c : Copy) (code addr : Nat) : State :=
  let n := c.lane / gr.kcb.width
  let s1 := s.dropCopy gr.tag t.idx c.seq
  match s1.group? gr.tag t.idx n with
  | none => s1.raise gr.tag [{ code := code, team := t.idx, grp := n, lane := c.lane % gr.kcb.width, ord := 0, pc := c.pc, addr := addr, extra := 0 }]
  | some g => s1.raise gr.tag [faultRec g (c.lane % gr.kcb.width) code c.pc addr]

/-- A place that a copy reaches through the grid's table, with what happens when it does not. -/
def State.copyVa (s : State) (gr : Grid) (t : Team) (c : Copy) (va : Nat) (k : Acc) : Except State (Loc × State) :=
  if s.offLimits gr.proc va then .error (s.copyFault gr t c cPermission va) else
  let (r, s1) := s.translateAt t.core gr.part gr.proc va k
  match r with
  | .at_ l => .ok (l, s1)
  | .bad code => .error (s1.copyFault gr t c code va)
  | .miss mig =>
    if s1.declined.contains (gr.proc, va) then .error (s1.copyFault gr t c cTranslation va)
    else
      let f : TFault := { id := s1.nextId, proc := gr.proc, va := va, k := k, who := .copy gr.tag t.idx c.seq, lanes := [],
                          device := mig || s1.isServed gr.proc va, mig := mig, since := s1.time }
      .error (({ s1.fresh with tfaults := s1.tfaults ++ [f] }).updCopy gr.tag t.idx c.seq (fun c => { c with hold := some f.id }))

/-- Where a delivery goes: discarded, or a place with its virtual address. -/
inductive Target where
  | discard
  | place (l : Loc) (va : Nat)
  deriving DecidableEq, Repr, Inhabited

def State.copyDst (s : State) (gr : Grid) (t : Team) (c : Copy) (i : Nat) : Except State (Target × State) :=
  match c.dir with
  | .g2s =>
    match c.rank? c.made with
    | none => .ok (.place (t.place (c.dst + packOff i)) 0, s)
    | some r => match s.rankTeam? gr t.idx r with
      | none => .ok (.discard, s)
      | some u => .ok (.place (u.place (c.dst + packOff i)) 0, s)
  | .s2x =>
    match s.rankTeam? gr t.idx ((c.rank? c.made).getD 0) with
    | none => .ok (.discard, s)
    | some u => .ok (.place (u.place (c.dst + packOff i)) 0, s)
  | _ =>
    let va := wrap 64 ((c.dst + globOff c.shape i : Nat) : Int)
    match s.copyVa gr t c va .wr with
    | .error x => .error x
    | .ok (l, s1) => .ok (.place l va, s1)

/-- The barrier that a delivery signals (R205), with the address a refusal reports: in the receiving team's scratchpad, in
the window form of R193; in the posting team's; or global: a page of it that does not translate or permit stops the copy before the
sector is written, with the barrier's address in the record (log 114). -/
def State.copyBar (s : State) (gr : Grid) (t : Team) (c : Copy) : Except State (Option (Loc × Nat) × State) :=
  match c.bar with
  | none => .ok (none, s)
  | some b =>
    if c.gb then
      match s.copyVa gr t c b .rw with
      | .error x => .error x
      | .ok (l, s1) => .ok (some (l, b), s1)
    else match c.rank? c.made with
      | none => .ok (some (t.place b, b), s)
      | some r => match s.rankTeam? gr t.idx r with
        | none => .ok (none, s)
        | some u => .ok (some (u.place b, r * 2 ^ 32 + b), s)

/-- The delivery is made: counted, and its signal leaves. -/
def State.delivered (s : State) (gr : Grid) (t : Team) (c : Copy) (bar : Option (Loc × Nat)) : State :=
  let n := if bar.isSome then 1 else 0
  let s1 := s.updCopy gr.tag t.idx c.seq (fun c => { c with made := c.made + 1, sigs := c.sigs + n, wait := none, buf := none })
  let s2 := match bar with
    | none => s1
    | some (l, a) =>
      let x : Sig := { id := s1.nextId, tag := gr.tag, team := t.idx, grp := c.lane / gr.kcb.width, lane := c.lane % gr.kcb.width, pc := c.pc,
                       loc := l, addr := a, da := 0, ds := -1, scope := if l.isSys then 3 else 2, copy := some c.seq, wait := none, after := [], spread := false }
      { s1.fresh with sigs := s1.sigs ++ [x] }
  s2.updTeam gr.tag t.idx Team.reap

/-- A copy and the line of a place, as its owner. -/
def Copy.owns (c : Copy) (gr : Grid) (t : Team) (l : Loc) : Owned := { line := l.down 64, tag := gr.tag, team := t.idx, seq := c.seq }
/-- A copy begins to write a line of global memory: it owns it (R189). -/
def State.takeLine (s : State) (o : Owned) : State := { s with owned := o :: s.owned.filter (fun x => x ≠ o) }
/-- Ownership of a global line once a copy has written its sector i there (R189): it lasts while the copy's next sector fills the same
line. -/
def State.own (s : State) (gr : Grid) (t : Team) (c : Copy) (l : Loc) (i : Nat) : State :=
  let more := decide (i + 1 < shSpr c.shape * shRows c.shape) && decide (globOff c.shape (i + 1) = globOff c.shape i + 32) && decide (l.inLine = 0)
  if more then s.takeLine (c.owns gr t l) else s.disown (fun o => o == c.owns gr t l)

/-- Bytes of a sector written at a place of this device. -/
def State.putSector (s : State) (gr : Grid) (t : Team) (c : Copy) (l : Loc) (i : Nat) (bs : List Byte) : State :=
  let s1 := ((s.writeAt l bs).curePoison l 32).touch l gr.tag true 0
  let s2 := match l with
    | .dram a => (s1.noteWrite a).own gr t c l i
    | _ => s1
  s2.wakeXb l 32

/-- The scope of a delivery: that of the barrier it signals, system scope for one in another home, device scope when none is named
(R268, log 100). -/
def State.barScope (s : State) : Option (Loc × Nat) → Nat
  | none => 2
  | some (.sys _, _) => 3
  | some (l, _) => xbScope (s.readNAt l 16)
/-- The rest of a delivery once its 32 source bytes are at hand. -/
def State.deliver (s : State) (gr : Grid) (t : Team) (c : Copy) (i : Nat) (bs : List Byte) : State :=
  match s.copyDst gr t c i with
  | .error x => x
  | .ok (.discard, s1) => s1.delivered gr t c none
  | .ok (.place l _, s1) =>
    match s1.copyBar gr t c with
    | .error x => x
    | .ok (bar, s2) =>
      match l with
      | .sys a =>
        if s2.noTid then s2.updCopy gr.tag t.idx c.seq (fun c => { c with buf := some bs }) else
        let (tid, s3) := (s2.noteExternal gr.proc a).send (.copyWr gr.tag t.idx c.seq)
          { type := 2, scope := s2.barScope bar, ord := 0, pid := gr.part, addr := a / 64 * 64, mask := (2 ^ 32 - 1) * 2 ^ (a % 64), data := ofLe bs * 2 ^ (8 * (a % 64)) }
        (s3.takeLine (c.owns gr t l)).updCopy gr.tag t.idx c.seq (fun c => { c with wait := some tid, buf := some bs })
      | _ => (s2.putSector gr t c l i bs).delivered gr t c bar

/-- Whether a hint of a grid from a tick queue waits in the copy engine of a core (R209). -/
def State.tickHint (s : State) (core : Nat) : Bool :=
  s.teams.any (fun t => t.resident && t.core == core && t.copies.any (·.hint) && (match s.grid? t.tag with
    | some g => g.tick
    | none => false))
/-- Whether a copy's next delivery may be made: its team is on a core, its grid's state is not held (R311), nothing holds it, no hint takes precedence, and what the
post of its lane follows has been performed: accesses, signals, matrix operand reads, and what a barrier ordered before it
(R205, R207, R222). -/
def State.copyReady (s : State) (gr : Grid) (t : Team) (c : Copy) : Bool :=
  let num := c.lane / gr.kcb.width
  let l := c.lane % gr.kcb.width
  t.resident && !gr.stays && !c.hint && !c.faulted && c.wait.isNone && c.hold.isNone && decide (c.made < deliveries c) && !(s.tickHint t.core) &&
  s.laneClear gr.tag t.idx num l c.stamp && s.made c.after &&
  t.matq.all (fun m => !(m.grp == num && matOutstanding m.opc && decide (m.stamp < c.stamp) && m.arrivals.any (fun a => a.lane == l)))

/-- COPY_DELIVERY (R205): the next delivery of a copy. -/
def deliveryAt (s : State) (tag team seq : Nat) (ecc : Ecc) : State :=
  match s.grid? tag, s.team? tag team with
  | some gr, some t =>
    match t.copies.find? (fun c => !c.hint && c.seq == seq) with
    | none => s
    | some c =>
      if !s.copyReady gr t c then s else
      let i := c.sector c.made
      match c.buf with
      | some bs => s.deliver gr t c i bs
      | none =>
        let from_ (l : Loc) (addr : Nat) (s : State) : State :=
          let s1 := s.ecc ecc l 32
          if s1.poisoned l 32 then s1.copyFault gr t c cEcc addr else s1.deliver gr t c i (s1.readAt l 32)
        match c.dir with
        | .s2g => from_ (t.place (c.src + packOff i)) (c.src + packOff i) s
        | .s2x => from_ (t.place (c.src + packOff i)) (c.src + packOff i) s
        | _ =>
          let va := wrap 64 ((c.src + globOff c.shape i : Nat) : Int)
          match s.copyVa gr t c va .rd with
          | .error x => x
          | .ok (l, s1) =>
            match l with
            | .sys a =>
              if s1.noTid then s1 else
              let (tid, s2) := s1.send (.copyRd tag team seq) { type := 1, scope := 3, ord := 0, pid := gr.part, addr := a / 64 * 64 }
              s2.updCopy tag team seq (fun c => { c with wait := some tid })
            | _ => from_ l va (s1.touch l tag false 0)
  | _, _ => s

/-- COPY_DELIVERY: one sector written and its barrier signalled (R205). -/
def execCopyDelivery (tag team seq : Nat) (ecc : Ecc) (s : State) : Host.Outcome State Fault Refusal := .next (deliveryAt s tag team seq ecc)

/-- CPYHINT_FILL (R209): the sectors brought into the L2, a page that does not translate left out; the entry is free. -/
def hintFillAt (s : State) (tag team id : Nat) : State :=
  match s.grid? tag, s.team? tag team with
  | some gr, some t =>
    match t.copies.find? (fun c => c.hint && c.seq == id) with
    | none => s
    | some c =>
      if !t.resident || (!gr.tick && s.tickHint t.core) then s else
      let s1 := forN (shSpr c.shape * shRows c.shape) (fun i (s : State) =>
        if s.offLimits gr.proc (c.src + globOff c.shape i) then s else
        let (r, s1) := s.translateAt t.core gr.part gr.proc (c.src + globOff c.shape i) .rd
        match r with
        | .at_ (.dram a) => s1.touchL2 a gr.part false 0
        | _ => s1) s
      s1.updTeam tag team (fun t => { t with copies := t.copies.filter (fun c => !(c.hint && c.seq == id)) })
  | _, _ => s

/-- CPYHINT_FILL: a hint's sectors are brought into the L2 (R209). -/
def execCpyhintFill (tag team id : Nat) (s : State) : Host.Outcome State Fault Refusal := .next (hintFillAt s tag team id)

/-! ### Tagged reductions (R298 to R300) -/

/-- The order of keys: team, then flat lane, then sequence (R298, R300). -/
def TagRed.lt (a b : TagRed) : Bool :=
  decide (a.team < b.team) || (a.team == b.team && (decide (a.lane < b.lane) || (a.lane == b.lane && decide (a.seq < b.seq))))
def insertRed (x : TagRed) : List TagRed → List TagRed
  | [] => [x]
  | y :: ys => if x.lt y then x :: y :: ys else y :: insertRed x ys
/-- The last element changed. -/
def mapLast {α : Type} (f : α → α) : List α → List α
  | [] => []
  | [x] => [f x]
  | x :: xs => x :: mapLast f xs

/-- The frontier: the lowest team index that has not retired (R300), counting teams not yet started. -/
def State.frontier (s : State) (g : Grid) : Nat :=
  (s.teams.filter (fun t => t.tag == g.tag)).foldl (fun m t => min m t.idx) g.started

/-- The 32 bytes of a spill entry (R299). -/
def TagRed.record (x : TagRed) (next : Nat) : List Byte :=
  leBytes 32 (put 0 x.addr + put 64 x.val.toNat + put 96 x.seq + put 128 x.team + put 176 x.lane + put 192 next)
/-- Bytes written at a process's address by an atomic unit of the L2 for a partition, where it translates to local memory (R251, R258). -/
def State.writeLocal (s : State) (part pid va : Nat) (bs : List Byte) : State :=
  let (w, s1) := s.walkFor part pid va .wr
  match w.outcome with
  | .at_ (.dram a) => (({ s1 with dram := s1.dram.writeBytes a bs }).touchL2 a part true 0).noteWrite a
  | _ => s1
/-- A slice's spill list of a grid, in ascending key, written to the spill region with its links. -/
def State.writeSpill (s : State) (g : Grid) (slice : Nat) : State :=
  let l := g.held.filter (fun y => y.slice == slice && y.spilled.isSome)
  l.zipIdx.foldl (fun (s : State) x =>
    let next := ((l[x.2 + 1]?).bind (·.spilled)).getD (2 ^ 32 - 1)
    s.writeLocal g.part g.proc (g.spillad + 32 * x.1.spilled.getD 0) (x.1.record next)) s
/-- The first spill entry of a grid that is free. -/
def Grid.freeSpill (g : Grid) : Option Nat :=
  (List.range g.kcb.spill).find? (fun i => !(g.held.any (fun y => y.spilled == some i)))
/-- The reductions in a slice's buffer, of every grid, with their grids' tags (R16, R299). -/
def State.buffered (s : State) (slice : Nat) : List (Nat × TagRed) :=
  s.grids.flatMap (fun g => (g.held.filter (fun y => y.slice == slice && y.spilled.isNone)).map (fun y => (g.tag, y)))

/-- TAGGED_REDUCTION_HOLD (R299): the reduction is held by key; of 17 in a slice's buffer the one with the greatest key spills,
and without room for it the arriving one faults. -/
def holdAt (s : State) (id : Nat) : State :=
  match s.reds.find? (fun r => r.id == id) with
  | none => s
  | some p =>
    let s1 : State := { s with reds := s.reds.filter (fun r => r.id ≠ id) }
    match s1.grid? p.tag with
    | none => s1
    | some g =>
      let x := p.red
      let s2 := s1.updGrid p.tag (fun g => { g with held := insertRed x g.held })
      let all := s2.buffered x.slice
      if all.length ≤ Config.holdEntries then s2 else
      match all.foldl (fun (m : Option (Nat × TagRed)) y => match m with
          | none => some y
          | some z => if z.2.lt y.2 then some y else m) none with
      | none => s2
      | some top =>
        match (s2.grid? top.1).bind (fun h => h.freeSpill.map (fun i => (h, i))) with
        | none =>
          (match s1.group? p.tag x.team p.grp with
          | none => s1
          | some gp => s1.raise p.tag [faultRec gp (x.lane % g.kcb.width) cSpill p.pc p.va])
        | some (h, i) =>
          let h' := { h with held := updFirst (fun y => y == top.2) (fun y => { y with spilled := some i }) h.held }
          (s2.updGrid h.tag (fun _ => h')).writeSpill h' x.slice

/-- TAGGED_REDUCTION_HOLD: a tagged reduction reaches its slice (R299). -/
def execTaggedReductionHold (id : Nat) (s : State) : Host.Outcome State Fault Refusal := .next (holdAt s id)

/-- One held entry applied (R195, R300); on poisoned data the reduction's lane faults (R255). -/
def applyRed (g : Grid) (s : State) (x : TagRed) : State :=
  let l : Loc := .dram x.addr
  if s.poisoned l 4 then
    s.raise g.tag [{ code := cEcc, team := x.team, grp := x.lane / g.kcb.width, lane := x.lane % g.kcb.width, ord := 0, pc := 0#64,
                     addr := x.addr, extra := 0 }]
  else
    let s1 := s.writeNAt l 4 (rmw 9 32 (s.readNAt l 4) x.val.toNat)
    ((s1.noteWrite x.addr).touchL2 x.addr g.part true 0).wakeXb l 4

/-- PROMENADE_APPLY (R300): a slice applies, in key order, what it holds of teams below the frontier. -/
def promenadeAt (s : State) (tag slice : Nat) : State :=
  match s.grid? tag with
  | none => s
  | some g =>
    let f := s.frontier g
    let go := fun (x : TagRed) => x.slice == slice && decide (x.team < f)
    let todo := g.held.filter go
    if g.stays || todo.any (fun x => (s.owner? (.dram x.addr)).isSome) then s
    else
      let s1 := (todo.foldl (applyRed g) s).updGrid tag (fun g => { g with held := g.held.filter (fun x => !go x) })
      match s1.grid? tag with
      | none => s1
      | some g1 => s1.writeSpill g1 slice

/-- PROMENADE_APPLY: held reductions of retired teams are applied (R300). -/
def execPromenadeApply (tag slice : Nat) (s : State) : Host.Outcome State Fault Refusal := .next (promenadeAt s tag slice)

end Sys2Proof.Machine
end

