-- ==== Sys2Proof/Machine/Firm.lean ====
section
/-! DEFINITION. What the device's own processors read and write in the memory of processes: reads of commands, tables and
images (R271, R297), and the firmware's operations, one after another wherever their address lies: bytes written, signals
updated (R275, R276), barriers poisoned (R296), queues cancelled (R278); and page tables. -/

namespace Sys2Proof.Machine

/-- The word of `n` bytes at an address, in the data of its line. -/
def lineWord (a n data : Nat) : Nat := data / 2 ^ (8 * (a % 64)) % 2 ^ (8 * n)

/-! ### Translation faults of the firmware (R259) -/

/-- A translation fault that the firmware waits for: the one it already waits for at that address, or a new one. -/
def State.fwMiss (s : State) (pid va : Nat) (k : Acc) (mig : Bool) : Nat × State :=
  match s.tfaults.find? (fun t => t.who == .firmware && t.proc == pid && t.va == va) with
  | some t => (t.id, s)
  | none =>
    let f : TFault := { id := s.nextId, proc := pid, va := va, k := k, who := .firmware, lanes := [],
                        device := mig || s.isServed pid va, mig := mig, since := s.time }
    (f.id, { s.fresh with tfaults := s.tfaults ++ [f] })
/-- A declined address has been reported once (R259). -/
def State.clearDeclined (s : State) (pid va : Nat) : State :=
  { s with declined := s.declined.filter (fun x => x ≠ (pid, va)) }

/-- After a process's table has been written, no TLB and no walker holds an entry of it, and no address of it stands as declined
(R259, R261). -/
def State.remapped (s : State) (pid : Nat) : State :=
  { s.invalidate pid with declined := s.declined.filter (fun x => x.1 ≠ pid) }

/-! ### Reads (R271, R274, R275) -/

/-- Whether the firmware waits for a transaction: it has one at a time (R337). -/
def TxnFor.firm : TxnFor → Bool
  | .line _ => true
  | .fw _ => true
  | _ => false
/-- Whether the firmware's next transaction waits: for the one outstanding, or for a TID. -/
def State.firmBusy (s : State) : Bool := s.noTid || s.txns.any (fun t => t.who.firm)
/-- A firmware read of the line at a system address leaves, once nothing else of the firmware's is outstanding. -/
def State.askLine (s : State) (a : Nat) : State :=
  if s.firmBusy then s else
  (s.send (.line (a / 64 * 64)) { type := 1, scope := 3, ord := 1, addr := a / 64 * 64 }).2

/-- What a firmware read of some bytes finds: the bytes, that they are still on their way, an unservable address, or data
found uncorrectable. -/
inductive DevRead where
  | ok (bs : List Byte)
  | wait
  | bad (va : Nat)
  | ecc (va : Nat)
  deriving DecidableEq, Repr, Inhabited

/-- `n` bytes within one line of a process's memory, in this device's memory or another home; a line that its home would not
give is unservable (log 90). -/
def State.devPart (s : State) (pid va n : Nat) : DevRead × State :=
  let (r, s1) := s.translate pid va .rd
  match r with
  | .at_ (.dram a) =>
    if (s.owner? (.dram a)).isSome then (.wait, s)
    else if s.poisoned (.dram a) n then (.ecc va, s1)
    else (.ok (s1.dram.readBytes a n), s1.touchL2 a 0 false 0)
  | .at_ (.sys a) =>
    match s1.devLines.find? (fun x => x.1 == a / 64 * 64) with
    | some x => (if x.2.length = 64 then .ok ((x.2.drop (a % 64)).take n) else if x.2 = [2#8] then .ecc va else .bad va, s1)
    | none => (.wait, s1.askLine a)
  | .miss mig => if s1.declined.contains (pid, va) then (.bad va, s1.clearDeclined pid va) else (.wait, (s1.fwMiss pid va .rd mig).2)
  | _ => (.bad va, s1)
/-- `n` bytes, a line at a time; lines left as fuel. -/
def State.devReadGo (s : State) (pid : Nat) : Nat → Nat → Nat → DevRead × State
  | 0, _, _ => (.ok [], s)
  | fuel + 1, va, n =>
    if n = 0 then (.ok [], s) else
    let k := min n (64 - va % 64)
    let (r, s1) := s.devPart pid va k
    match r with
    | .ok b =>
      let (rs, s2) := State.devReadGo s1 pid fuel (va + k) (n - k)
      (match rs with
        | .ok bs => .ok (b ++ bs)
        | x => x, s2)
    | x => (x, s1)
/-- `n` bytes of a process's memory; a line not at hand is asked for, a page not mapped is serviced first (R259). -/
def State.devRead (s : State) (pid va n : Nat) : DevRead × State := s.devReadGo pid (n / 64 + 2) va n
/-- Bytes of a process's memory that are at hand. -/
def State.readVa (s : State) (pid va n : Nat) : Option (List Byte) × State :=
  match s.devRead pid va n with
  | (.ok bs, s1) => (some bs, s1)
  | _ => (none, s)
def State.readVaN (s : State) (pid va n : Nat) : Option Nat × State :=
  let (r, s1) := s.readVa pid va n
  (r.map ofLe, s1)
/-- A list of 8-byte words ended by a 0, words left as fuel. -/
def State.listGo (s : State) (pid : Nat) : Nat → Nat → DevRead × State
  | 0, _ => (.ok [], s)
  | n + 1, va =>
    match s.devRead pid va 8 with
    | (.ok bs, s1) =>
      if ofLe bs = 0 then (.ok [], s1) else
      let (r, s2) := State.listGo s1 pid n (va + 8)
      (match r with
        | .ok more => .ok (bs ++ more)
        | x => x, s2)
    | (x, s1) => (x, s1)
/-- Lines that the firmware has used are read again the next time. -/
def State.useLines (s : State) : State := { s with devLines := [] }

/-! ### Operations (R275, R276, R278, R296, R334) -/

/-- The word after an update; none when the update writes nothing. -/
def SigOp.word (w : Nat) : SigOp → Option Nat
  | .done => if bit w 63 then none else some ((w + 1) % 2 ^ 63)
  | .put x => some x
  | .add v => if bit w 63 then none else some ((w + v) % 2 ^ 63)

/-- The queue of a descriptor address of a process. -/
def QueueSt.is (pid desc : Nat) (q : QueueSt) : Bool := q.proc == pid && q.desc == desc
def State.updQueue (s : State) (pid desc : Nat) (f : QueueSt → QueueSt) : State :=
  { s with queues := updFirst (QueueSt.is pid desc) f s.queues }

/-- An operation that nothing has begun. -/
def fwOp (pid va : Nat) (w : FwDo) : FwOp := { proc := pid, part := 0, va := va, what := w, wait := none, old := none, hold := none }
/-- The operation in progress is over. -/
def State.fwEnd (s : State) : State := { s with fw := s.fw.drop 1 }
/-- The operation in progress changed. -/
def State.fwHead (s : State) (f : FwOp → FwOp) : State := { s with fw := match s.fw with
  | [] => []
  | x :: l => f x :: l }

/-- The firmware's bytes in local memory, with all that a write there does (R251, R350). -/
def State.fwBytes (s : State) (a part : Nat) (bs : List Byte) : State :=
  ((((s.writeAt (.dram a) bs).curePoison (.dram a) bs.length).touchL2 a part true 0).noteWrite a).wakeXb (.dram a) bs.length
/-- An operation at a local address. -/
def State.fwHere (s : State) (proc a part : Nat) : FwDo → State
  | .put bs => s.fwBytes a part bs
  | .sig op =>
    match op.word (s.readNAt (.dram a) 8) with
    | none => s
    | some w => (s.noteMade true proc (put 46 s.fabric + a)).fwBytes a part (leBytes 8 w)
  | .poison tag =>
    let o := s.readNAt (.dram a) 16
    if xbTag o = tag ∧ !xbPoison o then (s.touchL2 a part true 0).putObject (.dram a) (o + 32) else s
  | _ => s
/-- The 8 bytes at a system address compared with a word and swapped. -/
def State.fwSwap (s : State) (part a old new : Nat) : State :=
  let (tid, s1) := s.send (.fw a) { type := 3, scope := 3, ord := 3, cas := true, w := true, ret := true, pid := part, addr := a, opa := old, opb := new }
  s1.fwHead (fun x => { x with wait := some tid, old := some old })
/-- An operation at a system address leaves: bytes and whole words are written; else the line is read first. -/
def State.fwSend (s : State) (proc part a : Nat) (w : FwDo) : State :=
  let s0 := s.noteMade (match w with
    | .sig _ => true
    | _ => false) proc a
  let write (bs : List Byte) : Nat × State := s0.send (.fw a)
    { type := 2, scope := 3, ord := 2, pid := part, addr := a / 64 * 64, mask := (2 ^ bs.length - 1) * 2 ^ (a % 64), data := ofLe bs * 2 ^ (8 * (a % 64)) }
  let (tid, s1) := match w with
    | .put bs => write bs
    | .sig (.put v) => write (leBytes 8 v)
    | _ => s0.send (.fw a) { type := 1, scope := 3, ord := 1, pid := part, addr := a / 64 * 64 }
  s1.fwHead (fun x => { x with wait := some tid, old := none })

/-- A queue begins to cancel (R278): an active one becomes cancelling. -/
def State.cancelNow (s : State) (pid desc code origin : Nat) : State :=
  if s.queues.any (QueueSt.is pid desc) then
    let s1 := s.updQueue pid desc (fun q => if q.cause.isSome then q else { q with cause := some (code, origin) })
    let (w, s2) := s1.readVaN pid (desc + 11) 1
    if w = some 1 then { s2 with fw := fwOp pid (desc + 11) (.put [2#8]) :: s2.fw } else s2
  else s
/-- What a line that the firmware waits for brings: bytes for an address of a process. -/
def State.fwPulled (s : State) (data : Nat) : State :=
  s.fwHead (fun x => { x with wait := none, what := .put (leBytes 64 data) })
/-- A line asked of a system address, or sent there, without translation. -/
def State.fwLink (s : State) (a : Nat) (bs : Option (List Byte)) : State :=
  let (tid, s1) := s.send (.fw a) (match bs with
    | some b => { type := 2, scope := 3, ord := 2, addr := a, mask := 2 ^ 64 - 1, data := ofLe b }
    | none => { type := 1, scope := 3, ord := 1, addr := a })
  s1.fwHead (fun x => { x with wait := some tid })
/-- Whether a spill entry holds only what R299 admits: no reserved bit, a 4-byte-aligned local address, a SEQ below 2^32 − 1, a NEXT that is an
entry's or the end. -/
def redGood (x : Nat) : Bool :=
  bits x 191 186 == 0 && bits x 255 224 == 0 && bits x 63 0 % 4 == 0 && decide (bits x 63 0 < Config.dramBytes) && bits x 127 96 ≠ 2 ^ 32 - 1 &&
  (decide (bits x 223 192 < 2 ^ 24) || bits x 223 192 == 2 ^ 32 - 1)
/-- A spill entry read back (R299). -/
def redOf (x i : Nat) : TagRed :=
  { slice := sliceOf (bits x 63 0), addr := bits x 63 0, val := BitVec.ofNat 32 (bits x 95 64), seq := bits x 127 96, team := bits x 175 128,
    lane := bits x 185 176, spilled := some i }
/-- The entries of a replanted grid's spill region held again by their keys, in the buffer of a slice that has room, else where they
lie; the lists are written anew (R329). -/
def State.holdReds (s : State) (tag n : Nat) (bs : List Byte) : State :=
  let s1 := forN n (fun i (s : State) =>
    let x := redOf (ofLe ((bs.drop (32 * i)).take 32)) i
    let y := if (s.buffered x.slice).length < Config.holdEntries then { x with spilled := none } else x
    s.updGrid tag (fun g => { g with held := insertRed y g.held })) s
  match s1.grid? tag with
  | none => s1
  | some g => ((g.held.map (·.slice)).eraseDups).foldl (fun (s : State) sl => s.writeSpill g sl) s1
/-- The barrier roll of a replanted grid: its addresses, and room for more as far as its pages go (R296, R329). -/
def State.holdRoll (s : State) (tag : Nat) (bs : List Byte) : State :=
  let l := (List.range (bs.length / 8)).map (fun i => ofLe ((bs.drop (8 * i)).take 8))
  s.updGrid tag (fun g => { g with roll := l, rollCap := max g.rollCap (roundUp (l.length + 1) 8192) })
/-- A spill region or a barrier roll that cannot be read: the grid faults (R53). -/
def State.redsLost (s : State) (tag va : Nat) : State :=
  s.raise tag [{ code := cTranslation, team := 0, grp := 0, lane := 0, ord := 0, pc := 0#64, addr := va, extra := 0 }]
/-- The bytes of the image that lies at an address of a chain which ends at `last` (log 33): none where none lies there. -/
def State.chainImage (s : State) (pid va last : Nat) : DevRead × State :=
  if last < va + 256 then (.ok [], s) else
  match s.devRead pid va 256 with
  | (.ok hd, s1) =>
    let h := ofLe hd
    if bits h 31 0 ≠ 0x47454D49 ∨ bits h 127 64 < 256 ∨ last < va + bits h 127 64 then (.ok [], s1) else s1.devRead pid va (bits h 127 64)
  | x => x
/-- How an operation reaches its address. -/
def FwDo.acc : FwDo → Acc
  | .put _ => .wr
  | _ => .rw
/-- The firmware goes on with its operation in progress, unless it waits; a recovery begins once every transaction has been answered
(R337). An address that no walk reaches, or whose fault was
declined, ends it. -/
def State.fwStep (s : State) : State :=
  match s.fw with
  | [] => s
  | x :: _ =>
    if x.wait.isSome || (match x.hold with
      | some f => s.tfaults.any (fun t => t.id == f)
      | none => false) then s
    else match x.what with
    | .ended _ _ => s.fwEnd
    | .cancel desc code origin => s.fwEnd.cancelNow x.proc desc code origin
    | .close tag queue => s.fwEnd.updQueue x.proc queue (fun q => { q with undone := q.undone.filter (fun t => t ≠ tag) })
    | .job w => if (match w with
        | .recover _ _ _ _ => !s.txns.isEmpty
        | _ => false) then s else { (s.fwHead (fun x => { x with what := .inHand })) with agenda := s.agenda ++ [.job w] }
    | .link bs => if s.firmBusy then s else s.fwLink x.va (some bs)
    | .pull src => if s.firmBusy then s else s.fwLink src none
    | .push dst =>
      (match s.devRead x.proc x.va 64 with
        | (.ok bs, s1) => s1.useLines.fwHead (fun x => { x with va := dst, what := .link bs })
        | (.wait, s1) => s1
        | (.bad va, s1) => (s1.useLines.logRefusal va 0x09 dst).fwEnd
        | (.ecc va, s1) => (s1.useLines.logRefusal va 0x09 dst).fwEnd)
    | .inHand => s
    | .images last part own n =>
      (match s.chainImage x.proc x.va last with
        | (.wait, s1) => s1
        | (.ok bs, s1) =>
          if n = 0 ∨ bs = [] then s1.useLines.fwEnd else
          let s2 := s1.fwHead (fun x => { x with what := .inHand })
          { s2 with agenda := s2.agenda ++ [.job (.replant x.proc x.va last part own n bs)] }
        | (.bad va, s1) => (s1.useLines.logRefusal va 0x10 0).fwEnd
        | (.ecc va, s1) => (s1.useLines.logRefusal va 0x10 0).fwEnd)
    | .holdRoll tag =>
      (match s.listGo x.proc 65536 x.va with
        | (.ok bs, s1) => s1.useLines.fwEnd.holdRoll tag bs
        | (.wait, s1) => s1
        | (.bad va, s1) => s1.useLines.fwEnd.redsLost tag va
        | (.ecc va, s1) => s1.useLines.fwEnd.redsLost tag va)
    | .holdReds tag n =>
      (match s.devRead x.proc x.va (32 * n) with
        | (.ok bs, s1) => s1.useLines.fwEnd.holdReds tag n bs
        | (.wait, s1) => s1
        | (.bad va, s1) => s1.useLines.fwEnd.redsLost tag va
        | (.ecc va, s1) => s1.useLines.fwEnd.redsLost tag va)
    | w =>
      let (r, s1) := s.walkFor x.part x.proc x.va w.acc
      match r.outcome with
      | .at_ (.dram a) => if (s.owner? (.dram a)).isSome then s else s1.fwEnd.fwHere x.proc a x.part w
      | .at_ (.sys a) => if s1.firmBusy then s else s1.fwSend x.proc x.part a w
      | .miss mig =>
        if s1.declined.contains (x.proc, x.va) then (s1.clearDeclined x.proc x.va).fwEnd
        else
          let (id, s2) := s1.fwMiss x.proc x.va w.acc mig
          s2.fwHead (fun x => { x with hold := some id })
      | _ => s1.fwEnd
/-- The firmware goes on until it waits. -/
def State.fwRun (s : State) : State := forN (2 * s.fw.length) (fun _ s => s.fwStep) s
/-- The request in hand waits. -/
def State.later (s : State) : State := { s with ringWait := true }
/-- Operations put behind those not yet made. -/
def State.fwAdd (s : State) (l : List FwOp) : State :=
  let s1 : State := { s with fw := s.fw ++ l }
  if s.fw.isEmpty then s1.fwRun else s1

/-- The answer to the operation in progress (R336): a word found changed is tried again, from what was found; a barrier is read, and
its first 8 bytes compared and swapped (log 90). -/
def State.fwRsp (s : State) (a opa data : Nat) : State :=
  match s.fw with
  | [] => s
  | x :: _ =>
    let again (w : Nat) (op : SigOp) : State := match op.word w with
      | none => s.fwEnd.fwRun
      | some v => s.fwSwap x.part a w v
    match x.what, x.old with
    | .sig (.put _), _ => s.fwEnd.fwRun
    | .sig op, none => again (lineWord a 8 data) op
    | .sig op, some w => if opa = w then s.fwEnd.fwRun else again opa op
    | .poison tag, none =>
      let o := lineWord a 16 data
      if xbTag o = tag ∧ !xbPoison o then s.fwSwap x.part a (o % 2 ^ 64) (o % 2 ^ 64 + 32) else s.fwEnd.fwRun
    | .pull _, _ => (s.fwPulled data).fwRun
    | .poison _, some w => if opa = w then s.fwEnd.fwRun else (s.fwHead (fun x => { x with wait := none, old := none })).fwRun
    | _, _ => s.fwEnd.fwRun

/-- Bytes cut at the ends of lines, each piece with its address; pieces left as fuel. -/
def linesOf : Nat → Nat → List Byte → List (Nat × List Byte)
  | 0, _, _ => []
  | fuel + 1, va, bs =>
    if bs.isEmpty then [] else
    let n := 64 - va % 64
    (va, bs.take n) :: linesOf fuel (va + n) (bs.drop n)
/-- Bytes written into a process's memory by an agent of a partition. -/
def State.putAs (s : State) (part pid va : Nat) (bs : List Byte) : State :=
  s.fwAdd ((linesOf (bs.length / 64 + 2) va bs).map (fun x => { fwOp pid x.1 (.put x.2) with part := part }))
/-- Bytes written into a process's memory by the firmware. -/
def State.putVa (s : State) (pid va : Nat) (bs : List Byte) : State := s.putAs 0 pid va bs
def State.updJob (s : State) (id : Nat) (f : Job → Job) : State := { s with jobs := updFirst (fun j => j.id == id) f s.jobs }
/-- A line of a fill has come: it is written at the tensor's place, and counted (R351). -/
def State.fillLine (s : State) (job id data : Nat) : State :=
  match (s.jobs.find? (fun j => j.id == job)).bind (fun j => (j.fills.find? (fun f => f.id == id)).map (fun f => (j, f))) with
  | none => s
  | some (j, f) =>
    (s.updJob job (fun j => { j with fills := updFirst (fun f => f.id == id) (fun f => { f with done := f.done + 64 }) j.fills })).putVa j.proc
      (f.tensor.vbase + f.done) (leBytes 64 data)
def State.putVaN (s : State) (pid va n x : Nat) : State := s.putVa pid va (leBytes n x)

/-- A signal updated (R275, R276). -/
def State.signalOp (s : State) (pid sig : Nat) (op : SigOp) : State := s.fwAdd [fwOp pid sig (.sig op)]
/-- The signal of a grid or of a LAUNCH, 0 for none (R274). -/
def State.signalFor (s : State) (pid sig : Nat) (op : SigOp) : State := if sig = 0 then s else s.signalOp pid sig op
def State.signalDone (s : State) (pid sig : Nat) : State := s.signalFor pid sig .done
def State.signalPut (s : State) (pid sig w : Nat) : State := s.signalFor pid sig (.put w)
/-- A refused service request: F = 1, CAN = 0, ORIGIN 0, CODE 0x80 + REASON, at whichever address its signal lies (R297). -/
def State.refuse (s : State) (r : Req) (reason : Nat) : State := s.signalOp r.proc r.sig (.put (faultWord (0x80 + reason) 0 false))
/-- A served request. -/
def State.served (s : State) (r : Req) : State := s.signalOp r.proc r.sig .done
def State.cancelQueue (s : State) (pid desc code origin : Nat) : State := s.fwAdd [fwOp pid desc (.cancel desc code origin)]

/-! ### Page tables, as the device's own processors write them (R256, R257) -/

/-- A process, made when it has none: its root is a table of local memory not yet handed out (log 14). -/
def State.ensureProc (s : State) (pid : Nat) : State :=
  match s.proc? pid with
  | some _ => s
  | none =>
    let root := roundUp s.freePa 4096
    { s with procs := s.procs ++ [{ pid := pid, root := root, log := none, written := 0, served := [] }], freePa := root + 4096 }
def State.rootOf (s : State) (pid : Nat) : Nat := match s.proc? pid with
  | some p => p.root
  | none => 0

/-- The entry for `va` at `level` written below table `t`, tables made where none leads on; levels left as fuel. -/
def State.setLeaf (s : State) (va level e : Nat) : Nat → Nat → Nat → State
  | 0, _, _ => s
  | fuel + 1, l, t =>
    let at_ := t + 8 * walkIndex l va
    if l = level then ({ s with dram := s.dram.writeN at_ 8 e }).touchL2 at_ 0 true 0 else
    let x := s.dram.readN at_ 8
    if bit x 0 && !bit x 1 && !malformed l x then State.setLeaf s va level e fuel (l + 1) (bits x 55 8 * 256)
    else if !bit e 0 then s
    else
      let n := roundUp s.freePa 4096
      State.setLeaf (({ s with dram := s.dram.writeN at_ 8 (n + 1), freePa := n + 4096 }).touchL2 at_ 0 true 0) va level e fuel (l + 1) n
/-- The level whose leaf maps pages of a size code PSZ (R326). -/
def levelOf (psz : Nat) : Nat := if psz = 2 then 2 else if psz = 1 then 3 else 4
/-- Entries for `n` pages from `va`, page i's address `step` further. -/
def State.mapPages (s : State) (pid va level e step n : Nat) : State :=
  forN n (fun i (s : State) => s.setLeaf (va + i * pageBytes level) level (if bit e 0 then e + i * step else 0) 5 0 (s.rootOf pid)) s

/-- Pages of local memory not yet handed out, mapped readable and writable where Rolahild lays out a region that has none (R296,
R299, log 25). -/
def State.giveRegion (s : State) (pid va n : Nat) : State :=
  forN ((n + 65535) / 65536) (fun i (s : State) =>
    match walk s.dram (s.rootOf pid) (va + 65536 * i) .wr with
    | .leaf _ 0 _ _ _ _ => s
    | _ =>
      let pa := roundUp s.freePa 65536
      (({ s with freePa := pa + 65536 }).mapPages pid (va + 65536 * i) 4 (15 + pa) 65536 1).remapped pid) s

/-- Whether an address of a process can be served (R277, reason 0x09), a page not mapped being serviced first (R259). -/
inductive Reach where
  | ok | wait | bad
  deriving DecidableEq, Repr, Inhabited
def State.reachVa (s : State) (pid va : Nat) (k : Acc) : Reach × State :=
  let (r, s1) := s.translate pid va k
  match r with
  | .at_ _ => (.ok, s1)
  | .miss mig => if s1.declined.contains (pid, va) then (.bad, s1.clearDeclined pid va) else (.wait, (s1.fwMiss pid va k mig).2)
  | .bad _ => (.bad, s1)

end Sys2Proof.Machine
end

