-- ==== Sys2Proof/Machine/Sched.lean ====
section
/-! DEFINITION. Launching, starting, retiring and completing teams and grids (R26, R27, R30, R276, R289 to R295), and a
grid that faults or is killed (R296, R331 to R334). -/

namespace Sys2Proof.Machine

/-! ### Kernel control blocks (R289 to R292) -/

/-- The block as the machine uses it. -/
def kcbOf (x : Nat) : Kcb :=
  let role (i : Nat) : RoleRec :=
    let r := x / 2 ^ (256 + 128 * i) % 2 ^ 128
    { groups := bits r 15 0, budget := bits r 31 16, stack := bits r 63 32, entry := bits r 127 64 }
  let dim (n : Nat) := if n = 0 then 0 else 8 * 2 ^ n
  let tile (i : Nat) : Nat × Nat × Bool := let r := x / 2 ^ (768 + 16 * i) % 65536; (dim (bits r 1 0), dim (bits r 3 2), bit r 4)
  { width := bits x 23 16, roles := (List.range (bits x 31 24)).map role, scratch := bits x 63 32, copyq := bits x 79 64,
    cluster := bits x 87 80, disp := bit x 88, det := bit x 89, fptrap := BitVec.ofNat 5 (bits x 100 96), spill := bits x 159 128,
    canlo := bits x 191 160, cann := bits x 223 192, tiles := (List.range 16).map tile }

/-- Bytes of a kernel's tile footprints (R224). -/
def Kcb.footprint (k : Kcb) : Nat := (k.tiles.map (fun t => t.1 * t.2.1 * (if t.2.2 then 16 else 4))).sum
/-- Scratchpad of a team, rounded up (R293). -/
def Kcb.scratchPad (k : Kcb) : Nat := roundUp k.scratch 1536

/-- R289 to R291 for a block: the byte offset of the lowest field outside its Values. -/
def kcbBad (o : CodeObj) (x : Nat) : Option Nat :=
  let k := kcbOf x
  let n := o.canon.length
  let roleBad (i : Nat) : List (Nat × Bool) :=
    let r := x / 2 ^ (256 + 128 * i) % 2 ^ 128
    let b := 32 + 16 * i
    if k.roles.length ≤ i then [(b, r == 0)] else
    let q := k.role i
    [(b, 1 ≤ q.groups && decide (q.groups * k.width ≤ 1024)), (b + 2, 16 ≤ q.budget && decide (q.budget ≤ 192) && q.budget % 8 == 0),
     (b + 4, decide (q.budget ≤ q.stack) && decide (q.stack ≤ 65536) && q.stack % 8 == 0),
     (b + 8, match o.canonOf q.entry with
        | some j => decide (k.canlo ≤ j) && decide (j < k.canlo + k.cann)
        | none => false)]
  let tileBad (i : Nat) : Nat × Bool :=
    let r := x / 2 ^ (768 + 16 * i) % 65536
    (96 + 2 * i, bits r 15 5 == 0 && (if bits r 1 0 = 0 then r == 0 else bits r 3 2 ≠ 0))
  let checks : List (Nat × Bool) :=
    [(0, bits x 15 0 == 1), (2, [8, 16, 32, 64].contains k.width), (3, 1 ≤ k.roles.length && decide (k.roles.length ≤ 4)),
     (4, k.scratch % 16 == 0), (8, 16 ≤ k.copyq && decide (k.copyq ≤ 256)), (10, [1, 2, 4, 8].contains k.cluster),
     (11, bits x 95 90 == 0), (12, bits x 127 101 == 0), (16, if k.det then decide (k.spill ≤ 2 ^ 24) else k.spill == 0),
     (20, decide (k.canlo < n)), (24, 1 ≤ k.cann && decide (k.cann ≤ n - k.canlo)), (28, bits x 255 224 == 0)] ++
    (List.range 4).flatMap roleBad ++ (List.range 16).map tileBad
  (checks.find? (fun c => !c.2)).map (·.1)
/-- The limits of R24, R26 and R292. -/
def kcbOver (k : Kcb) : Option Nat :=
  if 1024 < k.lanes then some 32 else if Config.scratchBytes < k.scratch then some 4
  else if Config.accumBytes < k.footprint then some 96 else none

/-! ### Launching (R274, R277, R284, R292, R293) -/

/-- The first and past-the-last octets of a partition; those reserved for tick grids are its last `ticko`. -/
def Part.octets (p : Part) : List Nat := (List.range p.count).map (fun i => p.first + i)
def Part.tickOctets (p : Part) : List Nat := (List.range p.ticko).map (fun i => p.first + p.count - p.ticko + i)
/-- Octets in service, by the configuration record (R12, R342). -/
def State.inService (s : State) (o : Nat) : Bool := bit (s.cfg 151 32) o

/-- Whether a cluster fits on one octet that holds nothing (R293). -/
def Kcb.perCore (k : Kcb) : Nat :=
  let lim (have_ need : Nat) : Nat := if need = 0 then k.cluster else have_ / need
  min (min (lim Config.scratchBytes k.scratchPad) (lim Config.accumBytes k.footprint)) (lim Config.coreLanes k.lanes)
def Kcb.fitsEmpty (k : Kcb) : Bool := decide (k.cluster ≤ 8 * k.perCore)

/-- A parsed LAUNCH. -/
structure Launch where
  plen : Nat
  koff : Nat
  code : Nat
  param : Nat
  x : Nat
  y : Nat
  z : Nat
  n : Nat
  sig : Nat
  deriving DecidableEq, Repr, Inhabited

def launchOf (c : Nat) : Launch :=
  { plen := bits c 31 16, koff := bits c 63 32, code := bits c 127 64, param := bits c 191 128, x := bits c 223 192, y := bits c 255 224,
    z := bits c 287 256, n := bits c 335 288, sig := bits c 415 352 }

/-- What checking a LAUNCH finds: the kernel and its parameters, a reason with its detail, or bytes on their way. -/
inductive Checked where
  | ok (k : Kcb) (o : CodeObj) (params : List Byte)
  | bad (reason detail : Nat)
  | wait
  deriving DecidableEq, Repr, Inhabited

/-- The checks of a LAUNCH with the reasons of R277, in the order of log 11 (R273, R274, R290 to R293). -/
def State.checkLaunch (s : State) (pid pt : Nat) (tick : Bool) (c : Nat) : Checked × State :=
  let l := launchOf c
  let resv : List (Nat × Bool) := [(1, bits c 15 9 == 0), (42, bits c 351 336 == 0), (52, bits c 511 416 == 0)]
  match resv.find? (fun x => !x.2) with
  | some x => (.bad 0x02 x.1, s)
  | none =>
    if 4032 < l.plen ∨ l.plen % 4 ≠ 0 then (.bad 0x0B 2, s)
    else if l.param % 8 ≠ 0 then (.bad 0x03 l.param, s)
    else if l.plen = 0 ∧ l.param ≠ 0 then (.bad 0x0B 16, s)
    else if l.sig % 8 ≠ 0 then (.bad 0x03 l.sig, s)
    else match s.objects.find? (fun o => o.handle == l.code && o.proc == pid) with
      | none => (.bad 0x04 l.koff, s)
      | some o => match o.kcbs.find? (fun x => x.1 == l.koff) with
        | none => (.bad 0x04 l.koff, s)
        | some (_, x) =>
          let k := kcbOf x
          match kcbBad o x with
          | some off => (.bad 0x05 off, s)
          | none => match kcbOver k with
            | some off => (.bad 0x06 off, s)
            | none =>
              let ext : List (Nat × Bool) :=
                [(24, 1 ≤ l.x), (28, 1 ≤ l.y), (32, 1 ≤ l.z), (36, k.disp == decide (l.n ≠ 0)),
                 (24, if k.disp then decide (k.cluster ≤ l.x) && decide (l.x ≤ 2 ^ 20) && l.x % k.cluster == 0
                      else decide (l.x * l.y * l.z ≤ 2 ^ 48 - 1) && l.x * l.y * l.z % k.cluster == 0),
                 (28, !k.disp || l.y == 1), (32, !k.disp || l.z == 1)]
              match ext.find? (fun x => !x.2) with
              | some x => (.bad 0x07 x.1, s)
              | none =>
                let room := match s.part? pt with
                  | none => true
                  | some p => tick || decide (p.ticko < p.count)
                if !(k.fitsEmpty && room) then (.bad 0x08 4, s)
                else
                  let (r, s1) := s.devRead pid l.param l.plen
                  match r with
                  | .bad va => (.bad 0x09 va, s1)
                  | .ecc va => (.bad 0x09 va, s1)
                  | .wait => (.wait, s1)
                  | .ok bs =>
                    if l.sig = 0 then (.ok k o bs, s1) else
                    match s1.reachVa pid l.sig .rw with
                    | (.ok, s2) => (.ok k o bs, s2)
                    | (.wait, s2) => (.wait, s2)
                    | (.bad, s2) => (.bad 0x09 l.sig, s2)

/-- Whether a grid is alive: its completion or fault status has not been written (R295). -/
def State.alive (s : State) (tag : Nat) : Bool := s.grids.any (fun g => g.tag == tag) || s.fw.any (fun x => match x.what with
  | .ended t _ => t == tag
  | _ => false)
/-- Whether a grid of a code object is alive. -/
def State.inUse (s : State) (handle : Nat) : Bool := s.grids.any (fun g => g.handle == handle) || s.fw.any (fun x => match x.what with
  | .ended _ h => h == handle
  | _ => false)
/-- Tags of grids that have ended and that the firmware has not let go of (R295, R296). -/
def State.tagsClosing (s : State) : List Nat := s.fw.filterMap (fun x => match x.what with
  | .close tag _ => some tag
  | _ => none)
/-- Grid tags in use (R295). -/
def State.tagsHeld (s : State) : List Nat := s.grids.map (·.tag) ++ s.imageTags ++ s.tagsClosing
/-- The next free tag: the sequence skips 0 and every value held. -/
def freeTagGo (s : State) : Nat → Nat → Nat
  | 0, q => q
  | n + 1, q =>
    let q := if q % 65536 = 0 then 1 else q % 65536
    if s.tagsHeld.any (fun t => t % 65536 == q) then freeTagGo s n (q + 1) else q
def State.freeTag (s : State) : Nat := freeTagGo s (s.tagsHeld.length + 1) s.nextTag

/-- Where Rolahild lays out a grid's register backing area and its spill region (log 25): at pages of 64 KiB. -/
def backingVa (tag : Nat) : Nat := Config.backingAt tag % 2 ^ 39 * 65536
def spillVa (tag : Nat) : Nat := Config.spillAt tag % 2 ^ 39 * 65536
/-- A grid accepted (R284, R295); a deterministic grid's spill region is laid out (R299). -/
def State.accept (s : State) (pid pt desc : Nat) (tick : Bool) (c : Nat) (k : Kcb) (o : CodeObj) (params : List Byte) : Nat × State :=
  let l := launchOf c
  let q := s.freeTag
  let tag := s.tagOf q
  let g : Grid :=
    { tag := tag, proc := pid, handle := o.handle, koff := l.koff, kcb := k, x := l.x, y := l.y, z := l.z, n := l.n, params := params,
      sig := l.sig, queue := desc, tick := tick, part := pt, order := s.nextId, started := 0, next := 0, claims := [], cbars := [],
      roll := [], rollCap := Config.rollRoom tag, faults := [], killed := false, held := [], backing := backingVa tag,
      spillad := if k.det then spillVa tag else 0, ser := none, dbg := none, lcrec := none }
  let s1 : State := { s.fresh with grids := s.grids ++ [g], nextTag := if q = 65535 then 1 else q + 1 }
  (tag, if k.det then s1.giveRegion pid g.spillad (32 * k.spill) else s1)

/-! ### Placing teams (R27, R30, R31, R293, R294) -/

/-- A lane at the start (R30), standing at its role's entry (R302). -/
def Lane.start (entry : Nat) (ord : Nat) : Lane :=
  let pc := BitVec.ofNat 64 entry
  let sn : Snapshot := { ord := ord, pc := pc, frames := [], w0 := 0, loops := [], lc0 := 0#32, lc1 := 0#32, lc2 := 0#32,
                         yielded := false, demoted := false, fstat := 0#5 }
  { st := .running, yielded := false, demoted := false, pc := pc, frames := [], w0 := 0, v := [], spoilt := [],
    cold := false, p := 0#96, lc0 := 0#32, lc1 := 0#32, lc2 := 0#32, loops := [], fstat := 0#5, sigma := 0#64, snap := sn, since := 0, irrev := false,
    xfer := false, matArr := false, arrived := [], closer := false, tseq := 0, after := [], owed := false }

/-- A group at the start (R30). -/
def groupStart (g : Grid) (text : Nat) (canon : Nat → Nat) (team num sched : Nat) : Group :=
  let r := g.kcb.roleOf num
  let e := (g.kcb.role r).entry
  { tag := g.tag, team := team, num := num, role := r, s := [], sAt := [], spoilt := [], cv := [],
    lanes := List.replicate g.kcb.width (Lane.start (text + e) (canon e)), insts := [], sched := sched, lastIssue := 0, issues := 0,
    stopped := false, hold := none, stepping := false, canonSince := true, blocked := 0 }

/-- The tiles of a kernel in the AZERO state with E = 0 (R224). -/
def Kcb.tileStart (k : Kcb) : List Tile :=
  (List.range 16).map (fun i =>
    let t := k.tiles.getD i (0, 0, false)
    { rows := t.1, cols := t.2.1, exact := t.2.2, elem := [], nan := [], e := 0, flag := false, spoilt := [] })

/-- A team at the start. -/
def teamStart (g : Grid) (idx core base : Nat) : Team :=
  { tag := g.tag, idx := idx, core := core, base := base, resident := true, image := [], tiles := g.kcb.tileStart,
    shadows := g.kcb.tileStart, copies := [], nextSeq := 0, tb := List.replicate 16 { n := 0, e := none }, matq := [],
    lastMat := none, past := [], marked := [], setups := [], stopped := false }

/-- Resident teams of a core with their kernels. -/
def State.onCore (s : State) (core : Nat) : List (Team × Kcb) :=
  (s.teams.filter (fun t => t.resident && t.core == core)).map (fun t => (t, match s.grid? t.tag with
    | some g => g.kcb
    | none => { width := 0, roles := [], scratch := 0, copyq := 0, cluster := 1, disp := false, det := false, fptrap := 0#5, spill := 0, canlo := 0, cann := 0, tiles := [] }))

/-- Whether a scratchpad region of a core is free of `used` regions. -/
def freeRegion (used : List (Nat × Nat)) (base n : Nat) : Bool :=
  decide (base + n ≤ Config.scratchBytes) && used.all (fun u => !(decide (base < u.1 + u.2) && decide (u.1 < base + n)))
/-- How many more teams of a kernel a core can take, up to `n`. -/
def coreRoomGo (k : Kcb) : Nat → List (Nat × Nat) → Nat → Nat → Nat
  | 0, _, _, _ => 0
  | n + 1, used, acc, lanes =>
    if Config.accumBytes < acc + k.footprint ∨ Config.coreLanes < lanes + k.lanes then 0 else
    match (List.range 256).find? (fun i => freeRegion used (i * 1536) k.scratchPad) with
    | none => 0
    | some i => 1 + coreRoomGo k n ((i * 1536, k.scratchPad) :: used) (acc + k.footprint) (lanes + k.lanes)
def State.coreRoom (s : State) (k : Kcb) (core n : Nat) : Nat :=
  let here := s.onCore core
  coreRoomGo k n (here.map (fun x => (x.1.base, x.2.scratchPad))) ((here.map (fun x => x.2.footprint)).sum) ((here.map (fun x => x.2.lanes)).sum)

/-- The octets on which a grid's teams may be placed now (R286, R288). -/
def State.octetsFor (s : State) (g : Grid) : List Nat :=
  match s.part? g.part with
  | none => []
  | some p =>
    let own := p.octets.filter (fun o => !(p.tickOctets.contains o) && p.proc == g.proc)
    (if g.tick then p.tickOctets ++ own else own).filter s.inService

/-- The teams of the cluster that a grid places next: those of an image not yet reinstated, else the next not started. -/
def State.nextTeams (s : State) (g : Grid) : List Nat :=
  let out := (s.teams.filter (fun t => t.tag == g.tag && !t.resident)).map (·.idx)
  match lowest out with
  | some t => (List.range g.kcb.cluster).filterMap (fun r =>
      let i := g.clusterOf t * g.kcb.cluster + r
      if out.contains i then some i else none)
  | none => if g.started < g.teamCount then (List.range g.kcb.cluster).map (fun r => g.started + r) else []

/-- The octets among some that have room for a grid's next cluster. -/
def State.roomy (s : State) (g : Grid) (os : List Nat) : List Nat :=
  let n := (s.nextTeams g).length
  if n = 0 then [] else
  os.filter (fun o => decide (n ≤ ((List.range 8).map (fun c => s.coreRoom g.kcb (8 * o + c) n)).sum))
/-- Whether some octet has room for a grid's next cluster. -/
def State.fitsNow (s : State) (g : Grid) : Bool := !(s.roomy g (s.octetsFor g)).isEmpty
/-- The octets that a grid's next cluster may take: the reserved ones first when the grid comes from a tick queue (R288). -/
def State.octetsNow (s : State) (g : Grid) : List Nat :=
  let all := s.octetsFor g
  let first := s.roomy g (match s.part? g.part with
    | some p => if g.tick then all.filter p.tickOctets.contains else []
    | none => [])
  if first.isEmpty then all else first

/-- Whether a grid's next teams are its lowest unretired, which R294 places first. -/
def State.isLowest (s : State) (g : Grid) : Bool :=
  match lowest (s.nextTeams g) with
  | none => false
  | some t => s.teams.all (fun u => !(u.tag == g.tag && u.resident && decide (u.idx < t)))
/-- Whether grid `a` comes before `b` in the order of R294. -/
def State.placedBefore (s : State) (a b : Grid) : Bool :=
  let la := s.isLowest a
  let lb := s.isLowest b
  if la ≠ lb then la else decide (a.order < b.order)

/-- Whether a grid may have teams placed: not stopped, killed, faulted, its reductions and its barrier roll held again (R329), and its
job not recovering, on this member or another (R351, R354). -/
def State.mayPlace (s : State) (g : Grid) : Bool :=
  g.faults.isEmpty && !g.killed && g.ser.isNone && !s.mgmt.powerStopped &&
  s.fw.all (fun x => match x.what with
    | .holdReds tag _ => tag ≠ g.tag
    | .holdRoll tag => tag ≠ g.tag
    | _ => true) &&
  s.jobs.all (fun j => !(j.proc == g.proc && (j.recovering || !j.fills.isEmpty)))

/-- Whether places can take the teams: bases on 1,536 bytes, free room, one of the four schedulers for each group (R15, R33). -/
def placesOk (s : State) (g : Grid) : List Place → List (Nat × Nat × Nat) → Bool
  | [], _ => true
  | p :: ps, mine =>
    let here := s.onCore p.core
    let same := mine.filter (fun m => m.1 == p.core)
    let used := here.map (fun x => (x.1.base, x.2.scratchPad)) ++ same.map (fun m => (m.2.1, m.2.2))
    p.base % 1536 == 0 && freeRegion used p.base g.kcb.scratchPad &&
    decide ((here.map (fun x => x.2.footprint)).sum + (same.length + 1) * g.kcb.footprint ≤ Config.accumBytes) &&
    decide ((here.map (fun x => x.2.lanes)).sum + (same.length + 1) * g.kcb.lanes ≤ Config.coreLanes) &&
    p.scheds.length == g.kcb.groupCount && p.scheds.all (fun x => decide (x < 4)) && placesOk s g ps ((p.core, p.base, g.kcb.scratchPad) :: mine)

/-- A core takes a team: its caches hold nothing older than the writes visible at the launch (R269). -/
def State.freshen (s : State) (core : Nat) : State := (s.dropL1 core).dropI core
/-- One team put on its place: reinstated, or started; the core's register store keeps what it has room for (R15). -/
def State.placeTeam (s0 : State) (g : Grid) (idx : Nat) (p : Place) : State :=
  let s := s0.freshen p.core
  let placed : State := match s.team? g.tag idx with
  | some t =>
    let s1 := s.updTeam g.tag idx (fun t => { t with core := p.core, base := p.base, resident := true, image := [] })
    let s2 := forN g.kcb.scratch (fun i (s : State) =>
      { s with scratch := s.scratch.write (scrKey p.core (p.base + i)) (t.image.read i) }) s1
    { s2 with groups := s2.groups.map (fun x => if x.tag == g.tag && x.team == idx then { x with sched := p.scheds.getD x.num 0 } else x) }
  | none =>
    let o := s.object? g.handle
    let text := (o.map (·.text)).getD 0
    let canon (off : Nat) : Nat := (o.bind (fun o => o.canonOf off)).getD 0
    let gs := (List.range g.kcb.groupCount).map (fun n => groupStart g text canon idx n (p.scheds.getD n 0))
    { s with teams := s.teams ++ [teamStart g idx p.core p.base], groups := s.groups ++ gs }
  placed.fitStore p.core (fun _ => false)

/-- Whether the places are those that R27, R293 and R294 let the grid's next teams take now. -/
def State.placeable (s : State) (g : Grid) (places : List Place) : Bool :=
  let ts := s.nextTeams g
  let octets := s.octetsNow g
  s.mayPlace g && !ts.isEmpty && ts.length == places.length &&
  places.all (fun p => octets.contains (p.core / 8) && p.core / 8 == (places.headD { core := 0, base := 0, scheds := [] }).core / 8) &&
  placesOk s g places [] &&
  s.grids.all (fun b => !(b.part == g.part && b.tag != g.tag && s.mayPlace b && s.placedBefore b g && s.fitsNow b))
/-- TEAM_PLACEMENT (R294). -/
def placementAt (s : State) (tag : Nat) (places : List Place) : State :=
  match s.grid? tag with
  | none => s
  | some g =>
    if !s.placeable g places then s else
    let ts := s.nextTeams g
    let s1 := (ts.zip places).foldl (fun (s : State) x => s.placeTeam g x.1 x.2) s
    s1.updGrid tag (fun g => { g with started := max g.started (ts.foldl (fun m t => max m (t + 1)) 0) })

/-- TEAM_PLACEMENT: a waiting team, or a whole cluster, is placed (R294). -/
def execTeamPlacement (tag : Nat) (places : List Place) (s : State) : Host.Outcome State Fault Refusal := .next (placementAt s tag places)

/-! ### Retiring and completing (R26, R276, R295) -/

/-- Whether every lane of a team has exited, nothing of it is on its way, and no access still names its scratchpad. -/
def State.mayRetire (s : State) (g : Grid) (t : Team) : Bool :=
  let here : Loc := t.place 0
  t.resident && (s.teamGroups g.tag t.idx).all (fun x => x.lanes.all (fun l => decide (l.st = .exited))) &&
  t.copies.all (·.hint) && t.matq.isEmpty && s.reds.all (fun r => !(r.tag == g.tag && r.red.team == t.idx)) &&
  s.fetches.all (fun x => !(x.tag == g.tag && x.team == t.idx)) &&
  s.accs.all (fun a => !((a.tag == g.tag && a.team == t.idx) || a.loc.meets a.size here g.kcb.scratch)) &&
  s.sigs.all (fun x => !((x.tag == g.tag && x.team == t.idx) || x.loc.meets 16 here g.kcb.scratch))

/-- What a team holds is gone: its groups, its results, its claims. -/
def State.removeTeam (s : State) (tag team : Nat) : State :=
  let other (a b : Nat) : Bool := !(a == tag && b == team)
  let s1 : State := { s with
    teams := s.teams.filter (fun t => other t.tag t.idx), groups := s.groups.filter (fun x => other x.tag x.team),
    results := s.results.filter (fun r => other r.tag r.team) }
  s1.updGrid tag (fun g => { g with claims := g.claims.filter (fun c => c.team ≠ team) })

/-- TEAM_RETIRE (R26, R220). -/
def retireAt (s : State) (tag team : Nat) : State :=
  match s.grid? tag, s.team? tag team with
  | some g, some t => if s.mayRetire g t && !g.stays then (s.removeTeam tag team).checkCb tag (g.clusterOf team) else s
  | _, _ => s

/-- TEAM_RETIRE: a finished team releases what it holds (R26). -/
def execTeamRetire (tag team : Nat) (s : State) : Host.Outcome State Fault Refusal := .next (retireAt s tag team)

/-- A grid leaves; what its tag kept from programs is over (R246). -/
def State.removeGrid (s : State) (tag : Nat) : State := ({ s with grids := s.grids.filter (fun x => x.tag ≠ tag) }).freeAreas tag
/-- What a grid keeps beside its image, by the cause of its serialise. -/
def Grid.keep (g : Grid) (cause : Nat) (byPower byTurn : Bool) : Kept :=
  { tag := g.tag, proc := g.proc, dbg := g.dbg, lcrec := g.lcrec, part := g.part, tick := g.tick, order := g.order, cause := cause,
    byPower := byPower, byTurn := byTurn }
/-- What the firmware does for a grid that ends: its signal, and the requests of a serialise in progress (R316), get their words;
then it is no longer alive (R295); its tag is free, and its LAUNCH complete (R272). -/
def Grid.lastOps (g : Grid) (op : SigOp) (refusal : Nat) : List FwOp :=
  (if g.sig = 0 then [] else [fwOp g.proc g.sig (.sig op)]) ++ [fwOp g.proc g.sig (.ended g.tag g.handle)] ++
  (match g.ser with
    | none => []
    | some x => x.reqs.map (fun (q : Nat × Nat) => fwOp q.2 q.1 (.sig (.put refusal))))
def Grid.closeOp (g : Grid) : FwOp := fwOp g.proc g.queue (.close g.tag g.queue)
/-- Whether every team has retired and every copy and reduction of the grid is done (R276). -/
def State.mayComplete (s : State) (g : Grid) : Bool :=
  g.teamCount ≤ g.started && s.teams.all (fun t => t.tag ≠ g.tag) && g.held.isEmpty && s.reds.all (fun r => r.tag ≠ g.tag) &&
  s.accs.all (fun a => a.tag ≠ g.tag) && s.sigs.all (fun a => a.tag ≠ g.tag) && g.faults.isEmpty && !g.killed && !g.stays

/-- GRID_COMPLETION (R276): the signal gains 1; a serialise that the completion forestalled is refused (R316). -/
def completionAt (s : State) (tag : Nat) : State :=
  match s.grid? tag with
  | none => s
  | some g =>
    if !s.mayComplete g then s else (s.removeGrid tag).fwAdd (g.lastOps .done (faultWord 0x98 0 false) ++ [g.closeOp])

/-- GRID_COMPLETION: the completion signal is incremented (R276). -/
def execGridCompletion (tag : Nat) (s : State) : Host.Outcome State Fault Refusal := .next (completionAt s tag)

/-! ### A grid that faults or is killed (R296, R332 to R334) -/

/-- The order of faults (R332). -/
def FaultRec.key (a b : FaultRec) : Bool :=
  decide (a.team < b.team) || (a.team == b.team && (decide (a.grp < b.grp) || (a.grp == b.grp && decide (a.lane < b.lane))))
/-- Each lane's first fault only. -/
def firstFaults : List FaultRec → List FaultRec → List FaultRec
  | acc, [] => acc
  | acc, x :: xs =>
    if acc.any (fun y => y.team == x.team && y.grp == x.grp && y.lane == x.lane) then firstFaults acc xs else firstFaults (acc ++ [x]) xs
/-- The reported fault and COUNT (R332). -/
def windowReport (l : List FaultRec) : Option (FaultRec × Nat) :=
  let fs := firstFaults [] l
  match fs.foldl (fun (m : Option FaultRec) x => match m with
    | none => some x
    | some y => if x.key y then some x else some y) none with
  | none => none
  | some r => some (r, min ((fs.map (fun x => x.extra)).sum + (fs.length - 1)) (2 ^ 18 - 1))

/-- The 32 bytes of a fault record (R333); a kill's holds CODE and TAG only (R331). -/
def faultRecord (tag : Nat) (r : FaultRec) (count : Nat) : Nat :=
  if r.code = cKilled then put 0 cKilled + put 8 tag
  else put 0 r.code + put 8 tag + put 32 r.team + put 80 r.grp + put 87 r.lane + put 93 (r.ord % 2 ^ 24) + put 117 (r.pc.toNat % 2 ^ 57) +
    put 174 (r.addr % 2 ^ 64) + put 238 count

/-- A record for a process's fault log (R334): what the firmware writes, and the count. -/
def State.logOps (s : State) (pid rec : Nat) : List FwOp :=
  match s.proc? pid with
  | none => []
  | some p => match p.log with
    | none => []
    | some (a, k) =>
      (if p.written < k then [fwOp pid (a + 64 + 32 * p.written) (.put (leBytes 32 rec))] else []) ++ [fwOp pid a (.put (leBytes 8 (p.written + 1)))]
def State.logged (s : State) (pid : Nat) : State :=
  s.updProc pid (fun p => { p with written := if p.log.isSome then p.written + 1 else p.written })

/-- Nothing of a grid's agents is left once it stops. -/
def State.dropAgents (s : State) (tag : Nat) : State :=
  let s := s.disown (fun o => o.tag == tag)
  { s with
    teams := s.teams.filter (fun t => t.tag ≠ tag), groups := s.groups.filter (fun x => x.tag ≠ tag), results := s.results.filter (fun r => r.tag ≠ tag),
    fetches := s.fetches.filter (fun r => r.tag ≠ tag), reds := s.reds.filter (fun r => r.tag ≠ tag),
    sigs := s.sigs.filter (fun x => x.tag ≠ tag), accs := s.accs.filter (fun a => a.tag ≠ tag),
    tfaults := s.tfaults.filter (fun t => match t.who with
      | .issue g _ _ _ _ => g ≠ tag
      | .copy g _ _ => g ≠ tag
      | .firmware => true) }

/-- An observation that a parked lane makes until its phase is done: no effect of an issue. -/
def Access.observing (a : Access) : Bool := match a.kind with
  | .xbwait => true
  | _ => false
/-- Whether the stopping window is over: every group has stopped, what issued has taken effect, and the matrix instances in
progress have completed: one that a serialise holds has not begun (R313, R332). -/
def State.windowOver (s : State) (tag : Nat) : Bool :=
  s.groups.all (fun g => g.tag ≠ tag || g.stopped) &&
  s.accs.all (fun a => a.tag ≠ tag || a.observing) && s.sigs.all (fun x => x.tag ≠ tag) && s.results.all (fun r => r.tag ≠ tag) &&
  s.teams.all (fun t => t.tag ≠ tag || (match t.matq.head?, s.grid? tag with
    | some i, some g => s.matHeld g t i
    | none, _ => true
    | some _, none => false))

/-- A device error, which starts the recovery of the job that the process belongs to (R331). -/
def recovers (code : Nat) : Bool := code == cEcc || code == cLink
/-- The job that a grid's fault takes back to its last complete point (R331, R353). -/
def State.rollsBack (s : State) (g : Grid) (r : FaultRec) : Option Job :=
  s.jobs.find? (fun j => recovers r.code && j.proc == g.proc && j.complete.isSome)
/-- What the firmware does when a grid stops, in the order of R296: steps 4 to 7, the end of the grid's tag, the recovery. -/
def State.stopOps (s : State) (g : Grid) (r : FaultRec) (count : Nat) : List FwOp :=
  let word := faultWord r.code g.tag false
  g.roll.map (fun a => fwOp g.proc a (.poison g.tag)) ++ s.logOps g.proc (faultRecord g.tag r count) ++ g.lastOps (.put word) word ++
  [fwOp g.proc g.queue (.cancel g.queue r.code g.tag), g.closeOp] ++
  (match s.rollsBack g r with
    | none => []
    | some j => [fwOp g.proc 0 (.job (.recover j.id none [] 0))])
/-- The seven steps of R296; the addresses whose faults were declined have been reported. What a grid that a recovery brings back keeps
beside its image stays for it (R353). -/
def State.stopGrid (s : State) (g : Grid) (r : FaultRec) (count : Nat) : State :=
  let s1 := ((s.dropAgents g.tag).removeGrid g.tag).logged g.proc
  ({ s1 with declined := s1.declined.filter (fun x => x.1 ≠ g.proc),
             kept := if (s.rollsBack g r).isSome then g.keep 4 false false :: s1.kept.filter (fun k => k.tag ≠ g.tag) else s1.kept }).fwAdd
    (s.stopOps g r count)

/-- The record of a kill. -/
def killRec : FaultRec := { code := cKilled, team := 0, grp := 0, lane := 0, ord := 0, pc := 0#64, addr := 0, extra := 0 }
/-- Every group of a grid stops at its issue boundary (R332). -/
def State.stopGroups (s : State) (tag : Nat) : State :=
  { s with groups := s.groups.map (fun x => if x.tag == tag then { x with stopped := true } else x) }

/-- GRID_FAULT (R296): its groups stop, and at the window's end the grid stops with the fault that R332 reports, or with KILLED. -/
def gridFaultAt (s : State) (tag : Nat) : State :=
  match s.grid? tag with
  | none => s
  | some g =>
    if !g.killed && g.faults.isEmpty then s
    else if !s.windowOver tag then s.stopGroups tag
    else if g.killed then s.stopGrid g killRec 0
    else match windowReport g.faults with
      | none => s
      | some (r, n) => s.stopGrid g r n

/-- GRID_FAULT: a faulting or killed grid stops (R296). -/
def execGridFault (tag : Nat) (s : State) : Host.Outcome State Fault Refusal := .next (gridFaultAt s tag)

end Sys2Proof.Machine
end

