-- ==== Sys2Proof/Machine/Queue.lean ====
section
/-! DEFINITION. Queues and their commands (R271 to R279): reading in turn, starting, refusing with an error record,
holding and cancelling. -/

namespace Sys2Proof.Machine

/-- The fields of a queue descriptor (R271). -/
structure Desc where
  ring : Nat
  log2 : Nat
  part : Nat
  tickq : Bool
  state : Nat
  rd : Nat
  wr : Nat
  period : Nat
  phase : Nat
  overrun : Nat
  proc : Nat
  raw : Nat
  deriving DecidableEq, Repr, Inhabited

def descOf (d : Nat) : Desc :=
  { ring := bits d 63 0, log2 := bits d 71 64, part := bits d 74 72, tickq := bit d 75, state := bits d 95 88, rd := bits d 127 96,
    wr := bits d 159 128, period := bits d 191 160, phase := bits d 223 192, overrun := bits d 255 224, proc := bits d 399 384, raw := d }
def State.desc? (s : State) (q : QueueSt) : Option Desc × State :=
  let (w, s1) := s.readVaN q.proc q.desc 64
  (w.map descOf, s1)

/-- The reason to refuse a descriptor: a reserved field or one outside its Values, with the field's byte offset, or the address when it is
misaligned (R4, R5, R271, R277); which comes first is the order of log 11. -/
def descBad (d : Desc) : Option (Nat × Nat) :=
  let checks : List (Nat × Nat × Bool) :=
    [(0x02, 9, bits d.raw 87 76 == 0), (0x02, 50, bits d.raw 511 400 == 0), (0x03, d.ring, d.ring % 64 == 0),
     (0x0B, 8, decide (4 ≤ d.log2) && decide (d.log2 ≤ 16)), (0x0B, 11, decide (d.state ≤ 3)),
     (0x0B, 20, if d.tickq then decide (1000 ≤ d.period) else d.period == 0),
     (0x0B, 24, if d.tickq then decide (d.phase < d.period) else d.phase == 0), (0x0B, 48, d.proc ≠ 0)]
  (checks.find? (fun c => !c.2.2)).map (fun c => (c.1, c.2.1))
/-- The address of the slot of command n. -/
def Desc.slot (d : Desc) (n : Nat) : Nat := d.ring + 64 * (n % 2 ^ d.log2)

def State.setField (s : State) (q : QueueSt) (off n v : Nat) : State := s.putVaN q.proc (q.desc + off) n v
def State.setState (s : State) (q : QueueSt) (v : Nat) : State := s.setField q 11 1 v
/-- RD advanced past a command that was read. -/
def State.advance (s : State) (q : QueueSt) (d : Desc) : State := s.setField q 12 4 ((d.rd + 1) % 2 ^ 32)
/-- The error record of a refused command (R277): nothing further is read. -/
def State.queueError (s : State) (q : QueueSt) (d : Desc) (reason detail : Nat) : State :=
  ((s.setField q 32 16 (put 0 d.rd + put 32 reason + put 64 (detail % 2 ^ 64))).advance q d).setState q 3
def State.qset (s : State) (q : QueueSt) (f : QueueSt → QueueSt) : State := s.updQueue q.proc q.desc f

/-- A run-list entry (R286): process, quantum, list of descriptors; or the REASON for which it is refused. -/
def entryOf (e : Nat) : Except Nat (Nat × Nat × Nat) :=
  if bits e 31 16 ≠ 0 then .error 0x02
  else if bits e 127 64 % 8 ≠ 0 then .error 0x03
  else if bits e 15 0 = 0 ∨ bits e 63 32 < 10000 then .error 0x0B
  else .ok (bits e 15 0, bits e 63 32, bits e 127 64)
/-- The descriptors of a QLIST, ended by a 0 (R286), entries left as fuel; none while a line of it is on its way. -/
def State.qlistGo (s : State) (pid : Nat) : Nat → Nat → Option (List Nat) × State
  | 0, _ => (some [], s)
  | n + 1, a =>
    match s.devRead pid a 8 with
    | (.ok bs, s1) =>
      if ofLe bs = 0 then (some [], s1) else
      let (l, s2) := State.qlistGo s1 pid n (a + 8)
      (l.map (fun l => ofLe bs :: l), s2)
    | (.wait, s1) => (none, s1)
    | (_, s1) => (some [], s1)
def State.qlist (s : State) (p : Part) : Option (List Nat) × State := s.qlistGo p.proc 65536 p.qlist

/-- Whether a queue has a command to read that nothing holds back, whoever's turn it is: not held, not in the error state. -/
def State.due (s : State) (q : QueueSt) (d : Desc) : Bool :=
  q.held.isNone && d.state != 3 && d.rd != d.wr && !s.mgmt.powerStopped && s.mgmt.phase == .running
/-- Whether the device may read a queue now (R278, R288): active or cancelling, not held, of a formed partition; a tick queue, or
one of the process whose turn it is. -/
def State.reads (s : State) (q : QueueSt) (d : Desc) : Bool :=
  s.due q d && (d.state == 1 || d.state == 2) &&
  (match s.part? d.part with
    | none => false
    | some p => d.tickq || p.proc == q.proc)
/-- Whether the list of the turn names a queue (R286); none while it is being read. -/
def State.listed (s : State) (q : QueueSt) (d : Desc) : Option Bool × State :=
  match s.part? d.part with
  | none => (some false, s)
  | some p => if d.tickq then (some true, s) else
    let (l, s1) := s.qlist p
    (l.map (fun l => l.contains q.desc), s1)

/-- The next command of a queue: its descriptor and its 64 bytes, when they are at hand and the command may start; else the
state in which they have been asked for. A descriptor with a field outside its Values is an error of the queue, as a command that breaks
R271 is (R4, R277); an uncorrectable error in the ring gets the reason of an unservable one (log 103). How far WR runs ahead is not asked (log 118). The firmware reads it once what it had to write has been written (R272). -/
def State.nextCmd (s : State) (n : Nat) : Except State (QueueSt × Desc × Nat × State) :=
  match s.queues[n]? with
  | none => .error s
  | some q =>
    if !s.fw.isEmpty then .error s else
    match s.devRead q.proc q.desc 64 with
    | (.ok db, s0) =>
      let d := descOf (ofLe db)
      if !s0.due q d then .error s0.useLines else
      match descBad d with
      | some (c, x) => .error (s0.useLines.queueError q d c x)
      | none =>
      if !s0.reads q d then .error s0.useLines else
      match s0.listed q d with
      | (none, s1) => .error s1
      | (some false, s1) => .error s1.useLines
      | (some true, s1) =>
        (match s1.devRead q.proc (d.slot d.rd) 64 with
        | (.wait, s2) => .error s2
        | (.bad va, s2) => .error (s2.useLines.queueError q d 0x09 va)
        | (.ecc va, s2) => .error (s2.useLines.queueError q d 0x09 va)
        | (.ok bs, s2) =>
          let c := ofLe bs
          if bit c 8 && !q.undone.isEmpty then .error s2.useLines else .ok (q, d, c, s2.useLines))
    | (.wait, s0) => .error s0
    | (_, s0) => .error s0.useLines

def cmdType (c : Nat) : Nat := bits c 7 0
/-- Common checks of a WAITSIG, SIGNAL, BARRIER or TICK: reserved fields, and with them the fields that the type leaves 0 (log 117), then the
others. -/
def cmdBad (flg op two : Bool) (c : Nat) : Option (Nat × Nat) :=
  let resv : List (Nat × Bool) :=
    [(1, bits c 15 10 == 0 && (flg || !bit c 9)), (2, bits c 63 16 == 0 || (op && bits c 63 18 == 0)),
     (8, two || bits c 127 64 == 0), (16, two || bits c 191 128 == 0), (24, bits c 511 192 == 0)]
  if op && (bits c 17 16 == 3) then some (0x01, bits c 15 0)
  else match resv.find? (fun x => !x.2) with
    | some x => some (0x02, x.1)
    | none =>
      if two && bits c 127 64 % 8 ≠ 0 then some (0x03, bits c 127 64)
      else if two && bit c 191 then some (0x0B, 16) else none
/-- What a command does with its signal: refused when it cannot be served (R277, reason 0x09), waiting while its page is being
mapped (R259). -/
def State.withSig (s : State) (q : QueueSt) (d : Desc) (sig : Nat) (k : Acc) (f : State → State) : State :=
  match s.reachVa q.proc sig k with
  | (.ok, s1) => f s1
  | (.wait, s1) => s1
  | (.bad, s1) => s1.queueError q d 0x09 sig
/-- The fault status that a cancelled command writes (R278). -/
def QueueSt.cancelWord (q : QueueSt) : Nat := match q.cause with
  | some (c, o) => faultWord c o true
  | none => faultWord 0 0 true

/-- A LAUNCH (R274, R277, R278); a command of unknown TYPE is refused in the same step. One read in the cancelling state is not checked
before its signal gets the fault status (log 104); one that passes the checks waits while the dispensers hold 64 grids (R284). -/
def launchAt (s : State) (n : Nat) : State :=
  match s.nextCmd n with
  | .error x => x
  | .ok (q, d, c, s1) =>
    let t := cmdType c
    if t = 0 ∨ 5 < t then s1.queueError q d 0x01 (bits c 15 0)
    else if t ≠ 1 then s
    else if d.state = 2 then (s1.advance q d).signalPut q.proc (launchOf c).sig q.cancelWord
    else
      match s1.part? d.part with
      | none => s
      | some _ =>
        match s1.checkLaunch q.proc d.part d.tickq c with
        | (.wait, s2) => s2
        | (.bad r x, s2) => s2.queueError q d r x
        | (.ok k o ps, s2) =>
          if 64 ≤ (s2.grids.filter (fun g => g.part == d.part && g.proc == q.proc)).length then s2.useLines else
          let (tag, s3) := s2.useLines.accept q.proc d.part q.desc d.tickq c k o ps
          (s3.advance q d).qset q (fun q => { q with undone := q.undone ++ [tag] })

/-- LAUNCH: a grid is accepted, refused or cancelled (R274). -/
def execLaunch (q : Nat) (s : State) : Host.Outcome State Fault Refusal := .next (launchAt s q)

/-- WAITSIG (R275, R278). -/
def waitsigAt (s : State) (n : Nat) : State :=
  match s.nextCmd n with
  | .error x => x
  | .ok (q, d, c, s1) =>
    if cmdType c ≠ 2 then s else
    match cmdBad true true true c with
    | some (r, x) => s1.queueError q d r x
    | none =>
      let sig := bits c 127 64
      s1.withSig q d sig .rd (fun s1 =>
        if d.state = 2 then s1.advance q d
        else (s1.advance q d).qset q (fun q => { q with held := some (.waitsig sig (bits c 191 128) (bits c 17 16) (bit c 9)) }))

/-- WAITSIG: the queue is held on a signal (R275). -/
def execWaitsig (q : Nat) (s : State) : Host.Outcome State Fault Refusal := .next (waitsigAt s q)

/-- COND of R275 and R283 on a signal's VALUE. -/
def condOk (cond w v : Nat) : Bool := match cond with
  | 0 => decide (v ≤ w % 2 ^ 63)
  | 1 => w % 2 ^ 63 == v
  | _ => w % 2 ^ 63 != v

/-- In the cancelling state a held WAITSIG or TICK completes at once (R278, log 26). -/
def State.cancelling (s : State) (q : QueueSt) : Bool × State :=
  let (w, s1) := s.readVaN q.proc (q.desc + 11) 1
  (w == some 2, s1)

/-- A held WAITSIG observes its signal (R275, R278); it stays held while the signal cannot be read (log 119). -/
def waitsigSatisfiedAt (s : State) (n : Nat) : State :=
  match s.queues[n]? with
  | none => s
  | some q =>
    match q.held with
    | some (.waitsig sig v cond ack) =>
      let (r, s1) := s.devRead q.proc sig 8
      match r with
      | .ok bs =>
        let w := ofLe bs
        let (c, s2) := s1.useLines.cancelling q
        let free : State := s2.qset q (fun q => { q with held := none })
        if c then free
        else if bit w 63 then (if ack then free else free.cancelQueue q.proc q.desc (bits w 7 0) (bits w 31 8))
        else if condOk cond w v then free else s2
      | _ => s1
    | _ => s

/-- WAITSIG_SATISFIED: the awaited signal releases or cancels the queue (R275). -/
def execWaitsigSatisfied (q : Nat) (s : State) : Host.Outcome State Fault Refusal := .next (waitsigSatisfiedAt s q)

/-- SIGNAL, by its OP (R275, R278). -/
def signalCmdAt (add : Bool) (s : State) (n : Nat) : State :=
  match s.nextCmd n with
  | .error x => x
  | .ok (q, d, c, s1) =>
    if cmdType c ≠ 3 ∨ (bits c 17 16 = 1) ≠ (add = true) then s else
    if bits c 17 16 = 2 then s1.queueError q d 0x01 (bits c 15 0) else
    match cmdBad false true true c with
    | some (r, x) => s1.queueError q d r x
    | none =>
      let sig := bits c 127 64
      s1.withSig q d sig .rw (fun s1 =>
        (s1.advance q d).signalOp q.proc sig (if d.state = 2 then .put q.cancelWord
          else if add then .add (bits c 191 128) else .put (bits c 191 128)))

/-- SIGNAL_WRITE: the signal word is stored (R275). -/
def execSignalWrite (q : Nat) (s : State) : Host.Outcome State Fault Refusal := .next (signalCmdAt false s q)

/-- SIGNAL_ADD: the signal's VALUE is added to (R275). -/
def execSignalAdd (q : Nat) (s : State) : Host.Outcome State Fault Refusal := .next (signalCmdAt true s q)

/-- BARRIER (R275). -/
def barrierAt (s : State) (n : Nat) : State :=
  match s.nextCmd n with
  | .error x => x
  | .ok (q, d, c, s1) =>
    if cmdType c ≠ 4 then s else
    match cmdBad true false false c with
    | some (r, x) => s1.queueError q d r x
    | none => (s1.advance q d).qset q (fun q => { q with held := some (.barrier (bit c 9)) })

/-- BARRIER: the queue waits for its earlier commands (R275). -/
def execBarrier (q : Nat) (s : State) : Host.Outcome State Fault Refusal := .next (barrierAt s q)

/-- The BARRIER completes once every earlier command has; with RESET it ends a cancelling state (R278). -/
def barrierDoneAt (s : State) (n : Nat) : State :=
  match s.queues[n]? with
  | none => s
  | some q =>
    match q.held with
    | some (.barrier reset) =>
      if !q.undone.isEmpty || !s.fw.isEmpty then s else
      let s1 := s.qset q (fun q => { q with held := none, cause := if reset then none else q.cause })
      if !reset then s1 else
      let (c, s2) := s1.cancelling q
      if c then s2.setState q 1 else s2
    | _ => s

/-- BARRIER_COMMAND_COMPLETE: the barrier completes (R278). -/
def execBarrierCommandComplete (q : Nat) (s : State) : Host.Outcome State Fault Refusal := .next (barrierDoneAt s q)

/-- The first edge strictly after a time (R279). -/
def nextEdge (period phase t : Nat) : Nat := if t < phase then phase else phase + ((t - phase) / max period 1 + 1) * max period 1

/-- TICK (R275, R279); one read in the cancelling state is no release (log 109). -/
def tickAt (s : State) (n : Nat) : State :=
  match s.nextCmd n with
  | .error x => x
  | .ok (q, d, c, s1) =>
    if cmdType c ≠ 5 then s else
    if !d.tickq then s1.queueError q d 0x0A (bits c 15 0) else
    match cmdBad false false false c with
    | some (r, x) => s1.queueError q d r x
    | none =>
      let s2 := s1.advance q d
      if d.state = 2 then s2 else
      let edge := nextEdge d.period d.phase (q.lastRelease.getD q.activeAt)
      if s.time < edge then s2.qset q (fun q => { q with held := some (.tick edge) })
      else
        let s3 := s2.qset q (fun q => { q with lastRelease := some s.time })
        if edge < s.time then s3.setField q 28 4 ((d.overrun + 1) % 2 ^ 32) else s3

/-- TICK: held to its release edge, or released late (R279). -/
def execTick (q : Nat) (s : State) : Host.Outcome State Fault Refusal := .next (tickAt s q)

/-- The release edge of a held TICK (R279). -/
def tickEdgeAt (s : State) (n : Nat) : State :=
  match s.queues[n]? with
  | none => s
  | some q =>
    match q.held with
    | some (.tick edge) =>
      let (c, s1) := s.cancelling q
      if c then s1.qset q (fun q => { q with held := none })
      else if edge ≤ s.time then s1.qset q (fun q => { q with held := none, lastRelease := some edge }) else s1
    | _ => s

/-- TICK_EDGE: the held TICK is released (R279). -/
def execTickEdge (q : Nat) (s : State) : Host.Outcome State Fault Refusal := .next (tickEdgeAt s q)

end Sys2Proof.Machine
end

