-- ==== Sys2Proof/Machine/Image.lean ====
section
/-! DEFINITION. The canonical context image: its records and its bytes (R317 to R327). -/

namespace Sys2Proof.Machine

/-! ### Records of an image (R318 to R326) -/

def padTo (m : Nat) (l : List Byte) : List Byte := l ++ List.replicate (roundUp l.length m - l.length) 0#8

def gridRec (s : State) (g : Grid) : List Byte :=
  leBytes 128 (put 0 g.tag + put 32 g.koff + put 64 g.x + put 96 g.y + put 128 g.z + put 160 g.params.length + put 176 g.proc + put 192 g.sig +
    put 256 g.backing + put 320 g.spillad + put 384 g.held.length + put 416 (s.frontier g) + put 464 (b2n g.kcb.det) + put 512 g.started) ++
  padTo 64 g.params

def dispRec (g : Grid) : List Byte :=
  let on := g.kcb.disp
  leBytes 64 (put 0 (if on then g.next else 0) + put 64 (if on then g.n else 0) + put 128 (if on then g.claims.length else 0)) ++
  (if on then g.claims.flatMap (fun c => leBytes 32 (put 0 c.first + put 48 c.g + put 96 c.team + put 144 c.grp)) else [])

def barWord (b : Bar) : Nat := match b.e with
  | none => b.n
  | some e => b.n + put 14 1 + put 15 e

def dirCode : CopyDir → Nat
  | .g2s => 0 | .s2g => 1 | .s2x => 2 | .g2g => 3
/-- A copy queue entry (R211). -/
def copyRec (c : Copy) : List Byte :=
  leBytes 64 (put 0 c.src + put 64 c.dst + put 128 c.shape + put 192 (c.bar.getD (2 ^ 64 - 1)) + put 256 c.mask + put 264 (dirCode c.dir) +
    put 266 (b2n c.mc) + put 267 (b2n c.gb) + put 272 c.lane + put 288 c.seq + put 320 c.made + put 352 (if c.made = 0 then 1 else 2) + put 384 c.pc.toNat)

def teamRec (g : Grid) (t : Team) : List Byte :=
  let cs := t.copies.filter (fun c => !c.hint)
  let head := match cs with
    | c :: _ => c.seq
    | [] => t.nextSeq
  let cb := if g.rank t.idx = 0 then barWord (Sparse.get { n := 0, e := none } g.cbars (g.clusterOf t.idx)) else 0
  leBytes 128 (put 0 t.idx + put 48 cs.length + ((List.range 16).map (fun i => put (64 + 32 * i) (barWord (t.tb.getD i { n := 0, e := none })))).sum +
    put 576 cb + put 608 head + put 640 t.nextSeq) ++ cs.flatMap copyRec

def groupRec (x : Group) : List Byte :=
  leBytes 320 (put 0 x.team + put 48 x.num + ((List.range 48).map (fun i => put (64 + 32 * i) (x.sreg i))).sum +
    ((List.range 8).map (fun i => put (1600 + 64 * i) (x.cvSet i).toNat)).sum)

/-- The live v registers of a point, ascending (R323). -/
def liveV (c : CanonEnt) : List Nat := (List.range 192).filter (fun i => c.vlive.getLsbD i)
/-- A table entry with nothing live. -/
def deadEnt : CanonEnt := { pcoff := 0, sync := false, short := false, acc := 0#16, plive := 0#96, slive := 0#48, lclive := 0#3, vlive := 0#192 }

def loopRec (m : Nat) (r : LoopRec) : Nat :=
  put (512 + 256 * m) (r.start.toNat + put 64 r.last.toNat + put 128 r.depth + put 138 (b2n r.y))
/-- A lane record (R323). -/
def laneRec (s : State) (g : Grid) (x : Group) (i : Nat) (l : Lane) : List Byte :=
  let id := put 0 x.team + put 48 x.num + put 56 i
  if l.st = .exited then padTo 16 (leBytes 160 (id + put 64 3)) else
  let ord := (s.canonAt (s.coreOf x.tag x.team) g.proc l.pc.toNat).getD 0
  let ent := (s.canonEnt g ord).getD deadEnt
  let (st, tb) : Nat × Nat := match l.st with
    | .atTeamBar n => (1, n)
    | .atClusterBar => (2, 0)
    | _ => (0, 0)
  let words := (List.range l.w0).map (fun k => (Sparse.get 0#32 l.v k).toNat) ++ (liveV ent).map l.vreg
  let loops := l.loops.reverse
  padTo 16 (leBytes 160 (id + put 64 st + put 67 (b2n l.yielded) + put 68 (b2n l.demoted) + put 72 tb + put 80 (ord % 2 ^ 24) +
      put 104 l.frames.length + put 114 loops.length + put 128 l.w0 + put 160 l.fstat.toNat + put 192 l.lc0.toNat + put 224 l.lc1.toNat +
      put 256 l.lc2.toNat + put 288 l.tseq + put 320 words.length + put 384 (l.p &&& ent.plive).toNat +
      (loops.mapIdx loopRec).sum) ++
    l.frames.reverse.flatMap (fun f => leBytes 16 (put 0 f.ret.toNat + put 64 f.n)) ++ words.flatMap (leBytes 4))

def scratchRec (s : State) (g : Grid) (t : Team) : List Byte :=
  leBytes 64 (put 0 t.idx + put 64 g.kcb.scratch) ++
  padTo 64 (if t.resident then s.scratch.readBytes (scrKey t.core t.base) g.kcb.scratch else t.image.readBytes 0 g.kcb.scratch)

/-- A committed accumulator block (R325). -/
def tileRec (t : Team) (n : Nat) (x : Tile) : List Byte :=
  let k := x.rows * x.cols
  leBytes 64 (put 0 t.idx + put 48 n + put 52 (b2n x.exact) + put 53 (b2n x.flag) + put 64 (wrap 12 x.e)) ++
  padTo 64 (if x.exact then (List.range k).flatMap (fun i => leBytes 16 (x.at i).toNat) ++
      leBytes (k / 8) ((List.range k).map (fun i => put i (b2n (x.isNan i)))).sum
    else (List.range k).flatMap (fun i => leBytes 4 (x.at i).toNat))

/-- The leaves below a table: (virtual address, level, entry) (R326). -/
def leavesGo (m : Memory) : Nat → Nat → Nat → Nat → List (Nat × Nat × Nat)
  | 0, _, _, _ => []
  | fuel + 1, level, t, va =>
    (List.range (if level = 4 then 32 else 512)).flatMap (fun i =>
      let e := m.readN (t + 8 * i) 8
      let shift := if level = 0 then 48 else if level = 1 then 39 else if level = 2 then 30 else if level = 3 then 21 else 16
      let x := va + i * 2 ^ shift
      if !bit e 0 || malformed level e then []
      else if bit e 1 then [(x, level, e)] else leavesGo m fuel (level + 1) (bits e 55 8 * 256) x)
/-- A memory-map entry (R326). -/
def mapRec (s : State) (pid : Nat) (x : Nat × Nat × Nat) : List Byte :=
  let (va, level, e) := x
  let loc := bits e 57 56
  let addr := bits e 55 8 * 256
  let res := match (s.jobs.filter (fun j => j.proc == pid)).flatMap (fun j => j.tensors.filter (fun t => decide (t.vbase ≤ sext 57 64 va) && decide (sext 57 64 va < t.vbase + t.len))) with
    | t :: _ => if t.replica then 1 else 2
    | [] => 0
  leBytes 32 (put 0 (sext 57 64 va) + put 64 (pageBytes level) + put 128 (b2n (loc == 2)) + put 129 (4 - level) + put 131 (bits e 4 2) +
    put 134 (b2n (bit e 7)) + put 135 res + put 144 (if loc = 0 then s.fabric else if loc = 1 then sysDev addr else 0) +
    put 192 (if loc = 1 then sysOffset addr else addr))

/-- A section: its record count and its bytes. -/
abbrev Section := Nat × List Byte

/-- The eight sections in ascending order of (team, group, lane, tile) (R317). -/
def insertBy {α : Type} (lt : α → α → Bool) (x : α) : List α → List α
  | [] => [x]
  | y :: ys => if lt x y then x :: y :: ys else y :: insertBy lt x ys
def sortBy {α : Type} (lt : α → α → Bool) (l : List α) : List α := l.foldr (insertBy lt) []
def sections (s : State) (g : Grid) : List Section :=
  let ts := sortBy (fun a b => decide (a.idx < b.idx)) (s.teams.filter (fun t => t.tag == g.tag))
  let xs := ts.flatMap (fun t => sortBy (fun a b => decide (a.num < b.num)) (s.teamGroups g.tag t.idx))
  let lanes := xs.flatMap (fun x => x.lanes.mapIdx (laneRec s g x))
  let tiles := ts.flatMap (fun t => (t.shadows.mapIdx (fun n x => (n, x))).filterMap (fun x => if x.2.rows = 0 then none else some (tileRec t x.1 x.2)))
  let map := (leavesGo s.dram 5 0 (s.rootOf g.proc) 0).map (mapRec s g.proc)
  [(1, gridRec s g), (1, dispRec g), (ts.length, ts.flatMap (teamRec g)), (xs.length, xs.flatMap groupRec),
   (lanes.length, lanes.flatten), (ts.length, ts.flatMap (scratchRec s g)), (tiles.length, tiles.flatten), (map.length, map.flatten)]

/-- Directory entries and bodies, from the offset reached (R317, R318). -/
def layOut : List Section → Nat → Nat → Nat × List Byte
  | [], _, _ => (0, [])
  | (n, bs) :: rest, i, off =>
    let b := padTo 64 bs
    let (dir, more) := layOut rest (i + 1) (off + b.length)
    (put (512 + 128 * i) (put 0 off + put 64 n) + dir, b ++ more)
/-- The image of a grid (R317 to R326). -/
def imageOf (s : State) (g : Grid) (cause : Nat) : List Byte :=
  let (dir, body) := layOut (sections s g) 0 256
  let dig := (s.object? g.handle).map (fun o => digestField o.digest)
  let head (check : Nat) : List Byte :=
    leBytes 256 (put 0 0x47454D49 + put 32 1 + put 48 cause + put 64 (256 + body.length) + put 128 (dig.getD 0) + dir + put 1536 check)
  head (crc32c (head 0 ++ body)) ++ body

end Sys2Proof.Machine
end

