-- ==== Sys2Proof/Machine/Serial.lean ====
section
/-! DEFINITION. The serialiser (R311 to R316), replanting an image (R328 to R330), turns of a partition (R286 to R288)
and the power limit (R19). -/

namespace Sys2Proof.Machine

/-! ### Decision sets (R312, R313) -/

def Group.live? (x : Group) : List Lane := x.lanes.filter (fun l => decide (l.st ≠ .exited))
/-- Whether a lane has passed what makes its set go forward (R313, step 2). -/
def Lane.obliged (l : Lane) (t : Team) : Bool := l.irrev || l.arrived.any (fun i => t.marked.contains i)
def Lane.parked (l : Lane) : Bool := match l.st with
  | .running => false
  | .draining => false
  | .exited => false
  | _ => true
/-- Whether a lane lets its set go forward by choice. -/
def State.willing (s : State) (core : Nat) (g : Grid) (l : Lane) : Bool :=
  (s.standing core g l || (match s.canonEnt g l.snap.ord with
    | some c => c.short
    | none => false)) && !l.xfer && !l.matArr && !l.parked
/-- A lane is in a recorded state (R314). -/
def State.recorded (s : State) (core : Nat) (g : Grid) (l : Lane) : Bool := match l.st with
  | .exited => true
  | .atTeamBar _ => true
  | .atClusterBar => true
  | _ => s.standing core g l

/-- The decision sets of a team: the groups that arrived at a matrix instruction together, the others alone. -/
def decisionSets (xs : List Group) : List (List Group) :=
  let m := xs.filter Group.matrixSet
  (if m.isEmpty then [] else [m]) ++ (xs.filter (fun x => !x.matrixSet)).map (fun x => [x])
/-- Whether a decision set goes forward. -/
def State.goesForward (s : State) (g : Grid) (t : Team) (set : List Group) : Bool :=
  set.any (fun x => x.lanes.any (fun l => l.obliged t)) ||
  set.all (fun x => x.live?.all (s.willing t.core g))
/-- The forward groups of a grid, as (team, group). -/
def State.forwardOf (s : State) (g : Grid) : List (Nat × Nat) :=
  (s.teams.filter (fun t => t.tag == g.tag && t.resident)).flatMap (fun t =>
    (decisionSets (s.teamGroups g.tag t.idx)).flatMap (fun set => if s.goesForward g t set then set.map (fun x => (x.team, x.num)) else []))

/-- Whether lane results and accesses of a grid are still on their way (R313, step 1). -/
def State.quiet (s : State) (tag : Nat) : Bool :=
  s.results.all (fun r => r.tag ≠ tag) && s.accs.all (fun a => a.tag ≠ tag || a.observing) && s.fetches.all (fun a => a.tag ≠ tag) &&
  s.reds.all (fun a => a.tag ≠ tag)

/-- A group of a back set put back to its snapshots (R313, step 4). -/
def State.rollGroup (s : State) (g : Grid) (x : Group) : Group :=
  let lane (l : Lane) : Lane := if l.st = .exited ∨ (s.recorded (s.coreOf x.tag x.team) g l ∧ !l.parked) then l else l.rollback
  { x with lanes := x.lanes.map lane, insts := [], blocked := 0, hold := none }

/-- Whether step 3 and what step 5 waits for are over: forward lanes recorded, signals applied, markers retired. -/
def State.mayImage (s : State) (g : Grid) (x : Serial) : Bool :=
  s.quiet g.tag && s.sigs.all (fun y => y.tag ≠ g.tag) &&
  (s.teams.filter (fun t => t.tag == g.tag)).all (fun t =>
    t.copies.all (fun c => c.wait.isNone) &&
    (let xs := s.teamGroups g.tag t.idx
     let fwd := fun (y : Group) => x.forward.contains (y.team, y.num)
     xs.all (fun y => !fwd y || y.lanes.all (s.recorded t.core g)) &&
     t.matq.all (fun m => m.opc ≠ 0xE3) && (t.matq.isEmpty || xs.any (fun y => !fwd y && y.matrixSet))))

/-- Steps 4 and 5 for a team: back sets to their snapshots, held instances dropped, tiles from their shadows, copies at a
delivery boundary, hints dropped. A team that waits to be reinstated stands as its image recorded it. -/
def settleTeam (x : Serial) (g : Grid) (s : State) (t : Team) : State :=
  if !t.resident then s else
  let xs := s.teamGroups g.tag t.idx
  let back := fun (y : Group) => !x.forward.contains (y.team, y.num)
  let restore := xs.any (fun y => back y && y.matrixSet)
  let s1 : State := { s with
    groups := s.groups.map (fun y => if y.tag == g.tag && y.team == t.idx && back y then s.rollGroup g y else y),
    accs := s.accs.filter (fun a => !(a.tag == g.tag && a.team == t.idx)) }
  (s1.disown (fun o => o.tag == g.tag && o.team == t.idx)).updTeam g.tag t.idx (fun t => { t with
    matq := [], lastMat := none, past := [], marked := [], tiles := if restore then t.shadows else t.tiles,
    copies := (t.copies.filter (fun c => !c.hint)).map (fun c => { c with hold := none, buf := none }) })

/-- The state recorded for a lane, as it resumes in place: one parked at a barrier stands at the CANON after it, its sync set empty, having
passed the barrier's irrevocable instruction (R303, R308, R311, R323). -/
def Lane.recordedAt (l : Lane) (ord : Nat) : Lane :=
  let x := l.snapshot ord l.pc
  { x with irrev := true }
/-- Parked at a team or cluster barrier, whose instruction is irrevocable (R303). -/
def LaneSt.atBar : LaneSt → Bool
  | .atTeamBar _ => true
  | .atClusterBar => true
  | _ => false
/-- A grid resumes in place, each lane from the state recorded for it (R311). -/
def State.resume (s : State) (tag : Nat) : State :=
  let s1 := s.updGrid tag (fun g => { g with ser := none })
  let lane (x : Group) (l : Lane) : Lane := if !l.st.atBar then l else
    match s.canonAt (s.coreOf x.tag x.team) (s.procOf tag) l.pc.toNat with
    | some o => l.recordedAt o
    | none => l
  { s1 with groups := s1.groups.map (fun x => if x.tag == tag then { x with stopped := false, lanes := x.lanes.map (lane x) } else x) }
/-- A grid that its image alone holds from now on (R295). -/
def State.leaveImage (s : State) (g : Grid) : State :=
  let s1 := s.dropAgents g.tag
  let cause := (g.ser.map (fun x => if x.byDbg then 5 else x.cause)).getD 0
  let left : State := { s1 with
    grids := s1.grids.filter (fun x => x.tag ≠ g.tag), imageTags := g.tag :: s1.imageTags.filter (fun t => t ≠ g.tag),
    kept := g.keep cause (g.ser.any (·.byPower)) (g.ser.any (·.byTurn)) :: s1.kept.filter (fun k => k.tag ≠ g.tag) }
  left.guardArea { tag := g.tag, proc := g.proc, va := g.backing, len := g.backingBytes, slot := none }

/-- The image slot of a job's point (R348). -/
def Job.slotAt (j : Job) (k : Nat) : Nat := j.area + k % 2 * j.slot
/-- What is left of a recovery point's serialise once the point asks for no image: the stop, or the snapshot, that has joined it and still
waits for an image (R316, R19). -/
def Serial.unpoint (x : Serial) : Option Serial :=
  if x.held then none
  else if x.byDbg then some { x with cause := 5 }
  else if x.byPower then some { x with cause := 2 }
  else if x.byTurn then some { x with cause := 1 }
  else if x.sample then some { x with cause := 5 }
  else none
/-- A grid stopped for a recovery point resumes in place, unless another stop still waits for its image (R350, R316). -/
def State.unpointGrid (s : State) (g : Grid) : State :=
  match g.ser.bind Serial.unpoint with
  | some y => s.updGrid g.tag (fun g => { g with ser := some y })
  | none => s.resume g.tag
/-- Grids stopped for a recovery point resume in place (R350). -/
def State.resumePoint (s : State) (j : Job) : State :=
  (s.grids.filter (fun g => g.proc == j.proc && g.ser.any (fun x => x.cause == 4))).foldl State.unpointGrid s
/-- A point that an image did not fit: refused, and the grids go on (R350). -/
def State.pointFails (s : State) (j : Job) : State :=
  let s1 := ((s.resumePoint j).freeSlot j.id (j.taking.getD 0)).updJob j.id (fun j => { j with taking := none, pending := [], used := 0, finished := false })
  s1.signalOp j.takingReq.2 j.takingReq.1 (.put (faultWord 0x99 0 false))
/-- The 256-byte superblocks of the PARTNER tensors that this device holds. -/
def State.partnerBlocks (s : State) (j : Job) : List Nat :=
  (j.tensors.filter (fun t => !t.replica && t.home == s.fabric)).flatMap (fun t => (List.range (t.len / 256)).map (fun i => t.vbase + 256 * i))
/-- The partner of a member. -/
def Job.partnerOf (j : Job) (d : Nat) : Nat := ((j.members.find? (fun m => m.dev == d)).map (·.partner)).getD d
/-- The system address of a superblock in its partner's shadow of a slot (log 92). -/
def State.shadowAt (s : State) (j : Job) (slot va : Nat) : Nat :=
  put 46 (j.partnerOf s.fabric) + Config.shadowAt j.id slot va % 2 ^ 30 * 256
/-- The superblocks that a point writes: at the first one all; then those written since the last point, and those written between the
two points before, which the slot holds older (log 92). -/
def State.pointBlocks (s : State) (j : Job) : List Nat :=
  if j.complete.isNone then s.partnerBlocks j else j.dirty ++ j.older.filter (fun a => !(j.dirty.contains a))
/-- Step 2 (R350), once every image is written: the superblocks go to the partner's shadow slot, a line at a time; then step 3. -/
def State.pointShadow (s : State) (id k : Nat) : State :=
  match s.jobs.find? (fun j => j.id == id && j.taking == some k) with
  | none => s
  | some j =>
    let lines := (s.pointBlocks j).flatMap (fun va => (List.range 4).map (fun i =>
      fwOp j.proc (va + 64 * i) (.push (s.shadowAt j (k % 2) va + 64 * i))))
    (s.updJob id (fun j => { j with older := if j.complete.isNone then s.partnerBlocks j else j.dirty, dirty := [] })).fwAdd
      (lines ++ [fwOp j.proc 0 (.job (.pointDone id k))])
/-- Step 3 (R350): the grids resume, and the records of writes restart. -/
def State.pointDone (s : State) (id k : Nat) : State :=
  match s.jobs.find? (fun j => j.id == id && j.taking == some k) with
  | none => s
  | some j => (s.resumePoint j).updJob id (fun j => { j with finished := true, extCount := 0, extRanges := [] })
/-- Every image of a point is written, and their end in the slot where it has room for it: a line of zeros, which no image begins with
(log 33). Step 2 follows once the bytes stand there. -/
def State.pointEnd (s : State) (j : Job) (k used : Nat) : State :=
  (if used < j.slot then s.putVa j.proc (j.slotAt k + used) (List.replicate 64 0#8) else s).fwAdd [fwOp j.proc 0 (.job (.shadow j.id k))]
/-- One image of a recovery point put into the slot after those before it (log 33). -/
def State.pointImage (s : State) (j : Job) (k tag : Nat) (bs : List Byte) : State :=
  if j.slot < j.used + bs.length then s.pointFails j else
  let rest := j.pending.filter (fun t => t ≠ tag)
  let s1 := ((s.putVa j.proc (j.slotAt k + j.used) bs).guardArea
      { tag := tag, proc := j.proc, va := j.slotAt k + j.used, len := bs.length, slot := some (j.id, k % 2) }).updJob j.id (fun j =>
    { j with pending := rest, used := j.used + bs.length })
  if rest.isEmpty then s1.pointEnd j k (j.used + bs.length) else s1

/-- The barrier roll written where the backing area begins, its addresses ended by a 0, in pages that Rolahild gives it (R296, log 25). -/
def State.rollOut (s : State) (g : Grid) : State :=
  (s.giveRegion g.proc g.backing (8 * (g.roll.length + 1))).putAs g.part g.proc g.backing ((g.roll ++ [0]).flatMap (leBytes 8))
/-- Held reductions written to the spill region in ascending key, as entries 0 to HELD − 1 linked one to the next (R313, step 5). -/
def State.spillOut (s : State) (g : Grid) : State :=
  s.putAs g.part g.proc g.spillad (g.held.zipIdx.flatMap (fun x => x.1.record (if x.2 + 1 = g.held.length then 2 ^ 32 - 1 else x.2 + 1)))
/-- Where Rolahild puts a grid's image (R287, log 25). -/
def imageVa (tag : Nat) : Nat := Config.imageAt tag % 2 ^ 39 * 65536
/-- An image put into its process's memory at a place of Rolahild's. -/
def State.keepImage (s : State) (g : Grid) (bs : List Byte) : State :=
  let s1 := (s.giveRegion g.proc (imageVa g.tag) bs.length).putAs g.part g.proc (imageVa g.tag) bs
  { s1 with images := (g.tag, imageVa g.tag, bs.length) :: s1.images.filter (fun i => i.1 ≠ g.tag) }
/-- The requests that a serialise serves, answered with one update. -/
def State.answerAll (s : State) (x : Serial) (op : SigOp) : State :=
  x.reqs.foldl (fun (s : State) (r : Nat × Nat) => s.signalOp r.2 r.1 op) s
/-- A context that the power limit stopped resumes once its image has been written and the host has cleared the event (R19). -/
def State.afterPower (s : State) (x : Serial) : State := if x.byPower then s.fwAdd [fwOp 0 0 (.job .resumeAll)] else s
/-- An image that a recovery point asked for (R350), and with it, when a stop has joined, the grid's leaving (R316, R19); a debugger's
snapshot that has joined holds it too. -/
def State.pointWrite (s : State) (g : Grid) (x : Serial) (bs : List Byte) : State :=
  match s.jobs.find? (fun j => j.pending.contains g.tag), s.jobs.findSome? (fun j => if j.pending.contains g.tag then j.taking else none) with
  | some j, some k =>
    let s1 := (if x.sample || !x.snapshot then s.keepImage g bs else s).answerAll x .done
    if x.snapshot then (s1.updGrid g.tag (fun g => { g with ser := some { x with held := true, reqs := [] } })).pointImage j k g.tag bs
    else ((s1.leaveImage g).pointImage j k g.tag bs).afterPower x
  | _, _ => s.unpointGrid g

/-- The image written (R313, step 6; R311): at the requesters' address, and at a place of Rolahild's when the device asked too.
One that does not fit its capacity leaves its header only, whole, and the grid held. -/
def State.writeImage (s : State) (g : Grid) (x : Serial) : State :=
  let s1 := (s.rollOut g).spillOut g
  let bs := imageOf s1 g x.cause
  if x.cause = 4 then s1.pointWrite g x bs
  else if x.named && decide (x.cap < bs.length) then
    ((s1.putAs g.part x.proc x.image (bs.take 256)).answerAll x (.put (faultWord 0x99 0 false))).updGrid g.tag (fun g =>
      { g with ser := some { x with held := true, reqs := [] } })
  else
    let s2 := if x.named then (s1.putAs g.part x.proc x.image bs).guardArea
        { tag := g.tag, proc := x.proc, va := x.image, len := bs.length, slot := none } else s1
    let s3 := if x.own then s2.keepImage g bs else s2
    let s4 := s3.answerAll x .done
    if x.snapshot then s4.resume g.tag else (s4.leaveImage g).afterPower x

/-- Whether a lane stands at a BREAK site that it has not passed: the site joins the serialise (R357). -/
def State.atBreak (s : State) (g : Grid) : Bool :=
  match g.dbg with
  | none => false
  | some d => (s.groups.filter (fun x => x.tag == g.tag)).any (fun x => x.lanes.zipIdx.any (fun y =>
      y.1.st == .running && !(d.passes.contains (x.team, x.num, y.2)) &&
      (match s.canonAt (s.coreOf x.tag x.team) g.proc y.1.pc.toNat with
        | some o => (d.site? o).any (fun z => z.kind == .brk)
        | none => false)))
/-- The SAMPLE sites that lanes of a grid stand at unpassed, one arrival for each group: the lanes pass them, and whether one of the arrivals
takes a snapshot, which joins the serialise (R357, R316, log 32). -/
def State.joinSamples (s : State) (g : Grid) : Bool × State :=
  match g.dbg with
  | none => (false, s)
  | some d =>
    let hits := (s.groups.filter (fun x => x.tag == g.tag)).flatMap (fun x => (d.sites.filterMap (fun z => match z.kind with
      | .sample n =>
        let ls := (List.range x.lanes.length).filter (fun i => match x.lanes[i]? with
          | some l => l.st == .running && !(d.passes.contains (x.team, x.num, i)) &&
            s.canonAt (s.coreOf x.tag x.team) g.proc l.pc.toNat == some z.ord
          | none => false)
        if ls.isEmpty then none else some (z.ord, n, ls.map (fun i => (x.team, x.num, i)))
      | _ => none)))
    let (took, d') := hits.foldl (fun (a : Bool × Dbg) h =>
      let arr := h.1 :: a.2.arrivals
      let c := (arr.filter (fun o => o == h.1)).length
      (a.1 || (h.2.1 ≠ 0 && c % h.2.1 == 0), { a.2 with arrivals := arr, passes := a.2.passes ++ h.2.2 })) (false, d)
    (took, s.updGrid g.tag (fun g => { g with dbg := some d' }))
/-- SERIALISE_IMAGE_WRITE (R313): the sets are chosen once results have returned; forward groups issue again; and when they
stand recorded the image is written. -/
def imageWriteAt (s : State) (tag : Nat) : State :=
  match s.grid? tag with
  | none => s
  | some g =>
    match g.ser with
    | none => s
    | some x =>
      if x.held ∨ !g.faults.isEmpty ∨ g.killed then s
      else if !x.decided then
        if !s.quiet tag then s else
        let fwd := s.forwardOf g
        let s1 := s.updGrid tag (fun g => { g with ser := some { x with decided := true, forward := fwd } })
        { s1 with groups := s1.groups.map (fun y => if y.tag == tag && fwd.contains (y.team, y.num) then { y with stopped := false } else y) }
      else if !s.mayImage g x then s
      else
        let x := if s.atBreak g then { x with own := true, byDbg := true, snapshot := false } else x
        let (took, s) := s.joinSamples g
        let x := if took then { x with own := true, sample := true } else x
        let s1 := (s.teams.filter (fun t => t.tag == tag)).foldl (settleTeam x g) s
        let s2 : State := { s1 with groups := s1.groups.map (fun y => if y.tag == tag then { y with stopped := true } else y),
                                    tfaults := s1.tfaults.filter (fun t => match t.who with
                                      | .issue a _ _ _ _ => a ≠ tag
                                      | .copy a _ _ => a ≠ tag
                                      | .firmware => true) }
        match s2.grid? tag with
        | none => s2
        | some g2 => s2.writeImage g2 x

/-- SERIALISE_IMAGE_WRITE: the serialise goes on to its image (R313). -/
def execSerialiseImageWrite (tag : Nat) (s : State) : Host.Outcome State Fault Refusal := .next (imageWriteAt s tag)

/-- A serialise asked for (R311, R316). -/
def serialiseAt (snapshot : Bool) (s : State) (r : Req) (tag image cap cause : Nat) : State :=
  match s.grid? tag with
  | none => s.refuse r 0x18
  | some g =>
    let busy : Bool := match g.ser with
      | some x => !x.held && cause == 3
      | none => false
    if !g.faults.isEmpty ∨ g.killed ∨ busy then s.refuse r 0x18
    else if image % 64 ≠ 0 then s.refuse r 0x03
    else s.beginSerial tag { image := image, cap := cap, named := true, proc := r.proc, own := false, snapshot := snapshot, byDbg := false, byPower := false, byTurn := false, cause := cause,
                             reqs := [(r.sig, r.proc)], started := s.time, decided := false, forward := [], held := false }

/-- SERIALISE_STOP: MODE 0 (R313). -/
def execSerialiseStop (r : Req) (tag image cap cause : Nat) (s : State) : Host.Outcome State Fault Refusal :=
  .next (serialiseAt false s r tag image cap cause)
/-- SERIALISE_SNAPSHOT: MODE 1 (R313). -/
def execSerialiseSnapshot (r : Req) (tag image cap cause : Nat) (s : State) : Host.Outcome State Fault Refusal :=
  .next (serialiseAt true s r tag image cap cause)

/-- SERIALISE_TIMEOUT (R315): the record names the lowest lane of a forward set not yet recorded. -/
def timeoutAt (s : State) (tag : Nat) : State :=
  match s.grid? tag with
  | none => s
  | some g =>
    match g.ser with
    | none => s
    | some x =>
      if x.held ∨ s.time < x.started + s.serLimit then s else
      let late := (s.groups.filter (fun y => y.tag == tag && x.forward.contains (y.team, y.num))).flatMap (fun y =>
        (List.range y.lanes.length).filterMap (fun l => match y.lanes[l]? with
          | some z => if s.recorded (s.coreOf y.tag y.team) g z then none else some (faultRec y l cSerialise z.pc 0)
          | none => none))
      let r := late.foldl (fun (m : FaultRec) z => if z.key m then z else m)
        (late.headD { code := cSerialise, team := 0, grp := 0, lane := 0, ord := 0, pc := 0#64, addr := 0, extra := 0 })
      s.raise tag [r]

/-- SERIALISE_TIMEOUT: the limit passes before the image is written (R315). -/
def execSerialiseTimeout (tag : Nat) (s : State) : Host.Outcome State Fault Refusal := .next (timeoutAt s tag)

/-! ### Reading an image back (R328, R329) -/

/-- Whether all the listed bit ranges (high, low) of a record are 0. -/
def zeros (x : Nat) (l : List (Nat × Nat)) : Bool := l.all (fun r => bits x r.1 r.2 == 0)

def takeN (n : Nat) (l : List Byte) : Option (Nat × List Byte) := if l.length < n then none else some (ofLe (l.take n), l.drop n)
/-- `n` records parsed one after another. -/
def parseN {α : Type} (p : List Byte → Option (α × List Byte)) : Nat → List Byte → Option (List α × List Byte)
  | 0, l => some ([], l)
  | n + 1, l => do
    let (x, l1) ← p l
    let (xs, l2) ← parseN p n l1
    some (x :: xs, l2)

/-- What a grid record, a dispenser record give (R319, R320). -/
structure GridImg where
  tag : Nat
  koff : Nat
  x : Nat
  y : Nat
  z : Nat
  proc : Nat
  sig : Nat
  backing : Nat
  spillad : Nat
  held : Nat
  det : Bool
  started : Nat
  params : List Byte
  deriving DecidableEq, Repr, Inhabited

def parseGrid (l : List Byte) : Option (GridImg × List Byte) := do
  let (r, l1) ← takeN 128 l
  let n := bits r 175 160
  if !zeros r [(31, 24), (511, 465), (1023, 560)] || decide (4032 < n) || bits r 191 176 == 0 || !canonicalVa (bits r 319 256) || !canonicalVa (bits r 383 320) || l1.length < n ||
     bits r 95 64 == 0 || bits r 127 96 == 0 || bits r 159 128 == 0 || bits r 255 192 % 8 ≠ 0 || (!bit r 464 && bits r 383 320 ≠ 0) then none else
  some ({ tag := bits r 23 0, koff := bits r 63 32, x := bits r 95 64, y := bits r 127 96, z := bits r 159 128, proc := bits r 191 176,
          sig := bits r 255 192, backing := bits r 319 256, spillad := bits r 383 320, held := bits r 415 384, det := bit r 464,
          started := bits r 559 512, params := l1.take n }, l1.drop (roundUp n 64))

def parseClaim (l : List Byte) : Option (Claim × List Byte) := do
  let (r, l1) ← takeN 32 l
  if !zeros r [(95, 65), (255, 151)] || bits r 64 48 == 0 || decide (65536 < bits r 64 48) then none else
  some ({ team := bits r 143 96, grp := bits r 150 144, first := bits r 47 0, g := bits r 64 48 }, l1)
/-- NEXT, N and the claims. -/
def parseDisp (l : List Byte) : Option ((Nat × Nat × List Claim) × List Byte) := do
  let (r, l1) ← takeN 64 l
  if !zeros r [(63, 48), (127, 112), (511, 160)] || decide (bits r 111 64 < bits r 47 0) then none else
  let (cs, l2) ← parseN parseClaim (bits r 159 128) l1
  if cs.any (fun c => decide (bits r 111 64 ≤ c.first)) then none else
  some ((bits r 47 0, bits r 111 64, cs), l2)

def barOf (x : Nat) : Bar := { n := bits x 13 0, e := if bit x 14 then some (bits x 28 15) else none }
def dirOf : Nat → CopyDir
  | 0 => .g2s | 1 => .s2g | 2 => .s2x | _ => .g2g
/-- Whether a copy's end is what R211 admits: a scratchpad offset, or an address. -/
def endOk (scr : Bool) (a : Nat) : Bool := if scr then decide (a < 2 ^ 32) else canonicalVa a
/-- A copy queue entry (R211); a complete or a faulted one is over (log 91). -/
def parseCopy (l : List Byte) : Option (Copy × List Byte) := do
  let (r, l1) ← takeN 64 l
  let sh := bits r 191 128
  let dir := dirOf (bits r 265 264)
  let st := bits r 355 352
  let c : Copy := { seq := bits r 319 288, hint := false, dir := dir, mc := bit r 266, gb := bit r 267, mask := bits r 263 256, src := bits r 63 0,
                    dst := bits r 127 64, shape := sh, bar := if bits r 255 192 = 2 ^ 64 - 1 then none else some (bits r 255 192), lane := bits r 281 272,
                    pc := BitVec.ofNat 64 (bits r 447 384), made := bits r 351 320, sigs := 0, faulted := st == 4, stamp := 0, after := [], wait := none, buf := none, hold := none }
  if !zeros r [(271, 268), (287, 282), (383, 356), (511, 448)] || !shapeOk (decide (dir ≠ .g2g)) (decide (dir = .s2x)) sh || st == 0 || decide (4 < st) ||
     !endOk (dir == .s2g || dir == .s2x) c.src || !endOk (dir == .g2s || dir == .s2x) c.dst || c.bar.any (fun b => b % 16 ≠ 0 || !endOk (!c.gb) b) ||
     (!c.mc && c.mask ≠ 0) || decide (deliveries c < c.made) then none else
  some (if st = 3 then { c with made := deliveries c } else c, l1)

/-- A team record (R321): index, barriers, cluster barrier, NEXT, copies. -/
structure TeamImg where
  idx : Nat
  tb : List Bar
  cb : Bar
  next : Nat
  copies : List Copy
  /-- the addresses of the posts of all the entries, of those that are over too -/
  posts : List Nat
  deriving DecidableEq, Repr, Inhabited
/-- The Values of a barrier word: N and E up to a limit. -/
def barOk (lim x : Nat) : Bool := decide (bits x 13 0 ≤ lim) && decide (bits x 28 15 ≤ lim) && bits x 31 29 == 0
/-- A team record of a grid of clusters of `cl` teams; its copies in posting order, which ascends from HEAD. -/
def parseTeam (cl : Nat) (l : List Byte) : Option (TeamImg × List Byte) := do
  let (r, l1) ← takeN 128 l
  let n := bits r 63 48
  if !zeros r [(1023, 672)] || decide (256 < n) || !(List.range 16).all (fun i => barOk 1024 (bits r (32 * i + 95) (32 * i + 64))) ||
     !barOk 8192 (bits r 607 576) || (bits r 47 0 % cl ≠ 0 && bits r 607 576 ≠ 0) then none else
  let (cs0, l2) ← parseN parseCopy n l1
  let age (c : Copy) : Nat := (c.seq + 2 ^ 32 - bits r 639 608) % 2 ^ 32
  let cs := (sortBy (fun a b => decide (age a < age b)) cs0).filter (fun c => !c.faulted && c.made ≠ deliveries c)
  some ({ idx := bits r 47 0, tb := (List.range 16).map (fun i => barOf (bits r (32 * i + 95) (32 * i + 64))), cb := barOf (bits r 607 576),
          next := bits r 671 640, copies := cs, posts := cs0.map (·.pc.toNat) }, l2)

/-- A group record (R322): team, number, s, cv. -/
structure GroupImg where
  team : Nat
  num : Nat
  s : Sparse Word
  cv : Sparse LaneMask
  deriving DecidableEq, Repr, Inhabited
def parseGroup (w : Nat) (l : List Byte) : Option (GroupImg × List Byte) := do
  let (r, l1) ← takeN 320 l
  let cv (i : Nat) := bits r (64 * i + 1663) (64 * i + 1600)
  if !zeros r [(63, 55), (2559, 2112)] || (List.range 8).any (fun i => decide (2 ^ w ≤ cv i)) then none else
  some ({ team := bits r 47 0, num := bits r 54 48,
          s := forN 48 (fun i m => Sparse.set 0#32 m i (BitVec.ofNat 32 (bits r (32 * i + 95) (32 * i + 64)))) [],
          cv := forN 7 (fun i m => Sparse.set 0#64 m (i + 1) (BitVec.ofNat 64 (cv (i + 1)))) [] }, l1)

def parseFrame (l : List Byte) : Option (Frame × List Byte) := do
  let (r, l1) ← takeN 16 l
  if bits r 127 72 ≠ 0 ∨ 191 < bits r 71 64 then none else some ({ ret := BitVec.ofNat 64 (bits r 63 0), n := bits r 71 64 }, l1)
def parseWord (l : List Byte) : Option (Nat × List Byte) := takeN 4 l

/-- A lane record (R323): team, group, lane, ORD, and the lane as it is reinstated. -/
structure LaneImg where
  team : Nat
  num : Nat
  idx : Nat
  ord : Nat
  lane : Lane
  words : List Nat
  deriving DecidableEq, Repr, Inhabited
def parseLane (w : Nat) (l : List Byte) : Option (LaneImg × List Byte) := do
  let (r, l1) ← takeN 160 l
  let st := bits r 66 64
  let depth := bits r 113 104
  let nl := bits r 115 114
  let w0 := bits r 159 128
  let nv := bits r 351 320
  let loop (m : Nat) : Nat := bits r (256 * m + 767) (256 * m + 512)
  if !zeros r [(55, 55), (63, 62), (71, 69), (79, 76), (127, 116), (191, 165), (383, 352), (511, 480)] || decide (3 < st) || decide (w ≤ bits r 61 56) ||
     (st ≠ 1 && bits r 75 72 ≠ 0) || (st == 3 && (depth ≠ 0 || nv ≠ 0 || bits r 103 80 ≠ 0)) || decide (65536 < w0) ||
     (List.range 3).any (fun m => if m < nl then !zeros (loop m) [(255, 139)] else loop m ≠ 0) then none else
  let (fs, l2) ← parseN parseFrame depth l1
  let (ws, _) ← parseN parseWord nv l2
  let loops := (List.range nl).map (fun m =>
    let q := loop m
    ({ start := BitVec.ofNat 64 (bits q 63 0), last := BitVec.ofNat 64 (bits q 127 64), depth := bits q 137 128, y := bit q 138 } : LoopRec))
  let ln : Lane := { Lane.start 0 0 with
    st := if st = 1 then .atTeamBar (bits r 75 72) else if st = 2 then .atClusterBar else if st = 3 then .exited else .running,
    yielded := bit r 67, demoted := bit r 68, frames := fs.reverse, w0 := w0, p := BitVec.ofNat 96 (bits r 479 384),
    lc0 := BitVec.ofNat 32 (bits r 223 192), lc1 := BitVec.ofNat 32 (bits r 255 224), lc2 := BitVec.ofNat 32 (bits r 287 256),
    loops := loops.reverse, fstat := BitVec.ofNat 5 (bits r 164 160), tseq := bits r 319 288 }
  some ({ team := bits r 47 0, num := bits r 54 48, idx := bits r 61 56, ord := bits r 103 80, lane := ln, words := ws },
    l1.drop (roundUp (160 + 16 * depth + 4 * nv) 16 - 160))

def parseScratch (n : Nat) (l : List Byte) : Option ((Nat × List Byte) × List Byte) := do
  let (r, l1) ← takeN 64 l
  if !zeros r [(63, 48), (511, 96)] || bits r 95 64 ≠ n || l1.length < roundUp n 64 then none else some ((bits r 47 0, l1.take n), l1.drop (roundUp n 64))

/-- A committed block (R325): team, tile number, tile. -/
def parseTile (k : Kcb) (l : List Byte) : Option ((Nat × Nat × Tile) × List Byte) := do
  let (r, l1) ← takeN 64 l
  let n := bits r 51 48
  let (rows, cols, ex) := k.tiles.getD n (0, 0, false)
  let e := sgn 12 (bits r 75 64)
  let cnt := rows * cols
  let len := if ex then 16 * cnt + cnt / 8 else 4 * cnt
  if !zeros r [(63, 54), (511, 76)] || rows == 0 || bit r 52 != ex || l1.length < roundUp len 64 then none else
  let sz := if ex then 16 else 4
  let marks := ofLe ((l1.drop (16 * cnt)).take (cnt / 8))
  let t : Tile := { rows := rows, cols := cols, exact := ex, e := e, flag := bit r 53,
                    elem := forN cnt (fun i m => Sparse.set 0#128 m i (BitVec.ofNat 128 (ofLe ((l1.drop (sz * i)).take sz)))) [],
                    nan := if ex then forN cnt (fun i m => Sparse.set false m i (bit marks i)) [] else [], spoilt := [] }
  some ((bits r 47 0, n, t), l1.drop (roundUp len 64))

/-- A memory-map entry (R326): VBASE, LENGTH, KIND, PSZ, PERM, MIG, DEV, SRC. -/
structure MapImg where
  va : Nat
  len : Nat
  host : Bool
  psz : Nat
  perm : Nat
  mig : Bool
  dev : Nat
  src : Nat
  deriving DecidableEq, Repr, Inhabited
def parseMap (l : List Byte) : Option (MapImg × List Byte) := do
  let (r, l1) ← takeN 32 l
  let psz := bits r 130 129
  let x : MapImg :=
    { va := bits r 63 0, len := bits r 127 64, host := bit r 128, psz := psz, perm := bits r 133 131, mig := bit r 134,
      dev := bits r 151 144, src := bits r 255 192 }
  if !zeros r [(143, 137), (191, 152)] || psz == 3 || bits r 136 135 == 3 || x.va % pageBytes (levelOf psz) ≠ 0 || x.len % pageBytes (levelOf psz) ≠ 0 ||
     (if x.host then x.dev ≠ 0 || !sysHost x.src || decide (2 ^ 55 ≤ x.src) else decide (2 ^ 38 ≤ x.src)) then none else some (x, l1)

/-- A directory entry: offset and count. -/
def dirAt (head i : Nat) : Nat × Nat := let d := bits head (128 * i + 639) (128 * i + 512); (bits d 63 0, bits d 95 64)
/-- Reserved fields and Values of the header (R318). -/
def headOk (h len : Nat) : Bool :=
  bits h 63 56 == 0 && bits h 2047 1568 == 0 && 1 ≤ bits h 55 48 && decide (bits h 55 48 ≤ 5) && len % 64 == 0 &&
  (List.range 8).all (fun i => let d := bits h (128 * i + 639) (128 * i + 512)
    bits d 127 96 == 0 && bits d 63 0 % 64 == 0 && (decide (bits d 63 0 < len) || (bits d 63 0 == len && bits d 95 64 == 0)))

/-- An image parsed whole. -/
structure Image where
  g : GridImg
  next : Nat
  n : Nat
  claims : List Claim
  teams : List TeamImg
  groups : List GroupImg
  lanes : List LaneImg
  scratch : List (Nat × List Byte)
  tiles : List (Nat × Nat × Tile)
  maps : List MapImg
  deriving DecidableEq, Repr, Inhabited

def parseImage (bs : List Byte) (h : Nat) (kOf : GridImg → Option (CodeObj × Kcb)) : Option (Image × CodeObj × Kcb) := do
  let sec (i : Nat) : List Byte := bs.drop (dirAt h i).1
  let cnt (i : Nat) : Nat := (dirAt h i).2
  let (g, _) ← parseGrid (sec 0)
  let (o, k) ← kOf g
  let ((nx, n, cs), _) ← parseDisp (sec 1)
  let (ts, _) ← parseN (parseTeam k.cluster) (cnt 2) (sec 2)
  let (xs, _) ← parseN (parseGroup k.width) (cnt 3) (sec 3)
  let (ls, _) ← parseN (parseLane k.width) (cnt 4) (sec 4)
  let (ss, _) ← parseN (parseScratch k.scratch) (cnt 5) (sec 5)
  let (as, _) ← parseN (parseTile k) (cnt 6) (sec 6)
  let (ms, _) ← parseN parseMap (cnt 7) (sec 7)
  if decide (k.spill < g.held) || (if k.disp then g.y ≠ 1 || g.z ≠ 1 || n == 0 else n ≠ 0 || nx ≠ 0 || !cs.isEmpty) then none else
  some ({ g := g, next := nx, n := n, claims := cs, teams := ts, groups := xs, lanes := ls, scratch := ss, tiles := as, maps := ms }, o, k)

/-- The address of a canonical ordinal (R301, R307). -/
def State.ordPc (s : State) (pid : Nat) (o : CodeObj) (ord : Nat) : Option Nat :=
  match s.runcode.find? (fun r => r.proc == pid && decide (r.base ≤ ord) && decide (ord < r.base + r.canon.length)) with
  | some r => (r.canon[ord - r.base]?).map (fun c => r.va + c.pcoff)
  | none => (o.canon[ord]?).map (fun c => o.text + c.pcoff)

/-- A lane reinstated: at its CANON, or parked before it, having passed the barrier's instruction; registers by the live map, the
others 0 (R313, R323, R329). -/
def State.reinstate (s : State) (g : Grid) (o : CodeObj) (x : LaneImg) : Lane :=
  if x.lane.st = .exited then x.lane else
  let pc := BitVec.ofNat 64 ((s.ordPc g.proc o x.ord).getD 0)
  let live := liveV ((s.canonEnt g x.ord).getD deadEnt)
  let put (m : Sparse Word) (k v : Nat) : Sparse Word := Sparse.set 0#32 m k (BitVec.ofNat 32 v)
  let v0 := forN x.lane.w0 (fun i m => put m i (x.words.getD i 0)) []
  let v := forN live.length (fun i m => put m (x.lane.w0 + live.getD i 0) (x.words.getD (x.lane.w0 + i) 0)) v0
  let l := { x.lane with pc := pc, v := v }
  let l1 := l.snapshot x.ord pc
  { l1 with st := x.lane.st, irrev := x.lane.st.atBar }

/-- The Values that a lane's point gives its record: NV = W0 + live registers, no predicate outside PLIVE (R323). -/
def State.liveOk (s : State) (g : Grid) (x : LaneImg) : Bool :=
  x.lane.st == .exited || (match s.canonEnt g x.ord with
    | none => true
    | some c => x.words.length == x.lane.w0 + (liveV c).length && (x.lane.p &&& ~~~ c.plive) == 0#96)
/-- Whether code of a process that is no loaded `.text` lies at an address: a page that may be executed, by its table or by the image's map,
or registered run-time code (R76, R257). -/
def State.runAddr (s : State) (pid : Nat) (maps : List MapImg) (a : Nat) : Bool :=
  (s.runOf pid a).isSome || (match walk s.dram (s.rootOf pid) a .ex with
    | .leaf _ _ _ _ _ _ => true
    | _ => false) || maps.any (fun m => bit m.perm 2 && decide (m.va ≤ a) && decide (a < m.va + m.len))
/-- Whether an address is an instruction's: in a loaded `.text` where an instruction starts (R75), else any multiple of 4 where run-time code
may lie (R76, R323). -/
def State.insAddr (s : State) (pid : Nat) (maps : List MapImg) (a : Nat) : Bool :=
  a % 4 == 0 && canonicalVa a && (match s.textOf pid a with
    | some o => o.starts.contains (a - o.text)
    | none => s.runAddr pid maps a)
/-- The instruction addresses that an image holds: return addresses, loop bodies, the posts of copies (R211, R323). -/
def Image.addrs (x : Image) : List Nat :=
  x.lanes.flatMap (fun l => l.lane.frames.map (·.ret.toNat) ++ l.lane.loops.flatMap (fun r => [r.start.toNat, r.last.toNat])) ++
  x.teams.flatMap (·.posts)
/-- R328's reason to refuse a parsed image, if any: 0x11 by its instruction addresses and its lanes' points, 0x13 to 0x16. -/
def State.imageBad (s : State) (x : Image) (o : CodeObj) (k : Kcb) (pt : Nat) : Option Nat :=
  if x.addrs.any (fun a => !(s.insAddr x.g.proc x.maps a)) || x.lanes.any (fun l => !(s.liveOk { (default : Grid) with proc := x.g.proc, handle := o.handle } l)) then some 0x11
  else if x.lanes.any (fun l => l.lane.st ≠ .exited && (s.ordPc x.g.proc o l.ord).isNone) then some 0x13
  else if !k.fitsEmpty || (s.part? pt).isNone then some 0x14
  else if s.alive x.g.tag then some 0x15
  else if x.maps.any (fun m => !m.host && m.dev ≠ s.fabric && !(s.reach.contains m.dev)) then some 0x16
  else none

/-- A range mapped as R330 says. -/
def State.mapRange (s : State) (pid : Nat) (m : MapImg) : State :=
  let level := levelOf m.psz
  let perm := 3 + put 2 m.perm
  let step := pageBytes level
  let e := if m.host then perm + put 7 (b2n m.mig) + m.src + put 56 2
    else if m.dev = s.fabric then perm + m.src
    else perm + put 7 1 + (m.src + put 46 m.dev) + put 56 1
  s.mapPages pid (bits m.va 56 0) level e step (m.len / step)

/-- The grid of an accepted image, its teams waiting to be reinstated; its barrier roll and its held reductions are read from its backing
area and its spill region (R329). -/
def State.plant (s : State) (x : Image) (o : CodeObj) (k : Kcb) (pt : Nat) : State :=
  let q := s.queues.find? (fun q => q.proc == x.g.proc && q.undone.contains x.g.tag)
  let kept := s.kept.find? (fun y => y.tag == x.g.tag)
  let none_ : Bar := { n := 0, e := none }
  let g : Grid :=
    { tag := x.g.tag, proc := x.g.proc, handle := o.handle, koff := x.g.koff, kcb := k, x := x.g.x, y := x.g.y, z := x.g.z, n := x.n,
      params := x.g.params, sig := x.g.sig, queue := q.elim 0 (·.desc), tick := q.elim (kept.any (·.tick)) (·.tickq), part := pt, order := (kept.map (·.order)).getD s.nextId,
      started := x.g.started, next := x.next, claims := x.claims,
      cbars := x.teams.foldl (fun m t => if t.idx % k.cluster = 0 then Sparse.set none_ m (t.idx / k.cluster) t.cb else m) [],
      roll := [], rollCap := Config.rollRoom x.g.tag, faults := [], killed := false, held := [], backing := x.g.backing, spillad := x.g.spillad, ser := none,
      dbg := kept.bind (·.dbg), lcrec := kept.bind (·.lcrec) }
  let mkTeam (t : TeamImg) : Team :=
    let sh := (List.range 16).map (fun n => match x.tiles.find? (fun a => a.1 == t.idx && a.2.1 == n) with
      | some a => a.2.2
      | none => (k.tileStart.getD n default))
    { teamStart g t.idx 0 0 with
      resident := false, tiles := sh, shadows := sh, tb := t.tb, copies := t.copies, nextSeq := t.next,
      image := (match x.scratch.find? (fun a => a.1 == t.idx) with
        | some a => Memory.writeBytes [] 0 a.2
        | none => []) }
  let mkGroup (y : GroupImg) : Group :=
    { tag := g.tag, team := y.team, num := y.num, role := k.roleOf y.num, s := y.s, sAt := [], spoilt := [], cv := y.cv,
      lanes := (List.range k.width).map (fun i => match x.lanes.find? (fun l => l.team == y.team && l.num == y.num && l.idx == i) with
        | some l => s.reinstate g o l
        | none => { Lane.start 0 0 with st := .exited }),
      insts := [], sched := 0, lastIssue := 0, issues := 0, stopped := false, hold := none, stepping := (g.dbg.any (fun d => d.stepsAt y.team y.num)), canonSince := true, blocked := 0 }
  let s1 : State := { s.fresh with
    grids := s.grids ++ [g], teams := s.teams ++ x.teams.map mkTeam, groups := s.groups ++ x.groups.map mkGroup,
    imageTags := s.imageTags.filter (fun t => t ≠ g.tag), kept := s.kept.filter (fun y => y.tag ≠ g.tag) }
  let s2 := x.maps.foldl (fun (s : State) m => s.mapRange g.proc m) s1
  (s2.remapped g.proc).fwAdd
    (fwOp g.proc g.backing (.holdRoll g.tag) :: (if x.g.held = 0 then [] else [fwOp g.proc g.spillad (.holdReds g.tag x.g.held)]))

/-- Replanting bytes: the new state, or the REASON of R328. -/
def State.replantBytes (s : State) (bs : List Byte) (pt : Nat) : Except Nat (Nat × State) :=
  let h := ofLe (bs.take 256)
  let len := bits h 127 64
  let crc := bits h 1567 1536
  let zeroed := bs.take 192 ++ List.replicate 4 0#8 ++ (bs.take len).drop 196
  if bits h 31 0 ≠ 0x47454D49 ∨ bits h 47 32 ≠ 1 ∨ bs.length < len ∨ crc32c zeroed ≠ crc then .error 0x10
  else if !headOk h len then .error 0x11
  else match parseGrid (bs.drop (dirAt h 0).1) with
    | none => .error 0x11
    | some (gi, _) =>
      match s.objects.find? (fun o => o.proc == gi.proc && digestField o.digest == bits h 511 128) with
      | none => .error 0x12
      | some o =>
        match parseImage (bs.take len) h (fun g => (o.kcbs.find? (fun k => k.1 == g.koff)).map (fun k => (o, kcbOf k.2))) with
        | none => .error 0x11
        | some (x, _, k) =>
          match s.imageBad x o k pt with
          | some r => .error r
          | none => .ok (gi.tag, (s.ensureProc gi.proc).plant x o k pt)

/-- Whether the entries of the spill region that an image names hold only what R299 admits (R4, R5); none while a line of it is on its way. One
that cannot be read faults the grid when it is taken up (R53). -/
def State.redsGood (s : State) (bs : List Byte) : Option Bool × State :=
  match parseGrid (bs.drop (dirAt (ofLe (bs.take 256)) 0).1) with
  | none => (some true, s)
  | some (g, _) =>
    match s.devRead g.proc g.spillad (32 * g.held) with
    | (.wait, s1) => (none, s1)
    | (.ok rs, s1) => (some ((List.range g.held).all (fun i => redGood (ofLe ((rs.drop (32 * i)).take 32)))), s1)
    | (_, s1) => (some true, s1)
/-- Replanting an image with what its spill region holds: the tag and the new state, the REASON of R328, or nothing yet. -/
def State.replantWhole (s : State) (bs : List Byte) (pt : Nat) : Option (Except Nat (Nat × State)) × State :=
  match s.replantBytes bs pt with
  | .error x => (some (.error x), s)
  | .ok t => match s.redsGood bs with
    | (none, s1) => (none, s1)
    | (some false, s1) => (some (.error 0x11), s1)
    | (some true, s1) => (some (.ok t), s1)
/-- REPLANT (R328, R297). -/
def replantAt (s : State) (r : Req) (image pt : Nat) : State :=
  if image % 64 ≠ 0 then s.refuse r 0x03 else
  match s.devRead r.proc image 256 with
  | (.wait, s1) => s1.later
  | (.bad _, s1) => s1.useLines.refuse r 0x10
  | (.ecc _, s1) => s1.useLines.refuse r 0x10
  | (.ok hd, s1) =>
    match s1.devRead r.proc image (max 256 (bits (ofLe hd) 127 64)) with
    | (.wait, s2) => s2.later
    | (.bad _, s2) => s2.useLines.refuse r 0x10
    | (.ecc _, s2) => s2.useLines.refuse r 0x10
    | (.ok bs, s2) =>
      match s2.replantWhole bs pt with
      | (none, s3) => s3.later
      | (some (.error x), s3) => s3.useLines.refuse r x
      | (some (.ok (_, s3)), _) => s3.useLines.served r

/-- REPLANT: an image becomes a grid again (R328). -/
def execReplant (r : Req) (image part : Nat) (s : State) : Host.Outcome State Fault Refusal := .next (replantAt s r image part)

/-! ### Turns (R286, R287) -/

/-- A grid of an ending turn that must be written to an image: it has a resident team outside the tick octets. -/
def State.mustStop (s : State) (p : Part) (g : Grid) : Bool :=
  g.part == p.pid && g.proc == p.proc &&
  s.teams.any (fun t => t.tag == g.tag && t.resident && !(p.tickOctets.contains (t.core / 8)))
/-- A serialise that the device asks for itself. -/
def ownSerial (cause now proc : Nat) : Serial :=
  { image := 0, cap := 0, named := false, proc := proc, own := true, snapshot := cause == 4, byDbg := false, byPower := cause == 2, byTurn := cause == 1, cause := cause, reqs := [], started := now,
    decided := false, forward := [], held := false }

/-- The bytes of an image that the device keeps. -/
def State.imageBytes (s : State) (pid : Nat) (i : Nat × Nat × Nat) : Option (List Byte) × State := s.readVa pid i.2.1 i.2.2
/-- The images kept of grids that pass a test, in the order in which DISP accepted the grids (R294). -/
def State.keptImages (s : State) (p : Kept → Bool) : List (Kept × (Nat × Nat × Nat)) :=
  sortBy (fun a b => decide (a.1.order < b.1.order)) (s.kept.filterMap (fun k =>
    if p k && s.imageTags.contains k.tag then (s.images.find? (fun i => i.1 == k.tag)).map (fun i => (k, i)) else none))
/-- Images that the device holds become grids again in a partition (R287); one that a debugger holds stays (R357). The
refusal of one is logged (R4). -/
def State.resumeImages (s : State) (pt : Nat) (p : Kept → Bool) : State :=
  (s.keptImages (fun k => k.cause ≠ 5 && k.part == pt && p k)).foldl (fun (s : State) x =>
    match s.imageBytes x.1.proc x.2 with
    | (none, s1) => s1.logRefusal x.2.2.1 0x10 x.1.tag
    | (some bs, s1) => match s1.replantWhole bs pt with
      | (some (.ok (_, s2)), _) => { s2 with images := s2.images.filter (fun j => j.1 ≠ x.1.tag) }
      | (some (.error c), s2) => s2.logRefusal x.2.2.1 c x.1.tag
      | (none, s2) => s2) s

/-- The first entry of a partition's run list that can be served, from an index, `n` entries tried: none while one is on its way. An
entry outside its Values is refused: logged, and passed over (R4, R286). -/
def State.findTurn (s : State) (p : Part) : Nat → Nat → Option Part × State
  | 0, i => (some { p with turn := i, turnStart := s.time, proc := 0, quantum := 0, qlist := 0 }, s)
  | n + 1, i =>
    match s.devRead p.owner (p.runlist + 16 * i) 16 with
    | (.wait, s1) => (none, s1)
    | (.ok bs, s1) =>
      (match entryOf (ofLe bs) with
      | .ok e => (some { p with turn := i, turnStart := s.time, proc := e.1, quantum := e.2.1, qlist := e.2.2 }, s1)
      | .error c => State.findTurn (s1.logRefusal (p.runlist + 16 * i) c (ofLe bs)) p n ((i + 1) % max p.nproc 1))
    | (_, s1) => State.findTurn (s1.logRefusal (p.runlist + 16 * i) 0x09 0) p n ((i + 1) % max p.nproc 1)
/-- The next entry's turn begins (R286); its process's grids resume from their images (R287). -/
def State.nextTurn (s : State) (p : Part) : State :=
  if !s.fw.isEmpty then s else
  match s.findTurn p p.nproc ((p.turn + 1) % max p.nproc 1) with
  | (none, s1) => { s1 with log := s.log }
  | (some q, s1) =>
    let s2 := s1.useLines
    ({ s2 with parts := updFirst (fun (x : Part) => x.pid == p.pid) (fun _ => q) s2.parts }).resumeImages p.pid (fun k => k.proc == q.proc)

def quantumAt (s : State) (pid : Nat) : State :=
  match s.part? pid with
  | none => s
  | some p =>
    if p.nproc ≤ 1 ∨ s.time < p.turnStart + p.quantum then s else
    let stay := s.grids.filter (fun g => s.mustStop p g)
    if stay.isEmpty then s.nextTurn p
    else (stay.filter (fun g => !(g.joinable && g.ser.any (·.byTurn)))).foldl (fun (s : State) g =>
      s.beginSerial g.tag (ownSerial 1 s.time g.proc)) s

/-- TURN_END_QUANTUM: the process's grids are serialised, then the next turn begins (R287). -/
def execTurnEndQuantum (pid : Nat) (s : State) : Host.Outcome State Fault Refusal := .next (quantumAt s pid)

/-- Whether a process has nothing to do in its turn, by the queues that its list names (R286). -/
def State.idle (s : State) (p : Part) (l : List Nat) : Bool × State :=
  (s.queues.filter (fun q => q.proc == p.proc && l.contains q.desc)).foldl (fun (a : Bool × State) q =>
    let (d?, s1) := a.2.desc? q
    (a.1 && (match d? with
    | none => true
    | some d => d.part ≠ p.pid || d.rd == d.wr || d.state == 3 || (match q.held with
      | some (.waitsig _ _ _ _) => true
      | some (.tick _) => true
      | _ => false)), s1))
    (s.grids.all (fun g => !(g.part == p.pid && g.proc == p.proc) || s.teams.all (fun t => !(t.tag == g.tag && t.resident))), s)
def idleAt (s : State) (pid : Nat) : State :=
  match s.part? pid with
  | none => s
  | some p => match s.qlist p with
    | (none, s1) => s1
    | (some l, s1) =>
      let (done, s2) := s1.idle p l
      if done then s2.useLines.nextTurn p else s2.useLines

/-- TURN_END_IDLE: the turn ends early (R286). -/
def execTurnEndIdle (pid : Nat) (s : State) : Host.Outcome State Fault Refusal := .next (idleAt s pid)

end Sys2Proof.Machine
end

