-- ==== Sys2Proof/Machine/Loader.lean ====
section
/-! DEFINITION. What the loader proves of a `.text` section before it accepts a code object: decoding (R74), structure
(R56, R73, R124 to R131), kernels (R25, R358), the latency contract (R77 to R79), liveness, synchronising and short
points (R301, R308) and regions (R305). -/

namespace Sys2Proof.Machine

/-- One instruction of a text section: offset, length, opcode, fields, successors in its function by position, the
registers it reads and writes as bits of a number. -/
structure Ins where
  off : Nat
  len : Nat
  opc : Nat
  f : Fields
  succ : List Nat := []
  rd : Nat := 0
  wr : Nat := 0
  deriving DecidableEq, Repr, Inhabited

/-- A fault the loader names, with the byte offset of the instruction. -/
abbrev LoadErr := Nat × Nat

/-- What stands for an instruction that is refused: nothing follows it and it names no register (log 82). -/
def badIns (off len : Nat) : Ins := { off := off, len := len, opc := 0x06, f := Fields.bare false }
/-- The instructions of words in sequence and every refusal of one (R74): LEN gives the length of a refused one too; words
left as fuel. -/
def decodeText : Nat → Nat → List Word → List Ins × List LoadErr
  | 0, _, _ => ([], [])
  | _, _, [] => ([], [])
  | fuel + 1, off, w0 :: ws =>
    let (i, e) : Ins × List LoadErr :=
      match rawOfWords (w0 :: ws) with
      | .error .short => (badIns off (instrLen w0), [(off, cContract)])
      | .error (.bad c) => (badIns off (instrLen w0), [(off, rejectCode c)])
      | .ok (r, _) =>
        match r.check with
        | some c => (badIns off (instrLen w0), [(off, rejectCode c)])
        | none =>
          let (opc, f) := match r with
            | .b o g => (o.toNat, Fields.ofB o.toNat g)
            | .w o f => (o.toNat, f)
            | .hart _ _ => (0, Fields.bare false)
          ({ off := off, len := instrLen w0, opc := opc, f := f }, [])
    let (is, es) := decodeText fuel (off + instrLen w0) ((w0 :: ws).drop (instrLen w0 / 4))
    (i :: is, e ++ es)

/-! ### The graph -/

/-- Position of the instruction at an offset; the number of instructions for none. -/
def posOf (is : List Ins) (off : Nat) : Nat := is.findIdx (fun i => i.off == off)
/-- A hardware-loop body: its LOOP's offset, its first and its last instruction's. -/
structure Body where
  at_ : Nat
  first : Nat
  last : Nat
  deriving DecidableEq, Repr, Inhabited
def bodiesOf (is : List Ins) : List Body :=
  is.filterMap (fun i => if i.opc = 0x08 then some { at_ := i.off, first := i.off + i.len, last := i.off + Fields.loopOff i.f } else none)
def Body.holds (b : Body) (off : Nat) : Bool := decide (b.first ≤ off) && decide (off ≤ b.last)
/-- The innermost body that statically contains an offset (R131). -/
def innermost (bs : List Body) (off : Nat) : Option Body :=
  (bs.filter (fun b => b.holds off)).foldl (fun m b => match m with
    | none => some b
    | some c => if c.first < b.first then some b else some c) none
/-- The target of a BRA or CALL as an offset in the section. -/
def Ins.target (i : Ins) : Option Nat :=
  if i.opc = 0x01 ∨ i.opc = 0x03 then
    let t := (i.off : Int) + Fields.branchOff i.f
    some (if t < 0 then 2 ^ 64 else t.toNat)
  else none
def Ins.guarded (i : Ins) : Bool := decide (i.f.prd ≠ 127#7)
/-- Offset after the end instruction of a body. -/
def Body.after (is : List Ins) (b : Body) : Nat := match is[posOf is b.last]? with
  | some e => e.off + e.len
  | none => 2 ^ 64

/-- Offsets that may follow an instruction within its function: a call goes on at its return address (R305, item 1). A LOOP
of a non-zero literal count has no way past its body, and one of a zero operand none into it (log 80). -/
def nextOffs (is : List Ins) (bs : List Body) (i : Ins) : List Nat :=
  let nx := i.off + i.len
  let fall := if i.guarded then [nx] else []
  let l := match i.opc with
    | 0x01 => i.target.toList ++ fall
    | 0x02 => fall
    | 0x05 => fall
    | 0x06 => fall
    | 0x08 =>
      let skip := (bs.filter (fun (b : Body) => b.at_ == i.off)).map (Body.after is)
      if i.f.a = 0xF0#8 then skip
      else if i.f.a = 0xF2#8 ∧ i.f.lit.toNat % 2 ^ 32 ≠ 0 then [nx] else nx :: skip
    | 0x09 => ((innermost bs i.off).map (Body.after is)).toList ++ fall
    | _ => [nx]
  if l.contains nx then l ++ (bs.filter (fun (b : Body) => b.last == i.off)).map Body.first else l
/-- The instructions with their successors; an offset of no instruction leads to the position past the last. -/
def linkText (is : List Ins) : List Ins :=
  let bs := bodiesOf is
  is.map (fun i => { i with succ := (nextOffs is bs i).map (posOf is) })

/-- Positions that a set leads to, in at most as many rounds as there are positions. -/
def closure (n : Nat) (next : Nat → List Nat) (start : List Nat) : List Nat :=
  (forN n (fun _ (p : List Nat × List Nat) =>
    let fresh := (p.2.flatMap next).foldl (fun a x => if x < n && !(p.1.contains x) && !(a.contains x) then x :: a else a) []
    (p.1 ++ fresh, fresh)) (start.eraseDups.filter (fun x => x < n), start.eraseDups.filter (fun x => x < n))).1

def at_ (is : List Ins) (k : Nat) : Ins := is.getD k default
/-- Static paths from positions, calls followed into their callees (R25, R358). -/
def reachFrom (is : List Ins) (start : List Nat) : List Nat :=
  closure is.length (fun k => (at_ is k).succ ++ (if (at_ is k).opc = 0x03 then (at_ is k).target.toList.map (posOf is) else [])) start
def isCanon (i : Ins) : Bool := i.opc == 0x0A
/-- Transfer points (R125): every CANON that lies in no body. -/
def pointsOf (is : List Ins) : List Nat :=
  let bs := bodiesOf is
  (List.range is.length).filter (fun k => isCanon (at_ is k) && !(bs.any (fun b => b.holds (at_ is k).off)))
/-- The instructions that end a region (R304). -/
def endsRegion (i : Ins) : Bool := isCanon i || i.opc == 0x03 || i.opc == 0x04 || i.opc == 0x02 || i.opc == 0x05 || i.opc == 0x06
/-- A region from its first positions. -/
def regionOf (is : List Ins) (start : List Nat) : List Nat :=
  closure is.length (fun k => if endsRegion (at_ is k) then [] else (at_ is k).succ) start

/-! ### What an instruction reads and writes -/

/-- Registers as bits of one number: v at 0, s at 192, p at 240, lc at 336, tiles at 339, cv at 355. -/
def bitV (n : Nat) : Nat := 2 ^ n
def bitS (n : Nat) : Nat := 2 ^ (192 + n)
def bitP (n : Nat) : Nat := 2 ^ (240 + n)
def bitLc (n : Nat) : Nat := 2 ^ (336 + n)
/-- A tile; a number that is no tile's, which no kernel takes (R224), names none (log 105). -/
def bitTile (n : Nat) : Nat := if n < 16 then 2 ^ (339 + n) else 0
def allV (n : Nat) : Nat := 2 ^ 192 - 2 ^ n
def allSPL : Nat := 2 ^ 339 - 2 ^ 192
def allTiles : Nat := 2 ^ 355 - 2 ^ 339
def orAll (l : List Nat) : Nat := l.foldl (· ||| ·) 0
/-- `span` registers of an operand field. -/
def spanBits (x : BitVec 8) (span : Nat) : Nat := match Operand.ofField x with
  | .v n => orAll ((List.range span).map (fun k => bitV (n + k)))
  | .s n => orAll ((List.range span).map (fun k => bitS (n + k)))
  | _ => 0
def blockBits (m : Nat) (mask : Nat) : Nat := mask % 2 ^ 32 * 2 ^ (240 + m)

/-- Reads and writes of a field under its role; `wide` when a kernel of 64 lanes reaches the instruction; a mask of code that no kernel
reaches is one register (log 106). -/
def roleBits (wide : Bool) (r : Role) (x : BitVec 8) : Nat × Nat :=
  match r with
  | .none => (0, 0)
  | .num _ => (0, 0)
  | .dst span _ _ _ => (0, spanBits x span)
  | .dstMask => (0, spanBits x (if wide then 2 else 1))
  | .pred _ => (0, if x.toNat < 96 then bitP x.toNat else 0)
  | .carry => if x.toNat < 96 then (bitP x.toNat, bitP x.toNat) else (0, 0)
  | .predSrc => (if x.toNat % 128 < 96 then bitP (x.toNat % 128) else 0, 0)
  | .src span _ _ => (spanBits x span, 0)
  | .block w => if w then (0, blockBits x.toNat (2 ^ 32 - 1)) else (blockBits x.toNat (2 ^ 32 - 1), 0)
/-- Tiles that a matrix instruction names, and those it writes (R305, item 6). -/
def insTiles (i : Ins) : Nat × Nat :=
  let d := bitTile i.f.d.toNat
  match i.opc with
  | 0xE0 => (d, d) | 0xE1 => (d, d) | 0xE2 => (d, d) | 0xE5 => (d, d) | 0xE7 => (d, d)
  | 0xE3 => (d, 0)
  | 0xE4 => let t := bitTile (i.f.sub.toNat % 16); (t, if bit i.f.sub.toNat 4 then t else 0)
  | 0xE6 => (d ||| bitTile i.f.a.toNat, d)
  | _ => (0, 0)

/-- Registers an instruction names: read, written (R77, R177, R178, R182). -/
def regBits (wide : Bool) (i : Ins) : Nat × Nat :=
  let f := i.f
  let e := (entry i.opc).getD default
  let (rd, ra, rb, rc) := e.roles f.sub.toNat
  let l := [roleBits wide rd f.d, roleBits wide ra f.a, roleBits wide rb f.b, roleBits wide rc f.c]
  let g := if f.prd.toNat < 96 then bitP f.prd.toNat else 0
  let rds := orAll (l.map (·.1)) ||| g
  let wrs := orAll (l.map (·.2))
  match i.opc with
  | 0x22 => if bit f.sub.toNat 3 then (orAll ((l.take 3).map (·.1)) ||| g, wrs) else (rds, wrs)
  | 0x53 =>
    if f.sub = 2#5 then (rds, if f.b = 0xF2#8 then blockBits f.d.toNat f.lit.toNat else if f.b = 0xF0#8 then 0 else wrs) else (rds, wrs)
  | 0xF0 =>
    let n := f.a.toNat
    (rds ||| (if 0x11 ≤ n ∧ n ≤ 0x13 then bitLc (n - 0x11) else 0), if n = srTime then spanBits f.d 2 else wrs)
  | 0xF1 => (rds, wrs ||| (if 0x11 ≤ f.d.toNat then bitLc (f.d.toNat - 0x11) else 0))
  | 0xF4 => (rds, spanBits f.d 3)
  | _ => (rds, wrs)
/-- The instructions with their registers; `wide` names the positions that a kernel of 64 lanes reaches. -/
def annotate (wide : List Nat) (is : List Ins) : List Ins :=
  is.mapIdx (fun k i => let x := regBits (wide.contains k) i; { i with rd := x.1, wr := x.2 })
/-- The highest v register an instruction names, plus 1; 0 for none (R25). -/
def vTop (i : Ins) : Nat :=
  let m := (i.rd ||| i.wr) % 2 ^ 192
  if m = 0 then 0 else m.log2 + 1

/-- A function applied until nothing changes, at most `n` times. -/
def fixN {α : Type} [DecidableEq α] (f : α → α) : Nat → α → α
  | 0, x => x
  | n + 1, x => let y := f x; if y = x then x else fixN f n y
/-- A forward flow over a graph: what each position passes on is joined into its successors, from the first position up. -/
def flow {α : Type} [DecidableEq α] (is : List Ins) (join : α → α → α) (pass : Ins → α → Option α) (init : List (Option α)) : List (Option α) :=
  fixN (fun (st : List (Option α)) =>
    (is.foldl (fun (x : Nat × List (Option α)) i =>
      (x.1 + 1, match (x.2.getD x.1 none).bind (pass i) with
        | none => x.2
        | some y => i.succ.foldl (fun l j => updAt (fun (o : Option α) => match o with
            | none => some y
            | some z => some (join y z)) j l) x.2)) (0, st)).2) (2 * is.length + 8) init
/-- A backward flow: each position's value from its successors', from the last position down. -/
def flowBack {α : Type} [DecidableEq α] (is : List Ins) (val : Ins → List α → α) (d : α) (rounds : Nat) : List α :=
  fixN (fun (st : List α) =>
    ((is.zip (List.range is.length)).foldr (fun (x : Ins × Nat) (l : List α) =>
      updAt (fun _ => val x.1 (x.1.succ.map (fun j => l.getD j d))) x.2 l) st)) rounds (List.replicate is.length d)

/-! ### Kernels -/

/-- Positions that the role entries of a kernel reach. -/
def kernelReach (is : List Ins) (k : Kcb) : List Nat := reachFrom is (k.roles.map (fun r => posOf is r.entry))
/-- R358 and R25 over the kernels of an object. -/
def kernelErrs (is : List Ins) (ks : List Kcb) : List LoadErr :=
  ks.flatMap (fun k => (kernelReach is k).filterMap (fun p => (k.check (at_ is p).opc (at_ is p).f).map (fun c => ((at_ is p).off, c))))
def budgetErrs (is : List Ins) (ks : List Kcb) : List LoadErr :=
  ks.flatMap (fun k => k.roles.flatMap (fun r => (reachFrom is [posOf is r.entry]).filterMap (fun p =>
    if r.budget < vTop (at_ is p) then some ((at_ is p).off, cContract) else none)))
/-- Positions that a kernel of 64 lanes reaches. -/
def widePos (is : List Ins) (ks : List Kcb) : List Nat := (ks.filter (fun k => k.width == 64)).flatMap (kernelReach is)
/-- The register reach of a transfer point (R25): CALLs followed, stopping at CALLX, BRX and RET. -/
def reachOf (is : List Ins) (p : Nat) : Nat :=
  let ps := closure is.length (fun k =>
    let i := at_ is k
    if i.opc = 0x02 ∨ i.opc = 0x04 ∨ i.opc = 0x05 then [] else i.succ ++ (if i.opc = 0x03 then i.target.toList.map (posOf is) else [])) [p]
  ps.foldl (fun m k => max m (vTop (at_ is k) - 1)) 0

/-! ### Structure (R56, R73, R74, R124 to R131) -/

/-- Positions from which paths run: role entries, CANONs, call targets and return addresses. -/
def rootsOf (is : List Ins) (entries : List Nat) : List Nat :=
  entries.map (posOf is) ++ (List.range is.length).filter (fun k => isCanon (at_ is k))
def structErrs (is : List Ins) (entries : List Nat) : List LoadErr :=
  let bs := bodiesOf is
  let bad (off : Nat) : LoadErr := (off, cContract)
  let starts := is.map (·.off)
  let live := reachFrom is (rootsOf is entries)
  let transfer (i : Ins) : List LoadErr := match i.target with
    | none => []
    | some t =>
      (if !(starts.contains t) || (i.opc == 0x03 && bs.any (fun b => b.holds t)) then [bad i.off] else []) ++
      (if i.opc = 0x01 ∧ bs.any (fun b => b.holds t != b.holds i.off) then [bad i.off] else [])
  let one (i : Ins) : List LoadErr :=
    (if i.opc = 0x09 ∧ (innermost bs i.off).isNone then [bad i.off] else []) ++
    (if (i.opc = 0x05 ∨ i.opc = 0x02) ∧ bs.any (fun b => b.holds i.off) then [bad i.off] else [])
  let body (b : Body) : List LoadErr :=
    let n := (is.filter (fun i => b.holds i.off)).length
    let en := at_ is (posOf is b.last)
    (if !(starts.contains b.last) || n < 1 || 256 < n then [bad b.at_] else []) ++
    (if [0x01, 0x02, 0x03, 0x04, 0x05, 0x08, 0x09].contains en.opc || isCloser en.opc then [bad b.last] else []) ++
    bs.filterMap (fun c => if c.at_ ≠ b.at_ && b.holds c.at_ && decide (b.last ≤ c.last) then some (bad c.at_) else none)
  is.flatMap transfer ++ is.flatMap one ++ bs.flatMap body ++
  live.filterMap (fun p => if (at_ is p).succ.any (fun x => is.length ≤ x) then some (bad (at_ is p).off) else none)

/-! ### The latency contract (R77 to R79) -/

/-- Registers still pending, each with the issues left; a variable result has more than any distance. -/
abbrev Pending := Sparse Nat
def pendVar : Nat := 2 ^ 30
def joinPend (a b : Pending) : Pending := a.foldl (fun m x => Sparse.set 0 m x.1 (max x.2 (Sparse.get 0 m x.1))) b
/-- Register numbers below 336 of a set. -/
def regList (m : Nat) : List Nat := (List.range 336).filter (fun k => bit m k)
/-- What an instruction writes for R77: PMOV.pr counts as writing every predicate of its block (R134). -/
def latWr (i : Ins) : Nat := if i.opc = 0x53 ∧ i.f.sub = 2#5 then i.wr ||| blockBits i.f.d.toNat (2 ^ 32 - 1) else i.wr
def pendAfter (i : Ins) (p : Pending) : Pending :=
  if impliesMarker i.opc || i.f.sw then [] else
  let p1 := p.filterMap (fun x => if x.2 = pendVar then some x else if x.2 ≤ 1 then none else some (x.1, x.2 - 1))
  let lat := match ((entry i.opc).map (·.lat)).getD .none with
    | .var => pendVar
    | .fixed n => n - 1
    | .none => 0
  (regList (latWr i)).foldl (fun m k => Sparse.set 0 m k lat) p1
/-- An instruction that reads or writes a pending register; one that implies a marker too (R77, R78). -/
def pendEarly (i : Ins) (p : Pending) : Bool := p.any (fun x => bit (i.rd ||| latWr i) x.1)
/-- An instruction whose registers are still pending, on the worst of its paths from a root. -/
def latencyErrs (is : List Ins) (entries : List Nat) : List LoadErr :=
  let calls := is.flatMap (fun i => if i.opc = 0x03 then i.target.toList.map (posOf is) else [])
  let roots := rootsOf is entries ++ calls
  let st := flow is joinPend (fun i p => some (pendAfter i p)) ((List.range is.length).map (fun k => if roots.contains k then some [] else none))
  (is.zip st).filterMap (fun x => match x.2 with
    | none => none
    | some p => if pendEarly x.1 p then some (x.1.off, cContract) else none)

/-! ### Liveness and the canonical table (R301, R308) -/

/-- What an instruction reads and what it ends, for liveness. -/
def useKill (bs : List Body) (i : Ins) : Nat × Nat :=
  let (named, _) := insTiles i
  let lcs := if i.opc = 0x08 ∨ bs.any (fun b => b.last == i.off) then 7 * 2 ^ 336 else 0
  let use := i.rd ||| lcs ||| (if i.opc = 0xE2 then 0 else named) |||
    (match i.opc with
      | 0x03 => allV i.f.d.toNat ||| allSPL ||| allTiles
      | 0x04 => allV i.f.d.toNat ||| allSPL ||| allTiles
      | 0x05 => allV 0 ||| allSPL ||| allTiles
      | 0x02 => allV 0 ||| allSPL ||| allTiles
      | _ => 0)
  let w1 := if i.opc = 0x53 ∧ i.f.sub = 2#5 ∧ i.f.b ≠ 0xF2#8 then 0 else i.wr
  (use, if i.guarded then 0 else w1 ||| (if i.opc = 0xE2 then named else 0))
def andNot (a b : Nat) : Nat := a ^^^ (a &&& b)
/-- What is live before each position. -/
def liveness (is : List Ins) : List Nat :=
  let bs := bodiesOf is
  flowBack is (fun i out => let x := useKill bs i; x.1 ||| andNot (orAll out) x.2) 0 (is.length + 1)

/-- Positions of the CANONs that a collective can reach (R308). -/
def syncPoints (is : List Ins) : List Nat :=
  let pts := pointsOf is
  let rets := (List.range is.length).flatMap (fun k => if (at_ is k).opc = 0x03 ∨ (at_ is k).opc = 0x04 then [posOf is ((at_ is k).off + (at_ is k).len)] else [])
  let next (k : Nat) : List Nat :=
    let i := at_ is k
    let fall := if i.guarded then [posOf is (i.off + i.len)] else []
    match i.opc with
    | 0x0A => []
    | 0x03 => i.target.toList.map (posOf is) ++ fall
    | 0x04 => pts ++ fall
    | 0x02 => pts ++ fall
    | 0x05 => rets ++ fall
    | _ => i.succ
  (closure is.length next (is.flatMap (fun i => if isCollective i.opc then i.succ else []))).filter (fun k => isCanon (at_ is k))

/-- The most instructions on a path from each position up to and including an end, no more than `cap`. -/
def longest (is : List Ins) (stop : Ins → Bool) (cap : Nat) : List Nat :=
  flowBack is (fun i out => if stop i then 1 else min cap (1 + out.foldl max 0)) 0 (cap + 1)
/-- What a short region may not hold (R301). -/
def notShort (i : Ins) : Bool := isCollective i.opc || [0xD7, 0xD9, 0xDB, 0x03, 0x04, 0x02, 0x05].contains i.opc
def isShort (is : List Ins) (long : List Nat) (k : Nat) : Bool :=
  let ps := closure is.length (fun j => if isCanon (at_ is j) then [] else (at_ is j).succ) (at_ is k).succ
  (at_ is k).succ.all (fun j => decide (long.getD j 0 ≤ 64)) && ps.all (fun j => !(notShort (at_ is j)))

/-- The entry that the loader derives for the CANON at a position. -/
def deriveEnt (is : List Ins) (live sync long : List Nat) (k : Nat) : CanonEnt :=
  let l := live.getD k 0
  { pcoff := (at_ is k).off, sync := sync.contains k, short := isShort is long k, acc := BitVec.ofNat 16 (l >>> 339),
    plive := BitVec.ofNat 96 (l >>> 240), slive := BitVec.ofNat 48 (l >>> 192), lclive := BitVec.ofNat 3 (l >>> 336),
    vlive := BitVec.ofNat 192 l }

/-! ### Regions (R305) -/

/-- Tiles written and not committed before each position of a region. -/
def dirtyTiles (is : List Ins) (start : List Nat) : List (Option Nat) :=
  let after (i : Ins) (d : Nat) : Option Nat :=
    if endsRegion i then none else
    let (named, wr) := insTiles i
    some (if i.opc = 0xE3 ∧ !i.guarded then andNot d named else d ||| wr)
  flow is (· ||| ·) after ((List.range is.length).map (fun k => if start.contains k then some 0 else none))
/-- Positions that a cycle without a CANON may pass: what is left when those with no way on, or none to them, are dropped. -/
def cycleRest (is : List Ins) : List Nat :=
  fixN (fun (l : List Nat) =>
    let l1 := l.filter (fun k => (at_ is k).succ.any (fun j => l.contains j))
    l1.filter (fun k => l1.any (fun j => (at_ is j).succ.contains k))) is.length
    ((List.range is.length).filter (fun k => !(isCanon (at_ is k))))

/-- CANON ordinals that the table does not reach: a field that breaks R73, whatever else the section holds. -/
def ordinalErrs (is : List Ins) (canon : List CanonEnt) : List LoadErr :=
  is.filterMap (fun i => if isCanon i && decide (canon.length ≤ Fields.abc i.f) then some (i.off, cContract) else none)
def regionErrs (is : List Ins) (entries : List Nat) (canon : List CanonEnt) : List LoadErr :=
  let n := is.length
  let bad (off : Nat) : LoadErr := (off, cContract)
  let all := List.range n
  let targets := is.flatMap (fun i => if i.opc = 0x03 then i.target.toList else [])
  let ordOf (i : Ins) : Nat := Fields.abc i.f
  let entOf (i : Ins) : Option CanonEnt := canon[ordOf i]?
  let rest := cycleRest is
  let cycles := rest.filterMap (fun k =>
    let nx (j : Nat) : List Nat := (at_ is j).succ.filter (fun x => !(isCanon (at_ is x)))
    if (closure n nx (nx k)).contains k then some (bad (at_ is k).off) else none)
  let notCanon := (entries ++ targets).filterMap (fun t => if isCanon (at_ is (posOf is t)) then none else some (bad t))
  let ords := all.filterMap (fun k =>
    let i := at_ is k
    if isCanon i && (canon.length ≤ ordOf i || (all.any (fun j => j < k && isCanon (at_ is j) && ordOf (at_ is j) == ordOf i)) ||
      (match entOf i with
        | some e => e.pcoff != i.off
        | none => true)) then some (bad i.off) else none)
  let ents := canon.filterMap (fun e => if isCanon (at_ is (posOf is e.pcoff)) then none else some (bad e.pcoff))
  let closers := is.filterMap (fun i => if isCloser i.opc && !(isCanon (at_ is (posOf is (i.off + i.len)))) then some (bad i.off) else none)
  let long := longest is endsRegion 4097
  let starts : List (Nat × List Nat × Option CanonEnt) :=
    all.filterMap (fun k => if isCanon (at_ is k) then some ((at_ is k).off, (at_ is k).succ, entOf (at_ is k)) else none) ++
    is.filterMap (fun i => if i.opc = 0x03 ∨ i.opc = 0x04 then
      let p := posOf is (i.off + i.len)
      some (i.off + i.len, [p], none) else none)
  let one (st : Nat × List Nat × Option CanonEnt) : List LoadErr :=
    let nodes := regionOf is st.2.1
    let tooLong := if st.2.1.any (fun p => 4096 < long.getD p 0) && !(nodes.any (fun k => rest.contains k)) then [bad st.1] else []
    let dirt := dirtyTiles is st.2.1
    let loose := nodes.filterMap (fun k =>
      let i := at_ is k
      match dirt.getD k none with
      | some d => if isCanon i && (match entOf i with
          | some e => d / 2 ^ 339 &&& e.acc.toNat ≠ 0
          | none => false) then some (bad i.off) else none
      | none => none)
    let inputs := match st.2.2 with
      | none => []
      | some e =>
        let lv := e.vlive.toNat ||| e.slive.toNat * 2 ^ 192 ||| e.plive.toNat * 2 ^ 240
        nodes.filterMap (fun k => if (at_ is k).wr &&& lv ≠ 0 then some (bad (at_ is k).off) else none) ++
        nodes.flatMap (fun x =>
          if isCollective (at_ is x).opc then
            (regionOf is [x]).filterMap (fun y =>
              let i := at_ is y
              if y ≠ x && i.opc == 0xA7 && i.f.d.toNat == (at_ is x).f.ctl.toNat % 8 then some (bad i.off) else none)
          else [])
    tooLong ++ loose ++ inputs
  cycles ++ notCanon ++ ords ++ ents ++ closers ++ starts.flatMap one
/-- Item 7: entries that differ from what the loader derives. -/
def tableErrs (is : List Ins) (canon : List CanonEnt) : List LoadErr :=
  let live := liveness is
  let sync := syncPoints is
  let long := longest is isCanon 65
  canon.filterMap (fun e =>
    let k := posOf is e.pcoff
    if isCanon (at_ is k) && deriveEnt is live sync long k ≠ e then some (e.pcoff, cContract) else none)

/-! ### The verdict -/

/-- The lowest offending instruction; between two codes for one, the choice is free (log 9). -/
def worst (l : List LoadErr) : Option LoadErr :=
  match l with
  | [] => none
  | e :: rest =>
    let off := rest.foldl (fun m x => min m x.1) e.1
    let codes := (l.filter (fun x => x.1 == off)).map (·.2)
    let a := codes.foldl min 255
    let b := codes.foldl max 0
    some (off, if Config.loaderTie off then a else b)

/-- The whole check of a section: its instructions, or the refusal of the lowest offending one (R74). `tail` holds the
refusal of bytes that make no whole word. Beside an instruction that does not decode, what rests on liveness and regions is
not judged (log 82). -/
def checkText (ws : List Word) (tail : List LoadErr) (ks : List Kcb) (canon : List CanonEnt) : Except LoadErr (List Ins) :=
  let (is0, errs) := decodeText (ws.length + 1) 0 ws
  let entries := ks.flatMap (fun k => k.roles.map (·.entry))
  let is := linkText is0
  let an := annotate (widePos is ks) is
  let deep := if errs.isEmpty then regionErrs an entries canon ++ tableErrs an canon else []
  match worst (errs ++ tail ++ ordinalErrs an canon ++ kernelErrs an ks ++ budgetErrs an ks ++ structErrs an entries ++ latencyErrs an entries ++ deep) with
  | some e => .error e
  | none => .ok an

end Sys2Proof.Machine
end

