-- ==== Sys2Proof/Machine/Service.lean ====
section
/-! DEFINITION. Host services (R297): code objects (R74, R87 to R89), queues (R271, R277, R288), page tables and
translation faults (R259, R261), run-time code (R307), KILL, partitions (R285) and fault logs (R334). -/

namespace Sys2Proof.Machine

/-- A REASON where no rule names one (log 29): some value of the field. -/
def openReason (n : Nat) : Nat := 1 + Config.openReason n % 127
/-- A read that a request makes, what it does then, or the request's refusal as unservable (R277, reason 0x09). -/
def State.withRead (s : State) (r : Req) (pid va n : Nat) (k : List Byte → State → State) : State :=
  match s.devRead pid va n with
  | (.wait, s1) => s1.later
  | (.bad _, s1) => s1.useLines.refuse r 0x09
  | (.ecc _, s1) => s1.useLines.refuse r 0x09
  | (.ok bs, s1) => k bs s1.useLines

/-- A read whose bytes say what else to read, or why the request is refused; then what it does. -/
def State.withTwo (s : State) (r : Req) (pid va n : Nat) (next : List Byte → State → Except Nat (Nat × Nat × Nat))
    (k : List Byte → List Byte → State → State) : State :=
  match s.devRead pid va n with
  | (.wait, s1) => s1.later
  | (.bad _, s1) => s1.useLines.refuse r 0x09
  | (.ecc _, s1) => s1.useLines.refuse r 0x09
  | (.ok bs, s1) =>
    match next bs s1 with
    | .error c => s1.useLines.refuse r c
    | .ok (p, a, m) => match s1.devRead p a m with
      | (.wait, s2) => s2.later
      | (.bad _, s2) => s2.useLines.refuse r 0x09
      | (.ecc _, s2) => s2.useLines.refuse r 0x09
      | (.ok es, s2) => k bs es s2.useLines

/-! ### Code objects (R87 to R89) -/

def fld (bs : List Byte) (off n : Nat) : Nat := ofLe ((bs.drop off).take n)
/-- An ELF section: name, type, flags, address, contents. -/
structure Sec where
  name : List Nat
  ty : Nat
  flags : Nat
  addr : Nat
  bytes : List Byte
  deriving DecidableEq, Repr, Inhabited
def nameOf (x : String) : List Nat := x.toList.map (·.toNat)
def cString (l : List Byte) : List Nat := (l.takeWhile (fun b => b ≠ 0#8)).map (·.toNat)
/-- The sections of an ELF64 file. -/
def elfSections (bs : List Byte) : List Sec :=
  let shoff := fld bs 40 8
  let size := fld bs 58 2
  let n := fld bs 60 2
  let hdr (i : Nat) : List Byte := (bs.drop (shoff + i * size)).take 64
  let body (h : List Byte) : List Byte := (bs.drop (fld h 24 8)).take (fld h 32 8)
  let strs := body (hdr (fld bs 62 2))
  (List.range n).map (fun i =>
    let h := hdr i
    { name := cString (strs.drop (fld h 0 4)), ty := fld h 4 4, flags := fld h 8 8, addr := fld h 16 8, bytes := body h })
/-- The header of R87; any other is refused with ILLEGAL_OPCODE and offset 0. -/
def headerOk (bs : List Byte) : Bool :=
  fld bs 0 4 == 0x464C457F && fld bs 4 1 == 2 && fld bs 5 1 == 1 && fld bs 7 1 == 0 && fld bs 16 2 == 2 &&
  fld bs 18 2 == 0xB85C && fld bs 48 4 == 1
def secOf (l : List Sec) (x : String) : Option Sec := l.find? (fun c => c.name == nameOf x)
def secBytes (l : List Sec) (x : String) : List Byte := ((secOf l x).map (·.bytes)).getD []
/-- The types and flags of R88, each name once, and no other allocated section. -/
def sectionsOk (l : List Sec) : Bool :=
  let want : List (String × Nat × Nat) := [(".text", 1, 6), (".rodata", 1, 2), (".data", 1, 3), (".canon", 1, 0), (".kcb", 7, 0)]
  want.all (fun w => let m := l.filter (fun c => c.name == nameOf w.1); decide (m.length ≤ 1) && m.all (fun c => c.ty == w.2.1 && c.flags == w.2.2)) &&
  l.all (fun c => !bit c.flags 1 || want.any (fun w => nameOf w.1 == c.name))

/-- The notes of `.kcb` (R89): offset and value of each descriptor; none when one is not a control block's note (log 81);
notes left as fuel. -/
def kcbNotes (bs : List Byte) : Nat → Nat → Option (List (Nat × Nat))
  | 0, _ => some []
  | n + 1, off =>
    if bs.length ≤ off then some [] else
    let name := ((bs.drop (off + 12)).take 8).map (·.toNat)
    let d := off + 20
    if bs.length < d + 128 ∨ fld bs off 4 ≠ 8 ∨ fld bs (off + 4) 4 ≠ 128 ∨ fld bs (off + 8) 4 ≠ 1 ∨ name ≠ nameOf "TIESQUE" ++ [0] then none
    else (kcbNotes bs n (d + 128)).map (fun l => (d, fld bs d 128) :: l)

/-- Whether a reserved field of a canonical-table entry is set (R301). -/
def canonResv (x : Nat) : Bool := bits x 63 34 ≠ 0 || bits x 95 80 ≠ 0 || bits x 255 243 ≠ 0
/-- A canonical-table entry (R301); none when a reserved field is set or PCOFF is no multiple of 4. -/
def canonEntOf (x : Nat) : Option CanonEnt :=
  if canonResv x ∨ bits x 31 0 % 4 ≠ 0 then none else
  some { pcoff := bits x 31 0, sync := bit x 32, short := bit x 33, acc := BitVec.ofNat 16 (bits x 79 64), plive := BitVec.ofNat 96 (bits x 191 96),
         slive := BitVec.ofNat 48 (bits x 239 192), lclive := BitVec.ofNat 3 (bits x 242 240), vlive := BitVec.ofNat 192 (bits x 447 256) }
/-- The table of `.canon` (R89); an object without the section has no entry. -/
def canonTable (bs : List Byte) : Option (List CanonEnt) :=
  let h := fld bs 0 16
  let n := bits h 63 32
  if bs.isEmpty then some [] else
  if bits h 15 0 ≠ 1 ∨ bits h 31 16 ≠ 0 ∨ bits h 127 64 ≠ 0 ∨ 2 ^ 24 ≤ n ∨ bs.length < 16 + 4 * n then none else
  (List.range n).mapM (fun i =>
    let off := fld bs (16 + 4 * i) 4
    if off % 8 ≠ 0 ∨ bs.length < off + 56 then none else canonEntOf (fld bs off 56))

/-- The bytes of an object as it is checked and kept. -/
structure Parsed where
  text : Sec
  rodata : Option Sec
  data : Option Sec
  canon : List CanonEnt
  kcbs : List (Nat × Nat)
  is : List Ins
  deriving DecidableEq, Repr, Inhabited
/-- 64 KiB pages that a section touches. -/
def Sec.pages (c : Sec) : List Nat :=
  if c.bytes.isEmpty then [] else
  (List.range ((c.addr + c.bytes.length - 1) / 65536 - c.addr / 65536 + 1)).map (fun i => c.addr / 65536 * 65536 + 65536 * i)
/-- Whether no page would have to serve two sections, whose permissions differ (R88, log 81). -/
def apart (l : List Sec) : Bool := l.Pairwise (fun a b => a.pages.all (fun p => !(b.pages.contains p)) = true)
/-- The words of a section, and the refusal of a last part that is no word (R74). -/
def tailErr (bs : List Byte) : List LoadErr := if bs.length % 4 = 0 then [] else [(bs.length / 4 * 4, cContract)]
/-- A code object accepted, or the fault code and byte offset of its refusal (R74, R87 to R89). A malformed `.canon` or
`.kcb`, a `.text` that does not start at a word and sections that share a page are refused with CONTRACT at offset 0
(log 81), other malformed files as log 29 says. -/
def parseObject (bs : List Byte) : Except LoadErr Parsed :=
  if !headerOk bs then .error (0, cIllegalOpcode) else
  let l := elfSections bs
  if !sectionsOk l then .error (0, cIllegalOpcode) else
  let text := (secOf l ".text").getD { name := nameOf ".text", ty := 1, flags := 6, addr := 0, bytes := [] }
  let kb := secBytes l ".kcb"
  match canonTable (secBytes l ".canon"), kcbNotes kb kb.length 0 with
  | some canon, some kcbs =>
    if text.addr % 4 ≠ 0 ∨ apart ((secOf l ".text").toList ++ (secOf l ".rodata").toList ++ (secOf l ".data").toList) = false then .error (0, cContract) else
    match checkText (wordsOf text.bytes) (tailErr text.bytes) (kcbs.map (fun k => kcbOf k.2)) canon with
    | .error e => .error e
    | .ok is => .ok { text := text, rodata := secOf l ".rodata", data := secOf l ".data", canon := canon, kcbs := kcbs, is := is }
  | _, _ => .error (0, cContract)

/-- The allocated sections with their permissions: `.text` executable only, `.rodata` read-only (R88). -/
def Parsed.secs (p : Parsed) : List (Sec × Nat) :=
  (p.text, 16) :: ((p.rodata.toList.map (fun c => (c, 4))) ++ (p.data.toList.map (fun c => (c, 12))))
/-- One page of an object placed, a line at a time through its home slice (R251), and mapped. -/
def State.placePage (s : State) (pid : Nat) (secs : List (Sec × Nat)) (va : Nat) : State :=
  let pa := roundUp s.freePa 65536
  let mine := secs.filter (fun c => c.1.pages.contains va)
  let perm := (mine.headD (default, 0)).2
  let s1 := mine.foldl (fun (s : State) c =>
    let lo := max c.1.addr va
    let hi := min (c.1.addr + c.1.bytes.length) (va + 65536)
    ({ s with dram := s.dram.writeBytes (pa + (lo - va)) ((c.1.bytes.drop (lo - c.1.addr)).take (hi - lo)) }).touchLines
      (pa + (lo - va)) (hi - lo) true) s
  ({ s1 with freePa := pa + 65536 }).mapPages pid (bits va 56 0) 4 (3 + perm + pa) 65536 1

/-- A refused LOAD: the error response with the fault code and the byte offset (R74), and the signal of a refused request, whose
REASON no rule names (R297, log 29). -/
def State.loadRefused (s : State) (r : Req) (e : LoadErr) : State :=
  ({ s with
    loadErrs := s.loadErrs ++ [({ sig := r.sig, proc := r.proc, code := e.2, off := e.1 } : LoadErrRec)] } : State).refuse r (openReason 7)
/-- An accepted object kept: its starts, transfer points with their reach, table, blocks and digest. -/
def State.keepObject (s : State) (r : Req) (bs : List Byte) (p : Parsed) : Nat × State :=
  let pages := (p.secs.flatMap (fun c => c.1.pages)).eraseDups
  let s1 := pages.foldl (fun (s : State) va => s.placePage r.proc p.secs va) (s.ensureProc r.proc)
  let o : CodeObj :=
    { handle := s1.nextId, proc := r.proc, text := p.text.addr, textLen := p.text.bytes.length, starts := p.is.map (·.off),
      points := (pointsOf p.is).map (fun k => ((at_ p.is k).off, reachOf p.is k)), canon := p.canon, kcbs := p.kcbs,
      rodata := (p.rodata.map (·.addr)).getD 0, rodataLen := (p.rodata.map (·.bytes.length)).getD 0, pages := pages, digest := sha384 bs }
  (o.handle, { (s1.fresh.dropAllI).remapped r.proc with objects := s1.objects ++ [o] })
def loadAt (s : State) (r : Req) (addr len handleAt : Nat) : State :=
  s.withRead r r.proc addr len (fun bs s1 =>
    match parseObject bs with
    | .error e => s1.loadRefused r e
    | .ok p =>
      let (h, s2) := s1.keepObject r bs p
      (s2.putVa r.proc handleAt (leBytes 8 h)).served r)

/-- LOAD: a code object is checked and loaded, or refused (R74). -/
def execLoad (r : Req) (addr len handleAt : Nat) (s : State) : Host.Outcome State Fault Refusal := .next (loadAt s r addr len handleAt)

/-- UNLOAD (R297): the object and its pages go (log 29: the reason while a grid of it is alive). -/
def unloadAt (s : State) (r : Req) (handle : Nat) : State :=
  match s.objects.find? (fun o => o.handle == handle && o.proc == r.proc) with
  | none => s.refuse r 0x04
  | some o =>
    if s.inUse handle then s.refuse r (openReason 0) else
    let s1 := o.pages.foldl (fun (s : State) va => s.mapPages o.proc (bits va 56 0) 4 0 0 1) s
    ({ s1.remapped o.proc with objects := s1.objects.filter (fun x => x.handle ≠ handle) }).served r

/-- UNLOAD: a code object is removed (R297). -/
def execUnload (r : Req) (handle : Nat) (s : State) : Host.Outcome State Fault Refusal := .next (unloadAt s r handle)

/-! ### Queues (R271, R277, R288) -/

/-- QCREATE; the descriptor is an address of its owning process from then on (log 47). -/
def qcreateAt (s : State) (r : Req) (desc : Nat) : State :=
  if desc % 64 ≠ 0 then s.refuse r 0x03 else
  s.withRead r r.proc desc 64 (fun bs s =>
    let d := descOf (ofLe bs)
    match descBad d with
    | some (c, _) => s.refuse r c
    | none =>
      let q : QueueSt := { desc := desc, proc := d.proc, part := d.part, tickq := d.tickq, held := none, undone := [], cause := none,
                           activeAt := s.time, lastRelease := none }
      let s1 : State := { s with queues := s.queues.filter (fun y => !(QueueSt.is d.proc desc y)) ++ [q] }
      (s1.setState q 1).served r)

/-- QCREATE: a queue is activated (R297). -/
def execQcreate (r : Req) (desc : Nat) (s : State) : Host.Outcome State Fault Refusal := .next (qcreateAt s r desc)

/-- QRESET (R277, R297); the queue's next TICK counts as its first (log 109). -/
def qresetAt (s : State) (r : Req) (desc : Nat) : State :=
  if desc % 64 ≠ 0 then s.refuse r 0x03 else
  match s.queues.find? (fun q => q.desc == desc && (q.proc == r.proc || !(s.queues.any (QueueSt.is r.proc desc)))) with
  | none => s.refuse r 0x0C
  | some q => ((((s.setField q 32 16 0).setState q 1).qset q (fun q => { q with cause := none, activeAt := s.time, lastRelease := none }))).served r

/-- QRESET: an errored queue reads on (R277). -/
def execQreset (r : Req) (desc : Nat) (s : State) : Host.Outcome State Fault Refusal := .next (qresetAt s r desc)

/-! ### Page tables (R256, R257, R261) -/

/-- The largest leaf whose size divides a range and an address: the level of a leaf given to MAP (log 31). -/
def leafLevel (va len pa : Nat) : Nat :=
  let ok (l : Nat) : Bool := va % pageBytes l == 0 && len % pageBytes l == 0 && pa % pageBytes l == 0
  if ok 2 then 2 else if ok 3 then 3 else 4
/-- MAP (R297). -/
def mapAt (s : State) (r : Req) (pid va len leaf : Nat) : State :=
  let pa := bits leaf 55 8 * 256
  let level := leafLevel va len pa
  if va % 65536 ≠ 0 ∨ len % 65536 ≠ 0 ∨ len = 0 then s.refuse r 0x03
  else if !bit leaf 0 ∨ malformed level leaf then s.refuse r 0x0B
  else ((s.ensureProc pid).mapPages pid (bits va 56 0) level leaf (pageBytes level) (len / pageBytes level)).remapped pid |>.served r

/-- MAP: entries are written (R297). -/
def execMap (r : Req) (proc va len leaf : Nat) (s : State) : Host.Outcome State Fault Refusal := .next (mapAt s r proc va len leaf)

/-- The leaves that cover a range, page after page: none when one reaches beyond it. -/
def coverGo (m : Memory) (root : Nat) : Nat → Nat → Nat → Option (List (Nat × Nat))
  | 0, _, _ => some []
  | fuel + 1, va, last =>
    if last ≤ va then some [] else
    let level := match walk m root va .rd with
      | .leaf _ _ _ _ _ l => some l
      | .denied => (match walk m root va .wr with
          | .leaf _ _ _ _ _ l => some l
          | _ => match walk m root va .ex with
            | .leaf _ _ _ _ _ l => some l
            | _ => none)
      | _ => none
    match level with
    | none => coverGo m root fuel (va + 65536) last
    | some l =>
      if va % pageBytes l ≠ 0 ∨ last < va + pageBytes l then none
      else (coverGo m root fuel (va + pageBytes l) last).map (fun r => (va, l) :: r)
/-- UNMAP (R297). -/
def unmapAt (s : State) (r : Req) (pid va len : Nat) : State :=
  if va % 65536 ≠ 0 ∨ len % 65536 ≠ 0 ∨ len = 0 then s.refuse r 0x03 else
  let x := bits va 56 0
  match s.proc? pid with
  | none => s.served r
  | some p =>
    match coverGo s.dram p.root (len / 65536) x (x + len) with
    | none => s.refuse r 0x03
    | some l => ((l.foldl (fun (s : State) (e : Nat × Nat) => s.mapPages pid e.1 e.2 0 0 1) s).remapped pid).served r

/-- UNMAP: entries are removed (R297). -/
def execUnmap (r : Req) (proc va len : Nat) (s : State) : Host.Outcome State Fault Refusal := .next (unmapAt s r proc va len)

/-! ### Translation faults (R259) -/

/-- What waited on a translation fault goes on: the access replays. -/
def State.replay (s : State) (id : Nat) : State :=
  { s with
    tfaults := s.tfaults.filter (fun t => t.id ≠ id),
    groups := s.groups.map (fun g => if g.hold = some id then { g with hold := none } else g),
    teams := s.teams.map (fun t => { t with copies := t.copies.map (fun c => if c.hold = some id then { c with hold := none } else c) }) }
/-- A fault that is declined, or not answered in time: the access replays and faults MEM_TRANSLATION, at each of its addresses. -/
def State.decline (s : State) (t : TFault) : State :=
  ({ s with declined := ((t.proc, t.va) :: t.lanes.map (fun (x : Nat × Nat) => (t.proc, x.2))) ++ s.declined }).replay t.id
def State.tfault? (s : State) (id : Nat) : Option TFault := s.tfaults.find? (fun t => t.id == id)

/-- FREPLY (R259, R297). -/
def freplyAt (s : State) (r : Req) (id : Nat) (mapped : Bool) : State :=
  match s.tfault? id with
  | none => s.refuse r (openReason 1)
  | some t =>
    if t.device then s.refuse r (openReason 1)
    else if mapped then (s.replay id).served r else (s.decline t).served r

/-- FREPLY: a forwarded translation fault is answered (R259). -/
def execFreply (r : Req) (id : Nat) (mapped : Bool) (s : State) : Host.Outcome State Fault Refusal := .next (freplyAt s r id mapped)

/-- The page of local memory that a leaf names is handed out (log 14). -/
def State.giveOut (s : State) (leaf : Nat) : State :=
  if bits leaf 57 56 = 0 then { s with freePa := max s.freePa (bits leaf 55 8 * 256 + 65536) } else s
/-- TRANSLATION_FAULT_SERVICE (R259): Rolahild, or the host, maps the page and the access replays. -/
def faultServiceAt (s : State) (id leaf : Nat) : State :=
  match s.tfault? id with
  | none => s
  | some t =>
    if !bit leaf 0 || malformed 4 leaf || t.mig then s else
    let s := s.giveOut leaf
    ((s.mapPages t.proc (bits t.va 56 16 * 65536) 4 leaf 0 1).remapped t.proc).replay id

/-- TRANSLATION_FAULT_SERVICE: the page is mapped (R259). -/
def execTranslationFaultService (id leaf : Nat) (s : State) : Host.Outcome State Fault Refusal := .next (faultServiceAt s id leaf)

/-- PAGE_MIGRATION (R259): the page's bytes, brought from its LOC, lie in local DRAM; its entry says so, and every access that waited
on the page replays. -/
def migrationAt (s : State) (id pa : Nat) (data : List (Nat × Byte)) : State :=
  match s.tfault? id with
  | none => s
  | some t =>
    match walk s.dram (s.rootOf t.proc) t.va t.k with
    | .leaf _ _ true at_ e level =>
      let n := pageBytes level
      if pa % n ≠ 0 ∨ Config.dramBytes < pa + n then s else
      let d := data.foldl (fun (m : Memory) x => if x.1 < n then m.write (pa + x.1) x.2 else m) s.dram
      let e' := e % 128 + pa
      let s0 : State := { s with dram := d.writeN at_ 8 e' }
      let s1 : State := { (s0.touchLines pa n true).touchL2 at_ 0 true 0 with
        freePa := max s.freePa (pa + n),
        l1 := s.l1.filter (fun x => !(x.line.meets 64 (.dram pa) n)), icache := s.icache.filter (fun x => !(x.line.meets 64 (.dram pa) n)) }
      let there := s.tfaults.filter (fun u => u.proc == t.proc && u.va % 2 ^ 57 / n == t.va % 2 ^ 57 / n)
      there.foldl (fun (s : State) u => s.replay u.id) (s1.remapped t.proc)
    | _ => s

/-- PAGE_MIGRATION: a MIG page comes to local DRAM (R259). -/
def execPageMigration (id pa : Nat) (data : List (Nat × Byte)) (s : State) : Host.Outcome State Fault Refusal := .next (migrationAt s id pa data)

/-- FAULT_REPLY_TIMEOUT (R259). -/
def replyTimeoutAt (s : State) (id : Nat) : State :=
  match s.tfault? id with
  | none => s
  | some t => if t.device ∨ s.time < t.since + s.faultLimit then s else s.decline t

/-- FAULT_REPLY_TIMEOUT: a forwarded fault not answered within FAULTLIMIT (R259). -/
def execFaultReplyTimeout (id : Nat) (s : State) : Host.Outcome State Fault Refusal := .next (replyTimeoutAt s id)

/-! ### Run-time code, kills, partitions and logs -/

/-- The first ordinal above all that a process has in use (R307). -/
def State.ordinalBase (s : State) (pid : Nat) : Nat :=
  ((s.objects.filter (fun o => o.proc == pid)).map (fun o => o.canon.length) ++
   (s.runcode.filter (fun c => c.proc == pid)).map (fun c => c.base + c.canon.length)).foldl max 0
/-- REGCODE (R76, R307). -/
def regcodeAt (s : State) (r : Req) (pid va len table count : Nat) : State :=
  if va % 65536 ≠ 0 ∨ len % 65536 ≠ 0 ∨ len = 0 ∨ table % 8 ≠ 0 then s.refuse r 0x03 else
  s.withRead r pid table (56 * count) (fun bs s1 =>
    match (List.range count).mapM (fun i => canonEntOf (fld bs (56 * i) 56)) with
    | none => s1.refuse r (if (List.range count).any (fun i => canonResv (fld bs (56 * i) 56)) then 0x02 else 0x0B)
    | some es => (({ s1 with
      runcode := s1.runcode ++ [({ proc := pid, va := va, len := len, base := s1.ordinalBase pid, canon := es } : RunCode)] } : State)).served r)

/-- REGCODE: run-time code is registered (R307). -/
def execRegcode (r : Req) (proc va len table count : Nat) (s : State) : Host.Outcome State Fault Refusal :=
  .next (regcodeAt s r proc va len table count)

/-- A tag that only an image holds is released (R295): the device keeps neither the image nor what it kept beside it. -/
def State.releaseTag (s : State) (tag : Nat) : State :=
  ({ s with
    imageTags := s.imageTags.filter (fun t => t ≠ tag), images := s.images.filter (fun i => i.1 ≠ tag),
    kept := s.kept.filter (fun k => k.tag ≠ tag) } : State).freeAreas tag
/-- KILL (R295, R297): of a grid that is stopping already, whose status has not been written, there is nothing left to kill. -/
def killAt (s : State) (r : Req) (tag : Nat) : State :=
  match s.grid? tag with
  | some _ => (s.updGrid tag (fun g => { g with killed := true })).served r
  | none => if s.alive tag then s.served r else if s.imageTags.contains tag then (s.releaseTag tag).served r else s.refuse r 0x18

/-- KILL: a grid is killed, or an image's tag released (R297). -/
def execKill (r : Req) (tag : Nat) (s : State) : Host.Outcome State Fault Refusal := .next (killAt s r tag)

/-- One way-mask word written (R253). -/
def State.setWays (s : State) (die slice pid v : Nat) : State := { s with ways := Sparse.set 0xFFFF s.ways (wayKey die slice pid) v }
/-- A mask written in all slices of a die. -/
def State.setWaysDie (s : State) (die pid v : Nat) : State := forN Config.slicesPerDie (fun i (s : State) => s.setWays die i pid v) s

/-- The fields of R285. -/
def partBad (s : State) (x : Nat) : Option Nat :=
  let first := bits x 14 8
  let count := bits x 22 16
  if !zeros x [(7, 3), (15, 15), (23, 23), (31, 31), (63, 48), (255, 144)] then some 0x02
  else if bits x 127 64 % 16 ≠ 0 then some 0x03
  else if 119 < first || count < 1 || 120 < first + count ||
    count ≤ bits x 30 24 || bits x 47 32 == 0 || bits x 143 128 < 1 || 1024 < bits x 143 128 ||
    (List.range count).any (fun i => !(s.inService (first + i))) ||
    s.parts.any (fun p => p.pid ≠ bits x 2 0 && decide (first < p.first + p.count) && decide (p.first < first + count)) then some 0x0B
  else if s.teams.any (fun t => t.resident && decide (first ≤ t.core / 8) && decide (t.core / 8 < first + count) &&
    (match s.grid? t.tag with
      | some g => g.part ≠ bits x 2 0
      | none => false)) then some (openReason 2)
  else none
/-- PARTITION (R285): the partition is formed, its masks written, its first turn begun; a run list with an entry outside its Values is
refused (R286). `rec` is the 256-bit record itself, which the request holds. -/
def partitionAt (s : State) (r : Req) (rec : Nat) : State :=
  let x := rec % 2 ^ 256
  match partBad s x with
  | some c => s.refuse r c
  | none => s.withRead r r.proc (bits x 127 64) (16 * bits x 143 128) (fun es s1 =>
      let pid := bits x 2 0
      let p : Part := { pid := pid, first := bits x 14 8, count := bits x 22 16, ticko := bits x 30 24, mask := bits x 47 32, owner := r.proc,
                        runlist := bits x 127 64, nproc := bits x 143 128, turn := 0, turnStart := s1.time, proc := 0, quantum := 0, qlist := 0 }
      match (List.range p.nproc).mapM (fun i => entryOf (fld es (16 * i) 16)) with
      | .error c => s1.refuse r c
      | .ok l =>
        let e := l.headD (0, 0, 0)
        let s2 := forN Config.dies (fun d (s : State) => s.setWaysDie d pid p.mask) s1
        (({ s2 with
          parts := s2.parts.filter (fun (q : Part) => q.pid ≠ pid) ++ [{ p with proc := e.1, quantum := e.2.1, qlist := e.2.2 }] } : State)).served r)

/-- PARTITION: a partition is formed (R285). -/
def execPartition (r : Req) (rec : Nat) (s : State) : Host.Outcome State Fault Refusal := .next (partitionAt s r rec)

/-- FAULTLOG (R334): the header is written. -/
def faultlogAt (s : State) (r : Req) (addr cap : Nat) : State :=
  if addr % 64 ≠ 0 then s.refuse r 0x03
  else if cap < 1 ∨ 65536 < cap then s.refuse r 0x0B
  else (((s.ensureProc r.proc).updProc r.proc (fun p => { p with log := some (addr, cap), written := 0 })).putVaN r.proc addr 64 (put 64 cap)).served r

/-- FAULTLOG: a process's fault log is registered (R334). -/
def execFaultlog (r : Req) (addr cap : Nat) (s : State) : Host.Outcome State Fault Refusal := .next (faultlogAt s r addr cap)

/-! ### The L2 control window (R253, R254) -/

/-- A way-mask word's values (R253). -/
def maskOk (v : Nat) : Bool := 1 ≤ v && decide (v ≤ 0xFFFF)
/-- L2_WAY_MASK_WRITE (R253): the slice and the partition that the offset names. -/
def wayWriteAt (s : State) (die offset v : Nat) : State :=
  let o := offset - 0x400000
  let slice := o / 64
  let p := o % 64 / 4
  if offset < 0x400000 ∨ o % 4 ≠ 0 ∨ 8 ≤ p ∨ Config.slicesPerDie ≤ slice ∨ Config.dies ≤ die then s.logRefusal offset 0x0B v
  else if maskOk v then s.setWays die slice p v else s.logRefusal offset 0x0B v

/-- L2_WAY_MASK_WRITE: one slice's mask for a partition (R253). -/
def execL2WayMaskWrite (die offset value : Nat) (s : State) : Host.Outcome State Fault Refusal := .next (wayWriteAt s die offset value)

/-- L2_WAY_MASK_ALL: the mask in all slices of a die (R253). -/
def execL2WayMaskAll (die pid value : Nat) (s : State) : Host.Outcome State Fault Refusal :=
  .next (if maskOk value && decide (die < Config.dies) && decide (pid < 8) then s.setWaysDie die pid value
    else s.logRefusal (0x400000 + 0x3FF * 64 + 4 * pid) 0x0B value)

/-- REGISTER_WRITE (R4, R253, R254): a link's PID; any other word of a window is read-only or none. -/
def regWriteAt (s : State) (reg : DevReg) (v : Nat) : State :=
  match reg with
  | .linkPid n =>
    if n < 18 ∧ v < 8 then { s with links := updAt (fun l => { l with pid := v }) n s.links } else s.logRefusal n 0x0B v
  | .l2Window _ o => s.logRefusal o 0x0B v

/-- REGISTER_WRITE: a device register with no row of its own (R4). -/
def execRegisterWrite (reg : DevReg) (value : Nat) (s : State) : Host.Outcome State Fault Refusal := .next (regWriteAt s reg value)

end Sys2Proof.Machine
end

