-- ==== Sys2Proof/Machine/Hart.lean ====
section
/-! DEFINITION. The four instructions that queue processors add to RV64IMAC (R280 to R284). Each acts for the queue
processor `hartNum`. -/

namespace Sys2Proof.Machine

/-- The exception of a queue processor's instruction: no rd and no memory written (R280). -/
def State.hartTrap (s : State) (n cause val : Nat) : State := s.updHart n (fun h => h.trap cause val)
/-- The instruction is over: a register written, the pc moved, the counters advanced. -/
def Hart.retire (h : Hart) (rd : Nat) (v : DWord) (pc : DWord) : Hart :=
  { h.setX rd v with pc := pc, mcycle := h.mcycle + 1#64, minstret := h.minstret + 1#64 }
/-- rd written and the pc past the instruction. -/
def State.hartRet (s : State) (n rd : Nat) (v : Nat) : State := s.updHart n (fun h => h.retire rd (BitVec.ofNat 64 v) (h.pc + 4#64))
/-- The word of custom-0 fields, for the illegal-instruction exception. -/
def hartWord (f3 : BitVec 3) (h : HFields) : Nat := (h.f7 ++ h.rs2 ++ h.rs1 ++ f3 ++ h.rd ++ 0b0001011#7 : Word).toNat
/-- An instruction of the current queue processor; a funct7 it does not list is illegal (cause 2). -/
def hartRun (s : State) (f3 : BitVec 3) (h : HFields) (body : Hart → State) : State :=
  match s.hart? s.hartNum with
  | none => s
  | some x => if checkHart f3.toNat h then body x else s.hartTrap s.hartNum 2 (hartWord f3 h)

/-- RFETCH (R281): the descriptor through the queue processor's table (log 20), the ring through its owner's. It is taken up again while
a line or a page that it reads is not at hand. -/
def rfetchAt (s : State) (h : HFields) (x : Hart) : State :=
  let n := s.hartNum
  let q := (x.getX h.rs1.toNat).toNat
  let slot := (x.getX h.rs2.toNat).toNat % 16
  if q % 64 ≠ 0 then s.hartTrap n 24 1
  else if !s.fw.isEmpty then s
  else match s.devRead x.proc q 64 with
  | (.wait, s1) => s1
  | (.bad _, s1) => s1.useLines.hartTrap n 24 2
  | (.ecc _, s1) => s1.useLines.hartTrap n 24 4
  | (.ok qb, s1) =>
    let d := descOf (ofLe qb)
    let k := (d.wr + 2 ^ 32 - d.rd) % 2 ^ 32
    if k = 0 then s1.useLines.hartRet n h.rd.toNat 0
    else if 2 ^ d.log2 < k then s1.useLines.hartTrap n 24 3
    else match s1.devRead d.proc (d.slot d.rd) 64 with
      | (.wait, s2) => s2
      | (.bad _, s2) => s2.useLines.hartTrap n 24 2
      | (.ecc _, s2) => s2.useLines.hartTrap n 24 4
      | (.ok bs, s2) =>
        let s3 := s2.useLines.updHart n (fun y => { y with
          buf := y.buf.writeBytes (64 * slot) bs, slotProc := Sparse.set 0 y.slotProc slot d.proc, slotDesc := Sparse.set 0 y.slotDesc slot q })
        (s3.putVaN x.proc (q + 12) 4 ((d.rd + 1) % 2 ^ 32)).hartRet n h.rd.toNat (d.rd * 2 ^ 32 + cmdType (ofLe bs))

/-- RFETCH: the next command of a queue into a buffer slot (R281). -/
def execRfetch (h : HFields) (s : State) : Host.Outcome State Fault Refusal := .next (hartRun s 0#3 h (rfetchAt s h))

/-- The field of BFXT (R282): none when len exceeds 64. -/
def bfxt (sx : Bool) (a b : Nat) : Option Nat :=
  let pos := bits b 5 0
  let len := bits b 14 8
  if 64 < len then none else
  let l := min len (64 - pos)
  let f := a / 2 ^ pos % 2 ^ l
  some (if sx && l ≠ 0 then sext l 64 f else f)
def bfxtAt (s : State) (h : HFields) (x : Hart) : State :=
  match bfxt (h.f7 == 1#7) (x.getX h.rs1.toNat).toNat (x.getX h.rs2.toNat).toNat with
  | none => s.hartTrap s.hartNum 25 1
  | some v => s.hartRet s.hartNum h.rd.toNat v

/-- BFXT: a bit field (R282). -/
def execBfxt (h : HFields) (s : State) : Host.Outcome State Fault Refusal := .next (hartRun s 1#3 h (bfxtAt s h))

/-- Whether an observed signal ends a stall: F = 1, or the condition holds (R283). -/
def stallOver (cond w v : Nat) : Bool := bit w 63 || condOk cond w v
/-- SWAIT (R283; a signal found uncorrectable is as unservable, log 103): it goes on at once when the condition holds, an interrupt is pending or F is 1; else the hart stalls. -/
def swaitAt (s : State) (h : HFields) (x : Hart) : State :=
  let n := s.hartNum
  let a := (x.getX h.rs1.toNat).toNat
  let v := (x.getX h.rs2.toNat).toNat
  if a % 8 ≠ 0 then s.hartTrap n 26 1 else
  match s.devRead x.proc a 8 with
  | (.wait, s1) => s1
  | (.bad _, s1) => s1.useLines.hartTrap n 26 2
  | (.ecc _, s1) => s1.useLines.hartTrap n 26 2
  | (.ok bs, s1) =>
    let w := ofLe bs
    if x.pending != 0#64 || stallOver h.f7.toNat w v then s1.useLines.hartRet n h.rd.toNat w
    else s1.useLines.updHart n (fun y => { y with stall := some { rd := h.rd.toNat, addr := a, cond := h.f7.toNat, val := v } })

/-- SWAIT: a stall on a signal (R283). -/
def execSwait (h : HFields) (s : State) : Host.Outcome State Fault Refusal := .next (hartRun s 2#3 h (swaitAt s h))

/-- SWAIT_WAKE (R283). -/
def wakeAt (s : State) (n : Nat) : State :=
  match s.hart? n with
  | none => s
  | some x =>
    match x.stall with
    | none => s
    | some t =>
      match s.devRead x.proc t.addr 8 with
      | (.wait, s1) => s1
      | (.bad _, s1) => (s1.useLines.updHart n (fun y => { y with stall := none })).hartTrap n 26 2
      | (.ecc _, s1) => (s1.useLines.updHart n (fun y => { y with stall := none })).hartTrap n 26 2
      | (.ok bs, s1) =>
        let w := ofLe bs
        if x.pending != 0#64 || stallOver t.cond w t.val then (s1.useLines.updHart n (fun y => { y with stall := none })).hartRet n t.rd w else s1.useLines

/-- SWAIT_WAKE: a stall ends (R283). -/
def execSwaitWake (hart : Nat) (s : State) : Host.Outcome State Fault Refusal := .next (wakeAt s hart)

/-- DISP (R284): the LAUNCH of a buffer slot, checked as R273, R274 and R290 to R294 say, then accepted. While the power limit has stopped
the part, which dispatches nothing, the instruction waits (R19, log 102). -/
def dispAt (s : State) (h : HFields) (x : Hart) : State :=
  let n := s.hartNum
  let slot := (x.getX h.rs1.toNat).toNat % 16
  let pt := (x.getX h.rs2.toNat).toNat % 8
  let pid := Sparse.get 0 x.slotProc slot
  let desc := Sparse.get 0 x.slotDesc slot
  let c := x.buf.readN (64 * slot) 64
  let tick := match s.queues.find? (QueueSt.is pid desc) with
    | some q => q.tickq
    | none => false
  let bad (s : State) (r d : Nat) : State := s.hartTrap n 27 (r * 2 ^ 56 + d % 2 ^ 56)
  if s.mgmt.powerStopped then s
  else if cmdType c ≠ 1 then bad s 0x01 (bits c 15 0) else
  match s.checkLaunch pid pt tick c with
  | (.wait, s1) => s1
  | (.bad r d, s1) => bad s1 r d
  | (.ok k o ps, s1) =>
    match s1.part? pt with
    | none => s1.useLines.hartTrap n 27 2
    | some _ =>
      if 64 ≤ (s1.grids.filter (fun g => g.part == pt && g.proc == pid)).length then s1.useLines.hartRet n h.rd.toNat 0
      else
        let (tag, s2) := s1.useLines.accept pid pt desc tick c k o ps
        (s2.updQueue pid desc (fun q => { q with undone := q.undone ++ [tag] })).hartRet n h.rd.toNat tag

/-- DISP: a LAUNCH handed to a partition's dispensers (R284). -/
def execDisp (h : HFields) (s : State) : Host.Outcome State Fault Refusal := .next (hartRun s 3#3 h (dispAt s h))

end Sys2Proof.Machine
end

