-- ==== Sys2Proof/Machine/Rv.lean ====
section
/-! DEFINITION. RV64IMAC with the machine and supervisor modes, as the queue processors implement it (R280). PRESUMED, log 72:
everything here is the RISC-V manuals', which R280 names and the spec does not print. -/

namespace Sys2Proof.Machine

/-! ### Words of the 32-bit forms -/

def rvI (op f3 rd rs1 imm : Nat) : Nat := op + put 7 rd + put 12 f3 + put 15 rs1 + put 20 (imm % 4096)
def rvR (op f3 f7 rd rs1 rs2 : Nat) : Nat := op + put 7 rd + put 12 f3 + put 15 rs1 + put 20 rs2 + put 25 f7
def rvS (f3 rs1 rs2 imm : Nat) : Nat := 0x23 + put 7 (imm % 32) + put 12 f3 + put 15 rs1 + put 20 rs2 + put 25 (imm / 32 % 128)
def rvB (f3 rs1 rs2 imm : Nat) : Nat :=
  0x63 + put 7 (bits imm 11 11) + put 8 (bits imm 4 1) + put 12 f3 + put 15 rs1 + put 20 rs2 + put 25 (bits imm 10 5) + put 31 (bits imm 12 12)
def rvJ (rd imm : Nat) : Nat :=
  0x6F + put 7 rd + put 12 (bits imm 19 12) + put 20 (bits imm 11 11) + put 21 (bits imm 10 1) + put 31 (bits imm 20 20)

def immI (w : Nat) : Nat := sext 12 64 (bits w 31 20)
def immS (w : Nat) : Nat := sext 12 64 (put 5 (bits w 31 25) + bits w 11 7)
def immB (w : Nat) : Nat := sext 13 64 (put 12 (bits w 31 31) + put 11 (bits w 7 7) + put 5 (bits w 30 25) + put 1 (bits w 11 8))
def immU (w : Nat) : Nat := sext 32 64 (put 12 (bits w 31 12))
def immJ (w : Nat) : Nat := sext 21 64 (put 20 (bits w 31 31) + put 12 (bits w 19 12) + put 11 (bits w 20 20) + put 1 (bits w 30 21))

/-! ### The compressed forms -/

/-- A 16-bit form as the 32-bit form that it abbreviates. -/
def rvExpand (c : Nat) : Option Nat :=
  let rd := bits c 11 7
  let rs2 := bits c 6 2
  let rdq := 8 + bits c 4 2
  let rsq := 8 + bits c 9 7
  let i6 := sext 6 64 (put 5 (bits c 12 12) + rs2)
  let sh := put 5 (bits c 12 12) + rs2
  let offW := put 6 (bits c 5 5) + put 3 (bits c 12 10) + put 2 (bits c 6 6)
  let offD := put 6 (bits c 6 5) + put 3 (bits c 12 10)
  let jmp := sext 12 64 (put 11 (bits c 12 12) + put 4 (bits c 11 11) + put 8 (bits c 10 9) + put 10 (bits c 8 8) + put 6 (bits c 7 7) +
    put 7 (bits c 6 6) + put 1 (bits c 5 3) + put 5 (bits c 2 2))
  let br := sext 9 64 (put 8 (bits c 12 12) + put 3 (bits c 11 10) + put 6 (bits c 6 5) + put 1 (bits c 4 3) + put 5 (bits c 2 2))
  match c % 4, bits c 15 13 with
  | 0, 0 =>
    let imm := put 4 (bits c 12 11) + put 6 (bits c 10 7) + put 2 (bits c 6 6) + put 3 (bits c 5 5)
    if imm = 0 then none else some (rvI 0x13 0 rdq 2 imm)
  | 0, 2 => some (rvI 0x03 2 rdq rsq offW)
  | 0, 3 => some (rvI 0x03 3 rdq rsq offD)
  | 0, 6 => some (rvS 2 rsq rdq offW)
  | 0, 7 => some (rvS 3 rsq rdq offD)
  | 1, 0 => some (rvI 0x13 0 rd rd i6)
  | 1, 1 => if rd = 0 then none else some (rvI 0x1B 0 rd rd i6)
  | 1, 2 => some (rvI 0x13 0 rd 0 i6)
  | 1, 3 =>
    if sh = 0 then none
    else if rd = 2 then
      some (rvI 0x13 0 2 2 (sext 10 64 (put 9 (bits c 12 12) + put 4 (bits c 6 6) + put 6 (bits c 5 5) + put 7 (bits c 4 3) + put 5 (bits c 2 2))))
    else some (0x37 + put 7 rd + put 12 (i6 % 2 ^ 20))
  | 1, 4 =>
    (match bits c 11 10 with
    | 0 => some (rvI 0x13 5 rsq rsq sh)
    | 1 => some (rvI 0x13 5 rsq rsq (1024 + sh))
    | 2 => some (rvI 0x13 7 rsq rsq i6)
    | _ =>
      match bits c 12 12, bits c 6 5 with
      | 0, 0 => some (rvR 0x33 0 0x20 rsq rsq rdq)
      | 0, 1 => some (rvR 0x33 4 0 rsq rsq rdq)
      | 0, 2 => some (rvR 0x33 6 0 rsq rsq rdq)
      | 0, _ => some (rvR 0x33 7 0 rsq rsq rdq)
      | _, 0 => some (rvR 0x3B 0 0x20 rsq rsq rdq)
      | _, 1 => some (rvR 0x3B 0 0 rsq rsq rdq)
      | _, _ => none)
  | 1, 5 => some (rvJ 0 jmp)
  | 1, 6 => some (rvB 0 rsq 0 br)
  | 1, 7 => some (rvB 1 rsq 0 br)
  | 2, 0 => some (rvI 0x13 1 rd rd sh)
  | 2, 2 => if rd = 0 then none else some (rvI 0x03 2 rd 2 (put 5 (bits c 12 12) + put 2 (bits c 6 4) + put 6 (bits c 3 2)))
  | 2, 3 => if rd = 0 then none else some (rvI 0x03 3 rd 2 (put 5 (bits c 12 12) + put 3 (bits c 6 5) + put 6 (bits c 4 2)))
  | 2, 4 =>
    (match bits c 12 12 with
    | 0 => if rs2 = 0 then (if rd = 0 then none else some (rvI 0x67 0 0 rd 0)) else some (rvR 0x33 0 0 rd 0 rs2)
    | _ => if rs2 = 0 then (if rd = 0 then some 0x00100073 else some (rvI 0x67 0 1 rd 0)) else some (rvR 0x33 0 0 rd rd rs2))
  | 2, 6 => some (rvS 2 2 rs2 (put 2 (bits c 12 9) + put 6 (bits c 8 7)))
  | 2, 7 => some (rvS 3 2 rs2 (put 3 (bits c 12 10) + put 6 (bits c 9 7)))
  | _, _ => none

/-! ### Arithmetic -/

/-- A signed division or remainder of w-bit values, with the results that division by zero and overflow give. -/
def rvDiv (w : Nat) (rem : Bool) (a b : Nat) : Nat :=
  let x := sgn w a
  let y := sgn w b
  if y = 0 then (if rem then a % 2 ^ w else 2 ^ w - 1)
  else if rem then wrap w (x - y * (Int.tdiv x y)) else wrap w (Int.tdiv x y)
def rvDivu (w : Nat) (rem : Bool) (a b : Nat) : Nat :=
  let x := a % 2 ^ w
  let y := b % 2 ^ w
  if y = 0 then (if rem then x else 2 ^ w - 1) else if rem then x % y else x / y

/-- OP and OP-IMM on 64 bits, by funct3, the variant of funct7's bit 5, and the multiply group; none when not listed. -/
def rvAlu (f3 : Nat) (alt : Bool) (a b : Nat) : Nat :=
  let sh := b % 64
  match f3 with
  | 0 => if alt then wrap 64 ((a : Int) - b) else (a + b) % 2 ^ 64
  | 1 => a * 2 ^ sh % 2 ^ 64
  | 2 => b2n (decide (sgn 64 a < sgn 64 b))
  | 3 => b2n (decide (a < b))
  | 4 => a ^^^ b
  | 5 => if alt then wrap 64 (sgn 64 a / 2 ^ sh) else a / 2 ^ sh
  | 6 => a ||| b
  | _ => a &&& b
def rvMul (f3 a b : Nat) : Nat :=
  match f3 with
  | 0 => a * b % 2 ^ 64
  | 1 => wrap 64 (sgn 64 a * sgn 64 b / 2 ^ 64)
  | 2 => wrap 64 (sgn 64 a * (b : Int) / 2 ^ 64)
  | 3 => a * b / 2 ^ 64
  | 4 => rvDiv 64 false a b
  | 5 => rvDivu 64 false a b
  | 6 => rvDiv 64 true a b
  | _ => rvDivu 64 true a b
/-- The forms on 32 bits, sign-extended. -/
def rvAluW (f3 : Nat) (alt : Bool) (a b : Nat) : Option Nat :=
  let sh := b % 32
  let out (x : Nat) : Option Nat := some (sext 32 64 (x % 2 ^ 32))
  match f3 with
  | 0 => out (if alt then wrap 32 ((a : Int) - b) else a + b)
  | 1 => if alt then none else out (a * 2 ^ sh)
  | 5 => out (if alt then wrap 32 (sgn 32 (a % 2 ^ 32) / 2 ^ sh) else a % 2 ^ 32 / 2 ^ sh)
  | _ => none
def rvMulW (f3 a b : Nat) : Option Nat :=
  let out (x : Nat) : Option Nat := some (sext 32 64 (x % 2 ^ 32))
  let x := a % 2 ^ 32
  let y := b % 2 ^ 32
  match f3 with
  | 0 => out (x * y)
  | 4 => out (rvDiv 32 false x y)
  | 5 => out (rvDivu 32 false x y)
  | 6 => out (rvDiv 32 true x y)
  | 7 => out (rvDivu 32 true x y)
  | _ => none
/-- The operation of an AMO on w-bit values. -/
def rvAmo (f5 w old b : Nat) : Option Nat :=
  match f5 with
  | 0 => some ((old + b) % 2 ^ w)
  | 1 => some b
  | 4 => some (old ^^^ b)
  | 8 => some (old ||| b)
  | 12 => some (old &&& b)
  | 16 => some (if sgn w b < sgn w old then b else old)
  | 20 => some (if sgn w old < sgn w b then b else old)
  | 24 => some (min old b)
  | 28 => some (max old b)
  | _ => none

/-! ### Control and status registers -/

/-- The writable bits of mstatus, of sstatus, of the interrupt registers, of the two delegation registers. -/
def mstatusBits : DWord := 0x7E19AA#64
def sstatusBits : DWord := 0xC0122#64
def irqBits : DWord := 0xAAA#64
def sirqBits : DWord := 0x222#64
def medelegBits : DWord := 0xF00B3FF#64
/-- The value of a register; none when there is no such register. -/
def Hart.csr (h : Hart) (n time : Nat) (a : Nat) : Option DWord :=
  match a with
  | 0x100 => some (h.mstatus &&& sstatusBits)
  | 0x104 => some (h.mie &&& h.mideleg)
  | 0x105 => some h.stvec
  | 0x106 => some h.scounteren
  | 0x140 => some h.sscratch
  | 0x141 => some h.sepc
  | 0x142 => some h.scause
  | 0x143 => some h.stval
  | 0x144 => some (h.mip &&& h.mideleg)
  | 0x180 => some 0#64
  | 0x300 => some (h.mstatus ||| 0x800000000#64)
  | 0x301 => some 0x8000000000041105#64
  | 0x302 => some h.medeleg
  | 0x303 => some h.mideleg
  | 0x304 => some h.mie
  | 0x305 => some h.mtvec
  | 0x306 => some h.mcounteren
  | 0x340 => some h.mscratch
  | 0x341 => some h.mepc
  | 0x342 => some h.mcause
  | 0x343 => some h.mtval
  | 0x344 => some h.mip
  | 0xB00 => some h.mcycle
  | 0xB02 => some h.minstret
  | 0xC00 => some h.mcycle
  | 0xC01 => some (BitVec.ofNat 64 time)
  | 0xC02 => some h.minstret
  | 0xF14 => some (BitVec.ofNat 64 n)
  | _ =>
    if (0xF11 ≤ a ∧ a ≤ 0xF15) ∨ (0x3A0 ≤ a ∧ a ≤ 0x3EF) ∨ a = 0x320 ∨ (0x323 ≤ a ∧ a ≤ 0x33F) ∨ (0xB03 ≤ a ∧ a ≤ 0xB1F) ∨ (0xC03 ≤ a ∧ a ≤ 0xC1F)
    then some 0#64 else none
/-- Bits of a register replaced where a mask lets them. -/
def masked (m old new : DWord) : DWord := (old &&& ~~~ m) ||| (new &&& m)
/-- A mode field of mstatus holds machine or supervisor only; the supervisor's own saved mode is supervisor. -/
def legalStatus (x : DWord) : DWord := (if bits x.toNat 12 11 = 3 then x else (x &&& ~~~(0x1800#64)) ||| 0x800#64) ||| 0x100#64
def Hart.setCsr (h : Hart) (a : Nat) (v : DWord) : Hart :=
  match a with
  | 0x100 => { h with mstatus := legalStatus (masked sstatusBits h.mstatus v) }
  | 0x104 => { h with mie := masked h.mideleg h.mie v }
  | 0x105 => { h with stvec := v &&& ~~~(2#64) }
  | 0x106 => { h with scounteren := v &&& 7#64 }
  | 0x140 => { h with sscratch := v }
  | 0x141 => { h with sepc := v &&& ~~~(1#64) }
  | 0x142 => { h with scause := v }
  | 0x143 => { h with stval := v }
  | 0x144 => { h with mip := masked (h.mideleg &&& 2#64) h.mip v }
  | 0x300 => { h with mstatus := legalStatus (masked mstatusBits h.mstatus v) }
  | 0x302 => { h with medeleg := v &&& medelegBits }
  | 0x303 => { h with mideleg := v &&& sirqBits }
  | 0x304 => { h with mie := v &&& irqBits }
  | 0x305 => { h with mtvec := v &&& ~~~(2#64) }
  | 0x306 => { h with mcounteren := v &&& 7#64 }
  | 0x340 => { h with mscratch := v }
  | 0x341 => { h with mepc := v &&& ~~~(1#64) }
  | 0x342 => { h with mcause := v }
  | 0x343 => { h with mtval := v }
  | 0x344 => { h with mip := masked sirqBits h.mip v }
  | 0xB00 => { h with mcycle := v }
  | 0xB02 => { h with minstret := v }
  | _ => h
/-- Whether a mode may reach a register, to write it when `wr`. -/
def Hart.mayCsr (h : Hart) (a : Nat) (wr : Bool) : Bool :=
  decide (bits a 9 8 ≤ h.mode) && !(wr && bits a 11 10 == 3) && !(h.mode == 1 && a == 0x180 && h.mstatus.getLsbD 20) &&
  !(h.mode == 1 && decide (0xC00 ≤ a) && decide (a < 0xC20) && !(h.mcounteren.getLsbD (a - 0xC00)))

/-! ### Execution -/

def State.rvRet (s : State) (n rd v : Nat) (pc : DWord) : State := s.updHart n (fun h => h.retire rd (BitVec.ofNat 64 v) pc)

/-- Where a queue processor's command buffer lies, as its loads see it. -/
def bufferAt : Nat := 2 ^ 40
/-- Bytes that a load reads: the buffer's, or those of local memory. -/
def State.rvLoad (s : State) (h : Hart) (a k : Nat) : Option Nat :=
  if bufferAt ≤ a ∧ a + k ≤ bufferAt + 1024 then some (h.buf.readN (a - bufferAt) k)
  else if a + k ≤ Config.dramBytes then some (s.readNAt (.dram a) k) else none
/-- What a load, or a fetch, of local memory leaves in the L2: a queue processor's partition id is 0 (R253). -/
def State.rvTouch (s : State) (a : Nat) : State := if a < Config.dramBytes then s.touchL2 a 0 false 0 else s
/-- Bytes that a store writes. -/
def State.rvStore (s : State) (a k v : Nat) : State :=
  ((((s.writeNAt (.dram a) k v).curePoison (.dram a) k).touchL2 a 0 true 0).noteWrite a).wakeXb (.dram a) k

/-- A load, or a store: aligned, in the buffer or local memory, and not of a line that a copy owns (R189). -/
def rvMem (s : State) (n : Nat) (h : Hart) (w len : Nat) : State :=
  let f3 := bits w 14 12
  let k := 2 ^ (f3 % 4)
  let st := w % 128 == 0x23
  let a := ((h.getX (bits w 19 15)).toNat + (if st then immS w else immI w)) % 2 ^ 64
  if f3 = 7 ∨ (st = true ∧ 4 ≤ f3) then s.hartTrap n 2 w
  else if a % k ≠ 0 then s.hartTrap n (if st then 6 else 4) a
  else if (s.owner? (.dram a)).isSome then s
  else if st then
    if Config.dramBytes < a + k then s.hartTrap n 7 a
    else (s.rvStore a k ((h.getX (bits w 24 20)).toNat % 2 ^ (8 * k))).rvRet n 0 0 (h.pc + BitVec.ofNat 64 len)
  else match s.rvLoad h a k with
    | none => s.hartTrap n 5 a
    | some v => (s.rvTouch a).rvRet n (bits w 11 7) (if f3 < 4 then sext (8 * k) 64 v else v) (h.pc + BitVec.ofNat 64 len)

/-- The atomics: LR, SC and the AMOs. -/
def rvAtomic (s : State) (n : Nat) (h : Hart) (w len : Nat) : State :=
  let f3 := bits w 14 12
  let k := 2 ^ (f3 % 4)
  let a := (h.getX (bits w 19 15)).toNat
  let b := (h.getX (bits w 24 20)).toNat % 2 ^ (8 * k)
  let rd := bits w 11 7
  let pc := h.pc + BitVec.ofNat 64 len
  let f5 := bits w 31 27
  if f3 ≠ 2 ∧ f3 ≠ 3 then s.hartTrap n 2 w
  else if a % k ≠ 0 then s.hartTrap n (if f5 = 2 then 4 else 6) a
  else if Config.dramBytes < a + k then s.hartTrap n (if f5 = 2 then 5 else 7) a
  else if (s.owner? (.dram a)).isSome then s
  else
    let old := s.readNAt (.dram a) k
    match f5 with
    | 2 => if bits w 24 20 ≠ 0 then s.hartTrap n 2 w else
      ((s.rvTouch a).updHart n (fun y => { y with resv := some (a, k, old) })).rvRet n rd (sext (8 * k) 64 old) pc
    | 3 =>
      let ok := h.resv == some (a, k, old)
      let s1 := s.updHart n (fun y => { y with resv := none })
      (if ok then s1.rvStore a k b else s1.rvTouch a).rvRet n rd (b2n (!ok)) pc
    | _ => match rvAmo f5 (8 * k) old b with
      | none => s.hartTrap n 2 w
      | some v => (s.rvStore a k v).rvRet n rd (sext (8 * k) 64 old) pc

/-- SYSTEM: the environment's instructions and those of the control and status registers. -/
def rvSystem (s : State) (n : Nat) (h : Hart) (w len : Nat) : State :=
  let f3 := bits w 14 12
  let rd := bits w 11 7
  let pc := h.pc + BitVec.ofNat 64 len
  let ill := s.hartTrap n 2 w
  if f3 = 0 then
    if w = 0x00000073 then s.hartTrap n (if h.mode = 3 then 11 else 9) 0
    else if w = 0x00100073 then s.hartTrap n 3 h.pc.toNat
    else if w = 0x30200073 then (if h.mode = 3 then s.updHart n Hart.mret else ill)
    else if w = 0x10200073 then (if h.mode = 1 ∧ h.mstatus.getLsbD 22 = true then ill else s.updHart n Hart.sret)
    else if w = 0x10500073 then
      if h.mode = 1 ∧ h.mstatus.getLsbD 21 = true then ill
      else (s.updHart n (fun y => { y with idle := y.pending == 0#64 })).rvRet n 0 0 pc
    else if bits w 31 25 = 9 ∧ rd = 0 then (if h.mode = 1 ∧ h.mstatus.getLsbD 20 = true then ill else s.rvRet n 0 0 pc)
    else ill
  else if f3 = 4 then ill
  else
    let a := bits w 31 20
    let src := if 4 ≤ f3 then BitVec.ofNat 64 (bits w 19 15) else h.getX (bits w 19 15)
    let wr := f3 % 4 == 1 || bits w 19 15 ≠ 0
    match h.csr n s.time a with
    | none => ill
    | some old =>
      if !(h.mayCsr a wr) then ill else
      let v := if f3 % 4 = 1 then src else if f3 % 4 = 2 then old ||| src else old &&& ~~~ src
      (s.updHart n (fun y => if wr then y.setCsr a v else y)).rvRet n rd old.toNat pc

/-- An instruction of 32 bits, or the expansion of one of 16; `len` is its length in memory. -/
def rvRun (s : State) (n : Nat) (h : Hart) (w len : Nat) : State :=
  let f3 := bits w 14 12
  let f7 := bits w 31 25
  let rd := bits w 11 7
  let a := (h.getX (bits w 19 15)).toNat
  let b := (h.getX (bits w 24 20)).toNat
  let pc := h.pc + BitVec.ofNat 64 len
  let ill := s.hartTrap n 2 w
  let ret (x : Nat) : State := s.rvRet n rd (x % 2 ^ 64) pc
  let opt (x : Option Nat) : State := match x with
    | none => ill
    | some v => ret v
  match w % 128 with
  | 0x37 => ret (immU w)
  | 0x17 => ret (h.pc.toNat + immU w)
  | 0x6F => s.rvRet n rd pc.toNat (h.pc + BitVec.ofNat 64 (immJ w))
  | 0x67 => if f3 ≠ 0 then ill else s.rvRet n rd pc.toNat (BitVec.ofNat 64 (a + immI w) &&& ~~~(1#64))
  | 0x63 =>
    let take := match f3 with
      | 0 => a == b
      | 1 => a != b
      | 4 => decide (sgn 64 a < sgn 64 b)
      | 5 => decide (sgn 64 b ≤ sgn 64 a)
      | 6 => decide (a < b)
      | _ => decide (b ≤ a)
    if f3 = 2 ∨ f3 = 3 then ill else s.rvRet n 0 0 (if take then h.pc + BitVec.ofNat 64 (immB w) else pc)
  | 0x03 => rvMem s n h w len
  | 0x23 => rvMem s n h w len
  | 0x13 =>
    if (f3 = 1 ∧ bits w 31 26 ≠ 0) ∨ (f3 = 5 ∧ bits w 31 26 ≠ 0 ∧ bits w 31 26 ≠ 16) then ill
    else ret (rvAlu f3 (f3 == 5 && bit w 30) a (immI w))
  | 0x1B =>
    if f3 ≠ 0 ∧ f7 ≠ 0 ∧ ¬(f3 = 5 ∧ f7 = 32) then ill
    else opt (rvAluW f3 (f3 == 5 && bit w 30) a (immI w))
  | 0x33 =>
    if f7 = 1 then ret (rvMul f3 a b)
    else if f7 = 0 ∨ (f7 = 32 ∧ (f3 = 0 ∨ f3 = 5)) then ret (rvAlu f3 (f7 == 32) a b) else ill
  | 0x3B =>
    if f7 = 1 then opt (rvMulW f3 a b)
    else if f7 = 0 ∨ f7 = 32 then opt (rvAluW f3 (f7 == 32) a b) else ill
  | 0x0F => if f3 = 0 ∨ f3 = 1 then s.rvRet n 0 0 pc else ill
  | 0x2F => rvAtomic s n h w len
  | 0x73 => rvSystem s n h w len
  | _ => ill

/-- What stands at a queue processor's pc: an instruction of R280's custom space, a word of RV64IMAC with its length in memory, or
nothing that it can fetch. -/
inductive HartWord where
  | custom (i : Instr)
  | base (w len : Nat)
  | none_
  deriving DecidableEq, Repr, Inhabited
def State.hartWord (s : State) (h : Hart) : HartWord :=
  let pc := h.pc.toNat
  if Config.dramBytes < pc + 2 then .none_ else
  let c := s.readNAt (.dram pc) 2
  if c % 4 ≠ 3 then .base c 2
  else if Config.dramBytes < pc + 4 then .none_ else
  let w := s.readNAt (.dram pc) 4
  match decodeHart (BitVec.ofNat 32 w) with
  | some i => .custom i
  | none => .base w 4
/-- The lines of the L2 that a fetch of `len` bytes touches (R251, R253). -/
def State.hartTouch (s : State) (pc len : Nat) : State :=
  let s1 := s.rvTouch pc
  if pc / 64 = (pc + len - 1) / 64 then s1 else s1.rvTouch (pc + len - 1)
/-- The next state of a queue processor that fetched a base word: a 16-bit one acts as what it abbreviates. -/
def State.rvTurn (s : State) (n : Nat) (h : Hart) (w len : Nat) : State :=
  if len = 2 then (match rvExpand w with
    | none => s.hartTrap n 2 w
    | some x => rvRun s n h x 2)
  else rvRun s n h w 4

/-- What a queue processor does next: a state, or one of R280's instructions to execute. -/
inductive HartNext where
  | still (s : State)
  | run (s : State) (i : Instr)
  deriving Inhabited
/-- A queue processor's turn: none while the part does not run (R343), or it is stalled (R283), or it waits for an interrupt; an
interrupt first; then its instruction. -/
def State.hartNext (s : State) (n : Nat) (h : Hart) : HartNext :=
  if s.mgmt.phase ≠ .running ∨ h.stall.isSome = true then .still s
  else match h.interrupt with
    | some c => .still (s.updHart n (fun h => h.take true c 0))
    | none =>
      if h.idle && h.pending == 0#64 then .still s else
      let s1 := s.updHart n (fun h => { h with idle := false })
      match s1.hartWord h with
      | .custom i => .run { s1.hartTouch h.pc.toNat 4 with hartNum := n } i
      | .base w len => .still ((s1.hartTouch h.pc.toNat len).rvTurn n h w len)
      | .none_ => .still (s1.hartTrap n 1 h.pc.toNat)

end Sys2Proof.Machine
end

