-- ==== Sys2Proof/Machine/Link.lean ====
section
/-! DEFINITION. Birnis transactions at this device as destination and as sender (R336 to R339), link training and loss
(R340, R347). -/

namespace Sys2Proof.Machine

/-! ### Headers (R336) -/

/-- The fields of a header. -/
structure Header where
  type : Nat
  src : Nat
  dst : Nat
  tid : Nat
  op : Nat
  cas : Bool
  w : Bool
  ret : Bool
  host : Bool
  pid : Nat
  addr : Nat
  mask : Nat
  opa : Nat
  opb : Nat
  code : Nat
  deriving DecidableEq, Repr, Inhabited
def headerOf (x : Nat) : Header :=
  { type := bits x 3 0, src := bits x 11 4, dst := bits x 19 12, tid := bits x 35 20, op := bits x 43 40, cas := bit x 44, w := bit x 45,
    ret := bit x 46, host := bit x 47, pid := bits x 55 48, addr := bits x 111 56, mask := bits x 175 112, opa := bits x 239 176, opb := bits x 303 240,
    code := bits x 311 304 }
/-- A request whose fields hold only what R336 and R335 admit. -/
def requestOk (t x : Nat) : Bool :=
  let h := headerOf x
  let n := if h.w then 8 else 4
  bits x 511 304 == 0 && decide (h.pid ≤ 7) && !bit h.addr 55 && (sysHost h.addr || sysHigh h.addr == 0) && h.type == t &&
  (match t with
    | 1 => h.op == 0 && !h.cas && !h.w && !h.ret && h.mask == 0 && h.addr % 64 == 0
    | 2 => h.op == 0 && !h.cas && !h.w && !h.ret && h.addr % 64 == 0
    | 3 => decide (h.op ≤ 13) && (!h.cas || h.op == 0) && h.mask == 0 && h.addr % n == 0
    | _ => h.op == 0 && !h.cas && !h.w && !h.ret && h.mask == 0 && h.addr % 16 == 0)

/-- An answer: RSP with an old value and data, or ERR with its CODE. -/
def answerHeader (own : Nat) (h : Header) (type opa code : Nat) : Nat :=
  put 0 type + put 4 own + put 12 h.src + put 20 h.tid + put 47 (b2n h.host) + put 56 h.addr + put 176 (opa % 2 ^ 64) + put 304 code
def State.outFlit (s : State) (header data : Nat) : State := { s with outbox := s.outbox ++ [({ header := header, data := data } : Flit)] }
def State.rsp (s : State) (h : Header) (opa data : Nat) : State := s.outFlit (answerHeader s.fabric h 8 opa 0) data
def State.err (s : State) (h : Header) (code : Nat) : State := s.outFlit (answerHeader s.fabric h 9 0 code) 0

/-! ### This device as destination -/

/-- A link that carries transactions: up, in the running phase (R340, R343). -/
def State.carries (s : State) (link : Nat) : Bool := s.mgmt.phase == .running && (match s.links[link]? with
  | some l => l.up && l.role ≠ 0
  | none => false)
def State.linkPid (s : State) (link : Nat) : Nat := ((s.links[link]?).map (·.pid)).getD 0
/-- The PEERS mask of the record (R342). -/
def State.admits (s : State) (src : Nat) : Bool := bit (s.cfg 1151 896) src

/-- A request's way: not carried, answered with an error, sent on, to the host adapter, or performed here at a local address. -/
inductive Route where
  | drop | fail (code : Nat) | forward | adapter | here (a : Nat)
  deriving DecidableEq, Repr, Inhabited
/-- Only the destination answers (R336): a request for a device that no route reaches is not carried further (R338). One whose address
lies elsewhere, or in host memory at a device without an adapter, is answered with 0x01 (log 94). -/
def State.route (s : State) (link t x : Nat) : Route :=
  let h := headerOf x
  if !s.carries link then .drop
  else if h.dst ≠ s.fabric then (if s.reach.contains h.dst then .forward else .drop)
  else if !requestOk t x then .fail 6
  else if !s.admits h.src then .fail 5
  else if sysDev h.addr ≠ s.fabric then .fail 1
  else if sysHost h.addr then (if s.bridges then .adapter else .fail 1)
  else if Config.dramBytes ≤ sysOffset h.addr then .fail 1
  else .here (sysOffset h.addr)
/-- A request handled by its route; `act` performs it at its home slice. -/
def State.routed (s : State) (link t x data : Nat) (act : Header → Nat → State) : State :=
  let h := headerOf x
  match s.route link t x with
  | .drop => s
  | .fail c => s.err h c
  | .forward => s.outFlit x data
  | .adapter => { s with adapter := s.adapter ++ [(h.tid, ({ header := x, data := data } : Flit))] }
  | .here a => act h a

/-- RD (R336); a line that a copy owns is read after the copy (R189). -/
def rdAt (s : State) (link x : Nat) : State :=
  s.routed link 1 x 0 (fun h a =>
    if (s.owner? (.dram a)).isSome then s
    else if s.poisoned (.dram a) 64 then s.err h 2
    else (s.touchL2 a (s.linkPid link) false 0).rsp h 0 (s.readNAt (.dram a) 64))

/-- BIRNIS_RD: a line is read at its home (R336). -/
def execBirnisRd (link header : Nat) (s : State) : Host.Outcome State Fault Refusal := .next (rdAt s link header)

/-- Bytes of a data flit that MASK names, written at a line. -/
def State.writeMasked (s : State) (a mask data : Nat) : State :=
  let s1 := forN 64 (fun i (s : State) => if bit mask i then s.writeNAt (.dram (a + i)) 1 (data / 2 ^ (8 * i) % 256) else s) s
  if mask % 2 ^ 64 = 2 ^ 64 - 1 then s1.curePoison (.dram a) 64 else s1
/-- WR (R336); a line that a copy owns is written after the copy (R189). -/
def wrAt (s : State) (link x data : Nat) : State :=
  s.routed link 2 x data (fun h a =>
    if (s.owner? (.dram a)).isSome then s
    else (((((s.writeMasked a h.mask data).touchL2 a (s.linkPid link) true 0).noteWrite a).wakeXb (.dram a) 64).rsp h 0 0))

/-- BIRNIS_WR: a line is written under MASK (R336). -/
def execBirnisWr (link header data : Nat) (s : State) : Host.Outcome State Fault Refusal := .next (wrAt s link header data)

/-- AT (R336, R195). -/
def atAt (s : State) (link x : Nat) : State :=
  s.routed link 3 x 0 (fun h a =>
    let n := if h.w then 8 else 4
    if (s.owner? (.dram a)).isSome then s
    else if s.poisoned (.dram a) n then s.err h 2
    else
      let old := s.readNAt (.dram a) n
      let new := if h.cas then (if old = h.opa % 2 ^ (8 * n) then h.opb % 2 ^ (8 * n) else old) else rmw h.op (8 * n) old (h.opa % 2 ^ (8 * n))
      ((((s.writeNAt (.dram a) n new).touchL2 a (s.linkPid link) true 0).noteWrite a).wakeXb (.dram a) n).rsp h (if h.ret then old else 0) 0)

/-- BIRNIS_AT: an atomic at the home slice (R336). -/
def execBirnisAt (link header : Nat) (s : State) : Host.Outcome State Fault Refusal := .next (atAt s link header)

/-- SIG (R216, R217, R336, R338); poisoned data answers RD and AT only with an error. -/
def sigInAt (s : State) (link x : Nat) : State :=
  s.routed link 4 x 0 (fun h a =>
    if (s.owner? (.dram a)).isSome then s
    else
      let (o, bad) := signalObj (s.readNAt (.dram a) 16) (sgn 64 h.opa) (sgn 64 h.opb)
      let s1 := (s.touchL2 a (s.linkPid link) true 0).putObject (.dram a) o
      match bad with
      | none => s1.rsp h 0 0
      | some c => (s1.logRefusal h.addr c 0).err h (if c = cUninit then 3 else 4))

/-- BIRNIS_SIG: a barrier signal is applied (R336). -/
def execBirnisSig (link header : Nat) (s : State) : Host.Outcome State Fault Refusal := .next (sigInAt s link header)

/-! ### This device as sender -/

def State.dropTxn (s : State) (tid : Nat) : State := { s with txns := s.txns.filter (fun t => t.tid ≠ tid) }
/-- What an access does with its response. A load's line comes into the L1 unless the L1 has taken a newer state of it since the access
left, and then the L1 loses the line, which may be older than the answer; a store updates the L1's copy, or drops it; the others drop
it, and so do the other cores of the cluster for what a cluster barrier put before their accesses (R221, R250, R263). -/
def State.accessRsp (s : State) (a : Access) (sys opa data : Nat) : State :=
  let core := s.coreOf a.tag a.team
  let line := a.loc.down 64
  let made := (s.noteExternal (s.procOf a.tag) sys).around a
  let swapped (r : Bool) : State :=
    let s1 := (made.dropLine core line).acquire core a.scope a.ord
    if r then s1.answer a (loadWrites a.dest a.size (opa % 2 ^ (8 * a.size))) else Access.gone s1 a.id
  match a.kind with
  | .load sx =>
    let s1 := if a.stale then s.dropLine core line else (s.fillL1 core line (leBytes 64 data)).markStale core (some line)
    (s1.acquire core a.scope a.ord).answer a (loadWrites a.dest a.size (loadVal sx a.size (lineWord sys a.size data)))
  | .ldk => s.answer a (loadWrites a.dest a.size (lineWord sys a.size data))
  | .store => Access.gone (if a.stale then made.dropLine core line else (made.storeL1 core a.loc (leBytes a.size a.dat)).markStale core (some line)) a.id
  | .xbinit => Access.gone (made.dropLine core line) a.id
  | .atom _ r => swapped r
  | .cas r => swapped r
  | .xbtest => s.observe a core (lineWord sys 16 data)
  | .xbwait => s.observe a core (lineWord sys 16 data)
  | .fence => Access.gone s a.id
  | .ifence => Access.gone s a.id
  | .mxq _ _ _ => Access.gone s a.id
def Loc.sysOf (l : Loc) : Nat := match l with
  | .sys a => a
  | _ => 0

/-- A response taken by what the transaction serves. -/
def State.response (s0 : State) (t : Txn) (opa data : Nat) : State :=
  let s := s0.dropTxn t.tid
  match t.who with
  | .access id =>
    match s.accs.find? (fun a => a.id == id) with
    | none => s
    | some a => s.accessRsp a a.loc.sysOf opa data
  | .sig id =>
    match s.sigs.find? (fun x => x.id == id) with
    | none => s
    | some x => (((s.noteExternal (s.procOf x.tag) x.loc.sysOf).roundSig x).dropLine (s.coreOf x.tag x.team) (x.loc.down 64)).sigDone x
  | .copyRd tag team seq =>
    match s.team? tag team with
    | none => s
    | some u =>
      match u.copies.find? (fun c => !c.hint && c.seq == seq) with
      | none => s
      | some c =>
        let o := (c.src + globOff c.shape (c.sector c.made)) % 64
        s.updCopy tag team seq (fun c => { c with wait := none, buf := some (((leBytes 64 data).drop o).take 32) })
  | .copyWr tag team seq =>
    match s.grid? tag, s.team? tag team with
    | some gr, some u =>
      match u.copies.find? (fun c => !c.hint && c.seq == seq) with
      | none => s
      | some c =>
        let i := c.sector c.made
        let s1 := (s.updCopy tag team seq (fun c => { c with wait := none })).own gr u c (.sys (t.addr + (c.dst + globOff c.shape i) % 64)) i
        match s1.copyBar gr u { c with wait := none } with
        | .error x => x
        | .ok (bar, s2) => s2.delivered gr u { c with wait := none } bar
    | _, _ => s
  | .line a => ({ s with devLines := (a, leBytes 64 data) :: s.devLines.filter (fun x => x.1 ≠ a) }).fwRun
  | .fw a => s.fwRsp a opa data
  | .ifetch id core line _ => (s.fillI core (.sys line) (leBytes 64 data)).replay id
  | .ifetchOld id _ => s.replay id
  | .fill job id => s.fillLine job id data

/-- Whether an answer's fields hold only what R336 and R338 admit: an RSP has no CODE, an ERR one of 1 to 6. -/
def answerOk (t x : Nat) : Bool :=
  let h := headerOf x
  bits x 511 312 == 0 && h.type == t && decide (h.pid ≤ 7) && !bit h.addr 55 && (sysHost h.addr || sysHigh h.addr == 0) && h.mask == 0 &&
  h.op == 0 && (if t = 8 then h.code == 0 else decide (1 ≤ h.code) && decide (h.code ≤ 6))
/-- BIRNIS_RSP (R336): a response to this device completes its transaction; one for another goes on. One with a reserved value is
refused and logged (R4). -/
def rspAt (s : State) (link x data : Nat) : State :=
  let h := headerOf x
  if !s.carries link then s
  else if !answerOk 8 x then s.logRefusal h.addr 6 (x % 2 ^ 64)
  else if h.dst ≠ s.fabric ∨ h.host = true then s.outFlit x data
  else match s.txns.find? (fun t => t.tid == h.tid) with
    | none => s
    | some t => s.response t h.opa data

/-- BIRNIS_RSP: a transaction of this device completes (R336). -/
def execBirnisRsp (link header data : Nat) (s : State) : Host.Outcome State Fault Refusal := .next (rspAt s link header data)

/-- The sender's fault for an ERR's CODE (R338). -/
def errFault (code : Nat) : Nat := match code with
  | 1 => cPermission | 2 => cEcc | 3 => cUninit | 4 => cIllegalOperand | 5 => cPermission | _ => cLink
/-- The set that waits for a line of code faults with what its transaction met (R246, R338). -/
def State.ifetchFails (s : State) (id pc fault addr : Nat) : State :=
  (s.groups.filter (fun g => decide (g.hold = some id))).foldl (fun (s : State) g =>
    match s.grid? g.tag with
    | none => s
    | some gr => match s.primary gr g with
      | none => s
      | some (m, k) =>
        if k.pc.toNat ≠ pc then s else
        (s.raise g.tag ((maskList g.lanes.length m).map (fun i => faultRec g i fault k.pc addr))).stopGroup g.tag g.team g.num) (s.replay id)
/-- A transaction that failed: its grid faults, with the system address; an agent outside a grid reports the code to the
host (R338). -/
def State.txnFails (s0 : State) (t : Txn) (fault code : Nat) : State :=
  let s := s0.dropTxn t.tid
  match t.who with
  | .access id =>
    match s.accs.find? (fun a => a.id == id) with
    | none => s
    | some a => s.accFault a fault a.loc.sysOf
  | .sig id =>
    match s.sigs.find? (fun x => x.id == id) with
    | none => s
    | some x => (s.sigDone x).sigFault { x with addr := x.loc.sysOf } fault
  | .copyRd tag team seq =>
    match s.grid? tag, s.team? tag team with
    | some gr, some u => (u.copies.find? (fun c => !c.hint && c.seq == seq)).elim s (fun c => s.copyFault gr u c fault t.addr)
    | _, _ => s
  | .copyWr tag team seq =>
    match s.grid? tag, s.team? tag team with
    | some gr, some u => (u.copies.find? (fun c => !c.hint && c.seq == seq)).elim s (fun c => s.copyFault gr u c fault t.addr)
    | _, _ => s
  | .ifetch id _ _ pc => s.ifetchFails id pc fault t.addr
  | .ifetchOld id pc => s.ifetchFails id pc fault t.addr
  | .line a => (({ s with devLines := (a, [BitVec.ofNat 8 code]) :: s.devLines.filter (fun x => x.1 ≠ a) }).report (.linkError code t.addr)).fwRun
  | .fw _ => (s.report (.linkError code t.addr)).fwEnd.fwRun
  | .fill _ _ => s.report (.linkError code t.addr)

/-- BIRNIS_ERR (R338). -/
def errAt (s : State) (link x : Nat) : State :=
  let h := headerOf x
  if !s.carries link then s
  else if !answerOk 9 x then s.logRefusal h.addr 6 (x % 2 ^ 64)
  else if h.dst ≠ s.fabric ∨ h.host = true then s.outFlit x 0
  else match s.txns.find? (fun t => t.tid == h.tid) with
    | none => s
    | some t => s.txnFails t (errFault h.code) h.code

/-- BIRNIS_ERR: the sender's grid faults with the mapped code (R338). -/
def execBirnisErr (link header : Nat) (s : State) : Host.Outcome State Fault Refusal := .next (errAt s link header)

/-- LINK_TIMEOUT (R338). -/
def linkTimeoutAt (s : State) (tid : Nat) : State :=
  match s.txns.find? (fun t => t.tid == tid) with
  | none => s
  | some t => if t.sentAt + s.linkLimit ≤ s.time then s.txnFails t cLink 0 else s

/-- LINK_TIMEOUT: no answer within LINKLIMIT (R338). -/
def execLinkTimeout (tid : Nat) (s : State) : Host.Outcome State Fault Refusal := .next (linkTimeoutAt s tid)

/-- ADAPTER_ACCESS_COMPLETE (R339): the RSP leaves, or completes this device's own access. -/
def adapterAt (s : State) (tid data : Nat) : State :=
  match s.adapter.find? (fun x => x.1 == tid) with
  | none => s
  | some (_, fl) =>
    let h := headerOf fl.header
    let s1 : State := { s with adapter := s.adapter.erase (tid, fl) }
    let d := if h.type = 1 then data else 0
    let old := if h.type = 3 ∧ h.ret = true then data % 2 ^ 64 else 0
    if h.src = s.fabric ∧ h.host = false then
      match s1.txns.find? (fun t => t.tid == tid) with
      | none => s1
      | some t => s1.response t old d
    else s1.rsp h old d

/-- ADAPTER_ACCESS_COMPLETE: a host-memory access is complete (R339). -/
def execAdapterAccessComplete (tid data : Nat) (s : State) : Host.Outcome State Fault Refusal := .next (adapterAt s tid data)

/-! ### Links (R340, R347) -/

/-- LINK_TRAINING (R340); a lost device stays out of the fabric until routes are redrawn (R335). -/
def trainAt (s : State) (link peer : Nat) : State :=
  match s.links[link]? with
  | none => s
  | some l =>
    if s.mgmt.phase ≠ .running ∨ l.role = 0 ∨ 2 < l.role ∨ (l.role = 1 ∧ peer ≠ l.peer) then s else
    let s1 : State := { s with links := updAt (fun l => { l with up := true }) link s.links }
    if l.role = 1 ∧ !(s.reach.contains peer) ∧ !(s.mgmt.lost.contains peer) then { s1 with reach := peer :: s.reach } else s1

/-- LINK_TRAINING: a link comes up, unless its far end is another part (R340). -/
def execLinkTraining (link peer : Nat) (s : State) : Host.Outcome State Fault Refusal := .next (trainAt s link peer)

/-- LINK_DOWN (R347). -/
def linkDownAt (s : State) (link : Nat) : State :=
  match s.links[link]? with
  | none => s
  | some l =>
    if !l.up then s else
    let s1 : State := { s with links := updAt (fun l => { l with up := false, downAt := s.time }) link s.links }
    if l.role = 1 ∧ !(s1.links.any (fun m => m.up && m.role == 1 && m.peer == l.peer)) then { s1 with reach := s1.reach.filter (fun d => d ≠ l.peer) } else s1

/-- LINK_DOWN: a link goes down (R347). -/
def execLinkDown (link : Nat) (s : State) : Host.Outcome State Fault Refusal := .next (linkDownAt s link)

/-- A device lost (R347): recorded, in no fabric (R335), and reported over MCTP and to the host. -/
def State.markLost (s : State) (d : Nat) : State :=
  if s.mgmt.lost.contains d then s else
  (({ s with mgmt := { s.mgmt with lost := d :: s.mgmt.lost }, reach := s.reach.filter (fun x => x ≠ d) }).report (.deviceLost d)).report (.hostLost d)

/-- The same, and every recovery in progress of a job with that member is enlarged by it (R352). -/
def State.loseDevice (s : State) (d : Nat) : State :=
  (s.markLost d).fwAdd ((s.jobs.filter (fun j => j.recovering &&
    ((!(j.lost.contains d) && (j.members.any (fun m => m.dev == d) || j.fills.any (fun f => f.src == d))) || j.carriers.any (fun c => c.1 == d)))).map (fun j =>
    fwOp j.proc 0 (.job (.recover j.id none [d] j.absorb))))
/-- A neighbour's loss by its watchdog or its recovery state comes to be known: it is reported (R347, log 95). -/
def State.neighbourLost (s : State) (d : Nat) : State :=
  if s.mgmt.phase == .running && s.links.any (fun l => l.role == 1 && l.peer == d) then s.loseDevice d else s
/-- A link down for LINKLIMIT. -/
def State.linkDead (s : State) (l : Link) : Bool := !l.up && decide (l.downAt + s.linkLimit ≤ s.time)
/-- The neighbours to which no link of this device leads any more, and that no route reaches: lost, as far as it can tell (log 95). -/
def State.deadPeers (s : State) : List Nat :=
  ((s.links.filter (fun l => l.role == 1)).map (·.peer)).eraseDups.filter (fun d =>
    !(s.reach.contains d) && (s.links.filter (fun l => l.role == 1 && l.peer == d)).all s.linkDead)
/-- LINKS_LOST_EXPIRY (R347): of this device when every link with ROLE 1 or 2 is dead; else of its neighbours. -/
def linksLostAt (s : State) : State :=
  let ls := s.links.filter (fun l => l.role == 1 || l.role == 2)
  if s.mgmt.phase ≠ .running then s
  else if !ls.isEmpty && ls.all s.linkDead then s.loseDevice s.fabric
  else s.deadPeers.foldl State.loseDevice s

/-- LINKS_LOST_EXPIRY: every link has been down for LINKLIMIT (R347). -/
def execLinksLostExpiry (s : State) : Host.Outcome State Fault Refusal := .next (linksLostAt s)

/-- WATCHDOG_EXPIRY: the watchdog was not refreshed within WDLIMIT (R347). -/
def execWatchdogExpiry (s : State) : Host.Outcome State Fault Refusal :=
  .next (if s.mgmt.refreshed + s.wdLimit ≤ s.time ∧ s.mgmt.phase = .running then s.loseDevice s.fabric else s)

end Sys2Proof.Machine
end

