-- ==== Sys2Proof/Machine/Device.lean ====
section
/-! DEFINITION. The management processor: power (R19), reset and identity (R342 to R344), MCTP and PLDM (R341, R345),
boundary scan (R346), and a process's end (R288). -/

namespace Sys2Proof.Machine

/-! ### Power and clock (R19) -/

def clockTop : Nat := 1300
def clockFloor : Nat := 650
/-- The management processor at work: its watchdog is refreshed (log 35). -/
def State.managed (s : State) (f : Mgmt → Mgmt) : State := { s with mgmt := { f s.mgmt with refreshed := s.time } }
/-- The power limit, in watts. -/
def powerLimit : Nat := 3200
/-- Package power measured over the last 10 ms. -/
def State.measure (s : State) (w : Nat) : State :=
  s.managed (fun m => { m with power := w, overAt := if powerLimit < w then some (m.overAt.getD s.time) else none })
/-- A clock change, reported through the sensor. -/
def State.setClock (s : State) (mhz : Nat) : State :=
  if mhz = s.mgmt.clock then s else (s.managed (fun m => { m with clock := mhz, clockAt := s.time })).report (.clock mhz)

/-- CLOCK_STEP_DOWN: 13 MHz less, down to the floor, while power is above the limit (R19). -/
def execClockStepDown (s : State) : Host.Outcome State Fault Refusal :=
  .next (if powerLimit < s.mgmt.power then s.setClock (max clockFloor (s.mgmt.clock - 13)) else s)

/-- CLOCK_STEP_UP: 13 MHz more, up to the top, once power is below the limit (R19). -/
def execClockStepUp (s : State) : Host.Outcome State Fault Refusal :=
  .next (if s.mgmt.power < powerLimit then s.setClock (min clockTop (s.mgmt.clock + 13)) else s)

/-- 100 ms in units of the time base (R18, R19). -/
def powerPatience : Nat := 10000000
/-- Whether power has been above the limit for 100 ms at the floor clock. -/
def State.overheld (s : State) : Bool := s.mgmt.clock == clockFloor && (match s.mgmt.overAt with
  | some t => decide (max t s.mgmt.clockAt + powerPatience ≤ s.time)
  | none => false)
/-- POWER_LIMIT_STOP (R19): after 100 ms above the limit at the floor clock, every grid is serialised with cause 2 and nothing more is
dispatched. -/
def powerStopAt (s : State) : State :=
  if s.mgmt.powerStopped || !s.overheld then s else
  let s1 := (s.managed (fun m => { m with powerStopped := true })).report .powerStop
  (s.grids.filter (fun g => g.faults.isEmpty && !g.killed)).foldl (fun (s : State) g => s.beginSerial g.tag (ownSerial 2 s.time g.proc)) s1

/-- POWER_LIMIT_STOP: every running context is stopped (R19). -/
def execPowerLimitStop (s : State) : Host.Outcome State Fault Refusal := .next (powerStopAt s)

/-- The contexts that the power limit stopped resume from their images, those of other processes when a turn's end did not ask too: they
wait for their turn (R19, R287). -/
def State.resumeAll (s : State) : State :=
  if s.mgmt.powerStopped then s else
  s.parts.foldl (fun (s : State) p => s.resumeImages p.pid (fun k => k.byPower && (k.proc == p.proc || !k.byTurn))) s
/-- POWER_EVENT_CLEAR (R19): dispatch goes on, and the stopped contexts resume once the images asked for have been written; one whose image
is written later resumes then. -/
def powerClearAt (s : State) : State :=
  if !s.mgmt.powerStopped then s else
  ((s.managed (fun m => { m with powerStopped := false })).report .powerDispatch).fwAdd [fwOp 0 0 (.job .resumeAll)]

/-- POWER_EVENT_CLEAR: the host clears the power-limit event (R19). -/
def execPowerEventClear (s : State) : Host.Outcome State Fault Refusal := .next (powerClearAt s)

/-! ### Reset (R342 to R344) -/

/-- The low bytes of a record, for a digest over its bits. -/
def lowBytes (n x : Nat) : List Byte := leBytes n x
/-- Reserved fields and Values of the configuration record (R342, R340). -/
def configOk (x : Nat) : Bool :=
  bits x 15 0 == 1 && bits x 151 32 ≠ 0 && bits x 191 152 == 0 && 200000 ≤ bits x 223 192 && 100000 ≤ bits x 255 224 &&
  1000 ≤ bits x 287 256 && 10000 ≤ bits x 319 288 && bits x 1663 1153 == 0 &&
  (List.range 18).all (fun n => let l := bits x (32 * n + 351) (32 * n + 320)
    bits l 1 0 ≠ 3 && bits l 31 13 == 0 && (bits l 1 0 == 1 || bits l 9 2 == 0))
/-- The three verifications of R343: the record under the root key that KEYHASH names, and each image under a key of the same root. -/
def Boot.verified (b : Boot) : Bool :=
  let x := b.record.toNat
  let key := BitVec.ofNat 384 (bits x 2431 2048)
  Config.rootKeys.contains key && Config.ecdsaVerify key (sha384 (lowBytes 304 (bits x 2431 0))) (BitVec.ofNat 768 (bits x 3199 2432)) &&
  Config.keyOfRoot key b.mpKey && Config.ecdsaVerify b.mpKey b.mpDigest b.mpSig &&
  Config.keyOfRoot key b.rlKey && Config.ecdsaVerify b.rlKey b.rlDigest b.rlSig
/-- The part as it stands after a verified reset: the record's links, the images' digests, the seed. -/
def bootState (b : Boot) : State :=
  let x := b.record.toNat
  let ls := (List.range 18).map (fun n =>
    let l := bits x (32 * n + 351) (32 * n + 320)
    ({ role := bits l 1 0, peer := bits l 9 2, pid := bits l 12 10, up := false, downAt := 0 } : Link))
  let m := State.reset.mgmt
  { State.reset with
    links := ls,
    mgmt := { m with phase := .running, record := b.record, mpfw := b.mpDigest, rlfw := b.rlDigest,
                     seed := Config.identitySeed (BitVec.ofNat 384 (bits x 2047 1664)) } }
/-- RESET (R343): any failure leaves the part in recovery state, reported; the time base and the model's own counters run on. -/
def resetAt (s : State) (b : Boot) : State :=
  let ok := configOk b.record.toNat && Boot.verified b
  let t := if ok then bootState b else
    let m := State.reset.mgmt
    { State.reset with mgmt := { m with phase := .recovery, msgs := [.recovery], lost := [bits b.record.toNat 23 16] } }
  let m := t.mgmt
  { t with choice := s.choice, time := s.time, links := t.links.map (fun l => { l with downAt := s.time }), mgmt := { m with refreshed := s.time, power := s.mgmt.power, overAt := s.mgmt.overAt } }

/-- RESET: the mask ROM verifies the record and the firmware (R343). -/
def execReset (b : Boot) (s : State) : Host.Outcome State Fault Refusal := .next (resetAt s b)

/-- ATTEST (R344): the report at its address. -/
def attestReport (s : State) (nonce : Nat) : List Byte :=
  let objs := sha384 (s.objects.flatMap (fun o => digestBytes o.digest))
  let conf := sha384 (lowBytes 400 s.mgmt.record.toNat)
  let body := leBytes 352 (put 0 (nonce % 2 ^ 384) + put 384 (Config.identityKey s.mgmt.seed).toNat + put 1152 (digestField s.mgmt.mpfw) +
    put 1536 (digestField s.mgmt.rlfw) + put 1920 (digestField conf) + put 2304 (digestField objs))
  body ++ leBytes 96 (Config.ecdsaSign s.mgmt.seed (sha384 body)).toNat
def attestAt (s : State) (r : Req) (nonce addr : Nat) : State := (s.putVa r.proc addr (attestReport s nonce)).served r

/-- ATTEST: a signed report (R344). -/
def execAttest (r : Req) (nonce addr : Nat) (s : State) : Host.Outcome State Fault Refusal := .next (attestAt s r nonce addr)

/-! ### MCTP and PLDM (R341, R345) -/

/-- A message served, unless the part is in recovery state, where only firmware update is (R343). -/
def State.message (s : State) (always : Bool) (m : MgmtMsg) : State :=
  if always || s.mgmt.phase == .running then (s.managed id).report m else s

/-- MCTP_CONTROL: the reply the standard gives (R345, log 6). -/
def execMctpControl (msg : List Byte) (s : State) : Host.Outcome State Fault Refusal := .next (s.message false (.reply (Config.mgmtReply 0 msg)))

/-- MCTP_UNSUPPORTED: answered as unsupported (R345). -/
def execMctpUnsupported (kind : Nat) (_ : List Byte) (s : State) : Host.Outcome State Fault Refusal := .next (s.message false (.unsupported kind))

/-- PLDM_BASE: the reply the standard gives (R345, log 6). -/
def execPldmBase (msg : List Byte) (s : State) : Host.Outcome State Fault Refusal := .next (s.message false (.reply (Config.mgmtReply 1 msg)))

/-- The device description record (R341). -/
def State.description (s : State) : Nat :=
  let om := s.cfg 151 32
  let n := popcount 120 om
  put 0 s.fabric + put 8 1 + put 16 n + put 32 om + put 152 (s.cfg 31 24) + put 160 (8 * n) + put 176 18 + put 192 (2 ^ 38)
def State.sensor (s : State) (q : PldmQuery) : Nat := match q with
  | .power => s.mgmt.power
  | .clock => s.mgmt.clock
  | .dieTemp n => Config.sensor (1 + n % 6) s.time
  | .dramTemp => Config.sensor 7 s.time
  | .eccCount => s.mgmt.eccCount
  | .description => s.description

/-- PLDM_PLATFORM: a sensor or the description record (R341, R345). -/
def execPldmPlatform (q : PldmQuery) (s : State) : Host.Outcome State Fault Refusal := .next (s.message false (.sensor q (s.sensor q)))

/-- PLDM_FIRMWARE_UPDATE: served in recovery state too (R343, R345). -/
def execPldmFirmwareUpdate (msg : List Byte) (s : State) : Host.Outcome State Fault Refusal := .next (s.message true (.reply (Config.mgmtReply 5 msg)))

/-! ### Boundary scan (R346) -/

def idCode : Nat := 0x5B40E6A5
def State.scanTo (s : State) (ir : ScanIr) (dr : Nat) : State := { s with scan := { s.scan with ir := ir, dr := dr } }
/-- What the boundary register captures at the balls (log 7). -/
def State.capture (s : State) : Nat := Config.scanCapture s.choice
def State.tick (s : State) : State := { s with choice := s.choice + 1 }

/-- TRST: the port is reset, IDCODE its instruction (R346). -/
def execTrst (s : State) : Host.Outcome State Fault Refusal := .next (s.scanTo .idcode idCode)

/-- BYPASS: the one-bit register, which captures 0 (R346). -/
def execBypass (s : State) : Host.Outcome State Fault Refusal := .next (s.scanTo .bypass 0)

/-- SAMPLE_PRELOAD: the balls are captured, the boundary register preloaded (R346). -/
def execSamplePreload (preload : Nat) (s : State) : Host.Outcome State Fault Refusal :=
  .next ({ s.tick with scan := { ir := .sample, dr := s.capture, boundary := preload } })

/-- EXTEST: while the part is held in reset; otherwise BYPASS (R346). -/
def execExtest (s : State) : Host.Outcome State Fault Refusal :=
  .next (if s.mgmt.phase = .boot then s.tick.scanTo .extest s.capture else s.scanTo .bypass 0)

/-- IDCODE: 0x5B40_E6A5 (R346). -/
def execIdcode (s : State) : Host.Outcome State Fault Refusal := .next (s.scanTo .idcode idCode)

/-- PROCESS_END (R288): the process's tick queues leave the tick list. -/
def execProcessEnd (proc : Nat) (s : State) : Host.Outcome State Fault Refusal :=
  .next { s with queues := s.queues.filter (fun q => !(q.proc == proc && q.tickq)) }

end Sys2Proof.Machine
end

