-- ==== Sys2Proof/Machine/Job.lean ====
section
/-! DEFINITION. Jobs, recovery points, replacement and rollback (R347 to R354). -/

namespace Sys2Proof.Machine

/-! ### Registering (R348) -/

def memberOf (x : Nat) : Member := { dev := bits x 7 0, partner := bits x 15 8, spare := bit x 16 }
def tensorOf (x : Nat) : Tensor := { vbase := bits x 63 0, len := bits x 127 64, replica := bits x 129 128 == 1, home := bits x 145 138, repl := bits x 153 146 }
/-- Values of a device and of a tensor entry; a reserved field and a misaligned VBASE are cases of their own (R277, R297). -/
def memberBad (x : Nat) : Bool := bits x 31 17 ≠ 0
def tensorResv (x : Nat) : Bool := bits x 137 130 ≠ 0 || bits x 255 154 ≠ 0
def tensorCrooked (x : Nat) : Bool := bits x 63 0 % 65536 ≠ 0
def tensorBad (x : Nat) : Bool :=
  !(bits x 129 128 == 1 || bits x 129 128 == 2) || bits x 127 64 % 65536 ≠ 0 ||
  (bits x 129 128 == 2 && bits x 153 146 ≠ bits x 145 138)
/-- A partner that is the device itself, or no member (R348). -/
def partnersOk (ms : List Member) : Bool := ms.all (fun m => m.partner ≠ m.dev && ms.any (fun p => p.dev == m.partner))
/-- The power domain of a member, where this device knows it: its own record only; another's is free (log 36). -/
def State.pdomOf (s : State) (d : Nat) : Nat := if d = s.fabric then s.cfg 31 24 else Config.peerPdom d
def State.pdomsOk (s : State) (override : Bool) (ms : List Member) : Bool := override || ms.all (fun m => s.pdomOf m.dev ≠ s.pdomOf m.partner)

/-- The header of a job record: why it is refused, else how many devices and tensors follow. -/
def jobHead (h : Nat) : Except Nat (Nat × Nat) :=
  let nd := bits h 15 0
  if !zeros h [(63, 49), (255, 192)] then .error 0x02
  else if bits h 127 64 % 64 ≠ 0 ∨ bits h 191 128 % 64 ≠ 0 then .error 0x03
  else if nd < 2 || 256 < nd || bits h 47 32 == 0 || bits h 191 128 < 256 then .error 0x0B
  else .ok (nd, bits h 31 16)
/-- A job of a process, as a record registers it. -/
def jobStart (proc : Nat) (ms : List Member) (ts : List Tensor) (override : Bool) (area slot : Nat) : Job :=
  { id := proc, proc := proc, members := ms, tensors := ts, override := override, area := area, slot := slot, complete := none, places := [],
    taking := none, takingReq := (0, 0), pending := [], used := 0, finished := false, fills := [], filled := [], lost := [], carriers := [],
    recovering := false, recReqs := [], absorb := 0, dirty := [], older := [], extCount := 0, extRanges := [], report := [], lostRanges := [] }
/-- A job registered again keeps its complete points, where their images lie, what has been written since, and what is lost (R350, log 97); of
a tensor that the record adds, or with another partner, the next point writes every superblock. -/
def State.rejoin (s : State) (old j : Job) : Job :=
  let was := if old.partnerOf s.fabric = j.partnerOf s.fabric then s.partnerBlocks old else []
  { j with complete := old.complete, places := old.places, lost := old.lost, carriers := old.carriers, older := old.older,
           dirty := old.dirty ++ (s.partnerBlocks j).filter (fun a => !(was.contains a) && !(old.dirty.contains a)),
           extCount := old.extCount, extRanges := old.extRanges, report := old.report, lostRanges := old.lostRanges }
/-- JOB (R348): the job is named by its process from then on (log 97); one whose point or recovery is under way waits for its end. -/
def jobAt (s : State) (r : Req) (addr : Nat) : State :=
  s.withTwo r r.proc addr 32 (fun hd _ => (jobHead (ofLe hd)).map (fun n => (r.proc, addr + 32, 4 * n.1 + 32 * n.2))) (fun hd bs s2 =>
    let h := ofLe hd
    let nd := bits h 15 0
    let devs := (List.range nd).map (fun i => fld bs (4 * i) 4)
    let tens := (List.range (bits h 31 16)).map (fun i => fld bs (4 * nd + 32 * i) 32)
    let ms := devs.map memberOf
    if devs.any memberBad || tens.any tensorResv then s2.refuse r 0x02
    else if tens.any tensorCrooked then s2.refuse r 0x03
    else if tens.any tensorBad then s2.refuse r 0x0B
    else if !partnersOk ms || !s2.pdomsOk (bit h 48) ms then s2.refuse r 0x1A
    else
      let j := jobStart (bits h 47 32) ms (tens.map tensorOf) (bit h 48) (bits h 127 64) (bits h 191 128)
      let old := s2.jobs.find? (fun x => x.proc == j.proc)
      if old.any (fun x => x.taking.isSome || x.recovering) then s2.later else
      let j1 := match old with
        | some x => s2.rejoin x j
        | none => j
      (({ s2 with jobs := s2.jobs.filter (fun x => x.proc ≠ j.proc) ++ [j1] } : State)).served r)

/-- JOB: a job is registered (R348). -/
def execJob (r : Req) (addr : Nat) (s : State) : Host.Outcome State Fault Refusal := .next (jobAt s r addr)

/-! ### Recovery points (R350) -/

def State.job? (s : State) (id : Nat) : Option Job := s.jobs.find? (fun j => j.id == id)
/-- Images of a process that the device or a debugger holds: a point writes them unchanged (R357). -/
def State.heldImages (s : State) (pid : Nat) : List (Nat × List Byte) × State :=
  (s.keptImages (fun k => k.proc == pid)).foldl (fun (a : List (Nat × List Byte) × State) x =>
    let (bs, s1) := a.2.imageBytes pid x.2
    (a.1 ++ (bs.map (fun b => (x.1.tag, b))).toList, s1)) ([], s)
/-- A spare runs no work of its job and takes no part in a point (R348, R350). -/
def State.isSpare (s : State) (j : Job) : Bool := j.members.any (fun m => m.dev == s.fabric && m.spare)
/-- RPOINT (R350): every grid of the process is serialised with cause 4; it begins when none of them is being serialised
or is stopping. -/
def rpointAt (s : State) (r : Req) (id k : Nat) : State :=
  match s.job? id with
  | none => s.refuse r (openReason 3)
  | some j =>
    let gs := s.grids.filter (fun g => g.proc == j.proc)
    let busy := gs.any (fun g => !g.faults.isEmpty || g.killed || (match g.ser with
      | some x => !x.held
      | none => false))
    if j.taking.isSome || busy || !s.fw.isEmpty || j.recovering then s.later else
    let (held, s) := s.heldImages j.proc
    let s1 := (s.freeSlot id k).updJob id (fun j => { j with taking := some k, takingReq := (r.sig, r.proc), pending := gs.map (·.tag) ++ held.map (·.1), used := 0, finished := false })
    let j1 : Job := { j with taking := some k, takingReq := (r.sig, r.proc), pending := gs.map (·.tag) ++ held.map (·.1), used := 0, finished := false }
    if s.isSpare j then s1.updJob id (fun j => { j with finished := true })
    else if gs.isEmpty && held.isEmpty then s1.pointEnd j1 k 0 else
    let s2 := gs.foldl (fun (s : State) g => s.beginSerial g.tag (ownSerial 4 s.time g.proc)) s1
    held.foldl (fun (s : State) i => match s.job? id with
      | some x => if x.taking.isSome then s.pointImage x k i.1 i.2 else s
      | none => s) s2

/-- RPOINT: a recovery point is taken (R350). -/
def execRpoint (r : Req) (job point : Nat) (s : State) : Host.Outcome State Fault Refusal := .next (rpointAt s r job point)

/-- RPOINT_COMPLETE (R350): every member has finished step 3. -/
def rpointCompleteAt (s : State) (id k : Nat) : State :=
  match s.job? id with
  | none => s
  | some j =>
    if j.taking ≠ some k ∨ j.finished = false then s else
    (s.updJob id (fun j => { j with
      complete := some k, taking := none, places := (k, j.slotAt k, j.slot) :: j.places.take 1 })).signalOp j.takingReq.2 j.takingReq.1 .done

/-- RPOINT_COMPLETE: the point is complete (R350). -/
def execRpointComplete (job point : Nat) (s : State) : Host.Outcome State Fault Refusal := .next (rpointCompleteAt s job point)

/-! ### Recovery (R351 to R353) -/

/-- Where the images of a complete point lie: the address and the bytes there (R350). -/
def Job.place (j : Job) (p : Nat) : Nat × Nat := match j.places.find? (fun x => x.1 == p) with
  | some x => x.2
  | none => (j.slotAt p, j.slot)
/-- The images that lie one after another from an address up to their end (log 33), `n` at most, replanted before anything that the firmware
has to do already: each in the partition of the grid that it was, where that grid is known and `own` holds, else in `part` (R351). -/
def State.replantChain (s : State) (pid part : Nat) (own : Bool) (n va last : Nat) : State :=
  ({ s with fw := fwOp pid va (.images last part own n) :: s.fw }).fwRun
/-- An image of a chain has been read: it is replanted where no live grid holds its tag, or its refusal is logged (R4), once what its spill
region holds is at hand; then the next one. -/
def State.replantOne (s : State) (pid va last part : Nat) (own : Bool) (n : Nat) (bs : List Byte) : State :=
  let tag := bits (fld bs (dirAt (ofLe (bs.take 256)) 0).1 128) 23 0
  let pt := if own then ((s.kept.find? (fun k => k.tag == tag)).map (·.part)).getD part else part
  match s.replantWhole bs pt with
  | (none, s1) => { s1 with fw := fwOp pid va (.images last part own n) :: s1.fw }
  | (some (.ok (_, s2)), _) => s2.useLines.replantChain pid part own (n - 1) (va + bs.length) last
  | (some (.error c), s1) => (s1.useLines.logRefusal va c tag).replantChain pid part own (n - 1) (va + bs.length) last

/-- Every grid of a process discarded: no completion signal, no barrier poisoned (R351, step 1). What a grid keeps beside its image
stays for the one that is replanted. -/
def State.discardGrids (s : State) (pid : Nat) : State :=
  let mine := s.grids.filter (fun g => g.proc == pid)
  let old := s.kept.filter (fun k => !(mine.any (fun g => g.tag == k.tag)))
  let gone := mine.map (·.tag) ++ (old.filter (fun k => k.proc == pid)).map (·.tag)
  let s1 := mine.foldl (fun (s : State) g => (s.dropAgents g.tag).removeGrid g.tag) s
  { s1 with
    kept := old ++ mine.map (fun g => g.keep 4 false false),
    areas := s1.areas.filter (fun a => a.slot.isSome || !(gone.contains a.tag)),
    images := s1.images.filter (fun i => !(gone.contains i.1)), imageTags := s1.imageTags.filter (fun t => !(gone.contains t)) }
/-- Queues forget the grids that no longer exist. -/
def State.forgetGone (s : State) (pid : Nat) : State :=
  { s with queues := s.queues.map (fun q => if q.proc == pid then { q with undone := q.undone.filter (fun t => s.grids.any (fun g => g.tag == t)) } else q) }

/-- Steps 1 and 2 on this member (R351): its grids discarded, its PARTNER tensors asked for, a line at a time, from the partner's shadow
of P; then step 3. -/
def State.restore (s : State) (j : Job) (p part : Nat) : State :=
  let lines := (s.partnerBlocks j).flatMap (fun va => (List.range 4).map (fun i =>
    fwOp j.proc (va + 64 * i) (.pull (s.shadowAt j (p % 2) va + 64 * i))))
  (s.discardGrids j.proc).fwAdd (lines ++ [fwOp j.proc 0 (.job (.restored j.id p part))])
/-- Step 3 (R351): the images of P replanted, each in its grid's partition where the job's process had one. -/
def State.restored (s : State) (id p part : Nat) : State :=
  match s.job? id with
  | none => s
  | some j => (({ s with fw := fwOp j.proc 0 (.job (.replanted id)) :: s.fw }).replantChain j.proc part true (j.slot / 256) (j.place p).1
      ((j.place p).1 + (j.place p).2))
/-- The images of P have been replanted: nothing is kept beside, or waited for, of a grid that none of them holds. -/
def State.replanted (s : State) (id : Nat) : State :=
  match s.job? id with
  | none => s
  | some j =>
    let s1 := s.forgetGone j.proc
    { s1 with kept := s1.kept.filter (fun k => k.proc ≠ j.proc || s1.imageTags.contains k.tag) }

/-- The fabric numbers lost with a set: under OVERRIDE a pair of equal domains is lost together (R348). -/
def State.lostWith (s : State) (j : Job) (l : List Nat) : List Nat :=
  if !j.override then l else
  forN j.members.length (fun _ l => l ++ (j.members.filter (fun m => !(l.contains m.dev) && j.members.any (fun k =>
    l.contains k.dev && (m.partner == k.dev || k.partner == m.dev) && s.pdomOf m.dev == s.pdomOf k.dev))).map (·.dev)) l
/-- The sources that hold a tensor's bytes, best first (R351, R352). -/
def Job.sources (j : Job) (t : Tensor) : List Nat :=
  (if t.replica then [t.repl] else [j.partnerOf t.home]) ++ (j.tensors.filter (fun u => u.replica && u.vbase == t.vbase)).map (·.repl)
def Job.source (j : Job) (lost : List Nat) (t : Tensor) : Option Nat := (j.sources t).find? (fun d => !(lost.contains d))
/-- Whether the spares replace lost devices, or the survivors absorb them (R342, R351). -/
def State.spares (s : State) : Bool := s.cfg 1152 1152 == 1
/-- The lost numbers with the spares that take them over: those of before, where the spare is not lost itself; then each lost member that is no
spare takes the first spare that is neither lost nor taken, as far as there are spares (R351). -/
def Job.carry (j : Job) (spares : Bool) (lost : List Nat) : List (Nat × Nat) :=
  if !spares then [] else
  let old := j.carriers.filter (fun c => !(lost.contains c.2))
  let work := lost.filter (fun d => j.members.any (fun m => m.dev == d && !m.spare))
  work.foldl (fun (cs : List (Nat × Nat)) d =>
    if cs.any (fun c => c.1 == d) then cs else
    match j.members.find? (fun m => m.spare && !(lost.contains m.dev) && !(cs.any (fun c => c.2 == m.dev))) with
    | some m => cs ++ [(d, m.dev)]
    | none => cs) old
/-- The survivor that absorbs what a lost device held: its partner, or, where that is lost too, the first member left (log 36). -/
def Job.absorber (j : Job) (carriers : List (Nat × Nat)) (lost : List Nat) (d : Nat) : Option Nat :=
  let up (x : Nat) : Bool := !(lost.contains x) || carriers.any (fun c => c.1 == x)
  if up (j.partnerOf d) then some (j.partnerOf d) else (j.members.find? (fun m => !m.spare && up m.dev)).map (·.dev)
/-- Whether this device fills what a lost device held: as the spare that takes its number over, or as the survivor that absorbs it where no
spare does (R351, log 36). -/
def State.takes (s : State) (j : Job) (carriers : List (Nat × Nat)) (lost : List Nat) (d : Nat) : Bool :=
  match carriers.find? (fun c => c.1 == d) with
  | some c => c.2 == s.cfg 23 16
  | none => j.absorber carriers lost d == some s.fabric
/-- Pages whose leaf names a lost device outside every tensor: V = 0, with the invalidation of R261, and listed (R351). -/
def State.dropLost (s : State) (j : Job) (lost : List Nat) : State :=
  let ls := (leavesGo s.dram 5 0 (s.rootOf j.proc) 0).filter (fun x =>
    let e := x.2.2
    bits e 57 56 == 1 && lost.contains (sysDev (bits e 55 8 * 256)) &&
    !(j.tensors.any (fun t => decide (t.vbase ≤ sext 57 64 x.1) && decide (sext 57 64 x.1 < t.vbase + t.len))))
  let s1 := (ls.foldl (fun (s : State) x => s.mapPages j.proc x.1 x.2.1 0 0 1) s).remapped j.proc
  s1.updJob j.id (fun j => { j with lostRanges := j.lostRanges ++ ls.map (fun x => (sext 57 64 x.1, pageBytes x.2.1)) })

/-- Fills that begin for newly lost devices, on this member or another: whether they are this device's, the tensor, and its source. -/
def State.newFills (s : State) (j : Job) (carriers : List (Nat × Nat)) (lost fresh : List Nat) : List (Bool × Tensor × Option Nat) :=
  (j.tensors.filter (fun t => fresh.contains t.home &&
    !(t.replica && j.tensors.any (fun u => !u.replica && u.vbase == t.vbase && u.home == t.home)))).map (fun t =>
      (s.takes j carriers lost t.home, t, j.source (lost ++ s.mgmt.lost) t))
/-- Requests answered, each with one update. -/
def State.answerReqs (s : State) (l : List (Nat × Nat)) (op : SigOp) : State := l.foldl (fun (s : State) r => s.signalOp r.2 r.1 op) s

/-- The bytes of a rollback report (R353): the header and the entries of this member's log and of the others', which are free (log 97). -/
def Job.rollback (j : Job) (own : Nat) : List Byte :=
  let peers := ((j.members.filter (fun m => m.dev ≠ own)).map (fun m => Config.peerLog j.id m.dev))
  let ranges := j.extRanges ++ peers.flatMap (fun p => (p.2.take 4096).map (fun r => (r.1 / 4096 * 4096 % 2 ^ 56, r.2 / 4096 * 4096 % 2 ^ 40)))
  leBytes 16 (put 0 (min (j.extCount + (peers.map (·.1)).sum) (2 ^ 32 - 1)) + put 32 ranges.length) ++
  ranges.flatMap (fun r => leBytes 16 (put 0 (r.1 % 2 ^ 56) + put 56 (r.2 % 2 ^ 40)))

/-- The fills are complete: the images of a lost device whose slot a filled tensor holds are replanted, in the partition named for absorbed
grids; then the recovery ends (R351). -/
def State.endRecovery (s : State) (id : Nat) : State :=
  match s.job? id with
  | none => s
  | some j =>
    if !j.recovering || !j.fills.isEmpty then s else
    let (va, len) := j.place (j.complete.getD 0)
    let s1 : State := { s with fw := fwOp j.proc 0 (.job (.answered id)) :: s.fw }
    match j.filled.find? (fun t => decide (t.vbase ≤ va) && decide (va < t.vbase + t.len)) with
    | none => s1.fwRun
    | some t => s1.replantChain j.proc j.absorb false (j.slot / 256) va (min (va + len) (t.vbase + t.len))
/-- The end of a recovery: a number that a spare has taken over is lost no more, and the requests are answered (R351, R353); a loss that came
meanwhile goes on first (R352). -/
def State.answerRecovery (s : State) (id : Nat) : State :=
  match s.job? id with
  | none => s
  | some j =>
    if !j.recovering || !j.fills.isEmpty then s else
    (s.updJob id (fun j => { j with
      filled := [], recovering := false, recReqs := [], carriers := [],
      lost := j.lost.filter (fun d => !(j.carriers.any (fun c => c.1 == d))),
      members := j.members.filter (fun m => !(m.spare && j.carriers.any (fun c => c.2 == m.dev))) })).answerReqs j.recReqs .done

/-- A RECOVER of a job without a point to return to, or of none (log 29). -/
def State.noRecovery (s : State) (id : Nat) (reqs : List (Nat × Nat)) : State :=
  (s.updJob id (fun j => { j with recReqs := [] })).answerReqs reqs (.put (faultWord (0x80 + openReason 4) 0 false))
/-- Numbers lost, and with a number that a spare carries that spare (R351, R352). -/
def Job.lostAs (j : Job) (lost : List Nat) : List Nat := lost ++ (j.carriers.filter (fun c => lost.contains c.1)).map (·.2)
/-- A recovery to the last complete point, which a request asks for or the device itself (R351 to R353): with no lost device it is a
rollback. One in progress is enlarged; what a lost spare carried goes to another. -/
def State.recover (s : State) (req : Option (Nat × Nat)) (id : Nat) (lost : List Nat) (part : Nat) : State :=
  match s.job? id with
  | none => s.noRecovery id req.toList
  | some j =>
    match j.complete with
    | none => s.noRecovery id (j.recReqs ++ req.toList)
    | some p =>
      let more := (j.lostAs lost).filter (fun d => !(j.lost.contains d))
      let all := s.lostWith j (j.lost ++ more)
      let cs := j.carry s.spares all
      let orphans := (j.carriers.filter (fun c => !(cs.contains c))).map (·.1)
      let fresh := all.filter (fun d => !(j.lost.contains d)) ++ orphans
      let s0 := lost.foldl State.markLost s
      let s1 := s0.updJob id (fun j => { j with
        lost := all, carriers := cs, absorb := if req.isSome then part else j.absorb, taking := none, pending := [], used := 0, finished := false,
        recovering := true, recReqs := j.recReqs ++ req.toList,
        report := if j.recovering then j.report else if lost.isEmpty then j.rollback s.fabric else [] })
      let s2 := if j.recovering then s1 else s1.restore j p part
      let s3 := s2.dropLost j fresh
      let carried := fresh.filter (fun d => cs.any (fun c => c.1 == d))
      let s4 : State := match cs.find? (fun c => c.2 == s.cfg 23 16) with
        | some c => { s3 with mgmt := { s3.mgmt with asDev := some c.1 } }
        | none => s3
      let s5 : State := { s4 with
          reach := carried.filter (fun d => d ≠ s4.fabric) ++ s4.reach,
          mgmt := { s4.mgmt with lost := s4.mgmt.lost.filter (fun d => !(carried.contains d)) } }
      let out := all ++ s0.mgmt.lost
      let stay := j.fills.filter (fun f => !(orphans.contains f.tensor.home))
      let kept := stay.map (fun f => ({ f with src := if out.contains f.src then (j.source out f.tensor).getD f.src else f.src } : Fill))
      let gone := stay.any (fun f => out.contains f.src && (j.source out f.tensor).isNone)
      let news := ({ s4 with mgmt := { s4.mgmt with lost := out } } : State).newFills j cs all fresh
      if gone || news.any (fun x => x.2.2.isNone) then
        (s5.updJob id (fun j => { j with
          fills := [], filled := [], lost := [], carriers := [], recovering := false, complete := if p = 0 then none else some (p - 1) })).fwAdd
          [fwOp j.proc 0 (.job (.recover id none all part))]
      else
        let add := news.mapIdx (fun i x => ({ id := s5.nextId + i, mine := x.1, tensor := x.2.1, src := x.2.2.getD 0, done := 0 } : Fill))
        let s6 : State := { (s5.updJob id (fun j => { j with fills := kept ++ add })) with nextId := s5.nextId + add.length }
        if (kept ++ add).isEmpty then s6.fwAdd [fwOp j.proc 0 (.job (.recovered id))] else s6
/-- RECOVER (R351 to R353); routes are redrawn only once every transaction has been answered (R337). -/
def recoverAt (s : State) (r : Req) (id : Nat) (lost : List Nat) (part : Nat) : State :=
  if (s.job? id).any (fun j => j.complete.isSome) && !s.txns.isEmpty then s.later else s.recover (some (r.sig, r.proc)) id lost part

/-- What follows of a job, or of a power-limit stop, once the firmware has come to it. -/
def State.follow (s : State) : JobDo → State
  | .shadow id k => s.pointShadow id k
  | .replant pid va last part own n bs => s.replantOne pid va last part own n bs
  | .replanted id => s.replanted id
  | .answered id => s.answerRecovery id
  | .pointDone id k => s.pointDone id k
  | .restored id p part => s.restored id p part
  | .recovered id => s.endRecovery id
  | .resumeAll => s.resumeAll
  | .recover id req lost part =>
    if s.txns.isEmpty then s.recover req id lost part else s.fwAdd [fwOp 0 0 (.job (.recover id req lost part))]
/-- The operation in hand is over. -/
def State.handed (s : State) : State := match s.fw with
  | x :: _ => if x.what = .inHand then s.fwEnd else s
  | [] => s
/-- What follows is done, and the firmware goes on; a replant that waits for what its spill region holds is taken up when it has come. -/
def jobDo (s : State) (w : JobDo) : State :=
  let t := s.handed.follow w
  match t.fw with
  | { what := .images _ _ _ _, .. } :: _ => t
  | _ => t.fwRun

/-- RECOVER: the job returns to its last complete point (R351). -/
def execRecover (r : Req) (job : Nat) (lost : List Nat) (part : Nat) (s : State) : Host.Outcome State Fault Refusal :=
  .next (recoverAt s r job lost part)

/-- The system address of a fill's next line: in the partner's shadow of P, or in the replica (R351, R352, log 92). -/
def Job.fillFrom (j : Job) (f : Fill) : Nat :=
  let va := f.tensor.vbase + f.done
  let at_ := if !f.tensor.replica && f.src == j.partnerOf f.tensor.home then Config.shadowAt j.id (j.complete.getD 0 % 2) (va / 256 * 256)
    else Config.replicaAt j.id (va / 256 * 256)
  put 46 f.src + at_ % 2 ^ 30 * 256 + va % 256
/-- A fill goes on: its next line is read here, or asked for (R351). -/
def State.fillOn (s : State) (job id : Nat) : State :=
  match (s.job? job).bind (fun j => (j.fills.find? (fun f => f.id == id)).map (fun f => (j, f))) with
  | none => s
  | some (j, f) =>
    if !f.mine || decide (f.tensor.len ≤ f.done) || !s.fw.isEmpty || s.noTid || s.txns.any (fun t => t.who == .fill job id) then s else
    let a := j.fillFrom f
    if sysDev a = s.fabric then (s.touchL2 (sysOffset a) 0 false 0).fillLine job id (s.readNAt (.dram (sysOffset a)) 64)
    else (s.send (.fill job id) { type := 1, scope := 3, ord := 1, addr := a }).2

/-- FILL_COMPLETE (R351, R352, R354): the fill's bytes, all `len` of its tensor, stand in the new home, here or, as that member tells, on
another; the last one lets the grids issue. -/
def fillAt (s : State) (id fill len : Nat) : State :=
  match s.job? id with
  | none => s
  | some j =>
    match j.fills.find? (fun f => f.id == fill) with
    | none => s
    | some f =>
      if (f.mine && (decide (f.done < f.tensor.len) || !s.fw.isEmpty)) || decide (len ≠ f.tensor.len) then s else
      let rest := j.fills.filter (fun g => g.id ≠ fill)
      let s1 := s.updJob id (fun j => { j with fills := rest, filled := if f.mine then f.tensor :: j.filled else j.filled })
      if rest.isEmpty then s1.fwAdd [fwOp j.proc 0 (.job (.recovered id))] else s1

/-- FILL_COMPLETE: a recovery fill is complete (R351). -/
def execFillComplete (job fill len : Nat) (s : State) : Host.Outcome State Fault Refusal := .next (fillAt s job fill len)

end Sys2Proof.Machine
end

