-- ==== Sys2Proof/Machine/Debug.lean ====
section
/-! DEFINITION. Lane-cycle records (R355), the wait-for graph (R356) and the debugger (R357). -/

namespace Sys2Proof.Machine

/-! ### Lane-cycle records (R355) -/

/-- The header of a record. -/
def lcHead (tag : Nat) (x : LcRec) (tstop : Nat) : List Byte :=
  leBytes 64 (put 0 tag + put 24 (b2n x.run) + put 64 x.tstart + put 128 tstop + put 192 (x.issues % 2 ^ 64))
def lcBytes (tag : Nat) (x : LcRec) (tstop : Nat) : List Byte := lcHead tag x tstop ++ x.counts.flatMap (fun c => leBytes 8 (c % 2 ^ 64))

/-- LCREC start. -/
def lcStartAt (s : State) (r : Req) (tag table rec : Nat) : State :=
  match s.grid? tag with
  | none => s.refuse r (openReason 5)
  | some _ =>
    s.withRead r r.proc table 256 (fun bs s1 =>
      let x : LcRec := { recAddr := rec, bins := (List.range 16).map (fun b => (fld bs (16 * b) 8, fld bs (16 * b + 8) 8)), counts := List.replicate 80 0,
                         issues := 0, tstart := s1.time, run := true }
      ((s1.updGrid tag (fun g => { g with lcrec := some x })).putVa r.proc rec (lcBytes tag x 0)).served r)

/-- LCREC_START: the counters are cleared and counting begins (R355). -/
def execLcrecStart (r : Req) (tag table rec : Nat) (s : State) : Host.Outcome State Fault Refusal := .next (lcStartAt s r tag table rec)

/-- The first bin whose range holds an address. -/
def LcRec.bin? (x : LcRec) (pc : Nat) : Option Nat :=
  (List.range 16).find? (fun b => match x.bins[b]? with
    | some (lo, hi) => decide (lo ≤ pc) && decide (pc < hi)
    | none => false)
def LcRec.bump (x : LcRec) (c pc n : Nat) : LcRec := match x.bin? pc with
  | none => x
  | some b => { x with counts := updAt (· + n) (5 * b + c) x.counts }
/-- One issue of a group, as it stood before: its sets with their guards, the primary set's first (R355). ISSUES counts it when it was
counted in some bin. -/
def LcRec.count (x : LcRec) (g : Group) (sets : List (LaneMask × DWord × LaneMask)) : LcRec :=
  if !x.run then x else
  let pc0 := match sets with
    | m :: _ => m.2.1.toNat
    | [] => 0
  let one (x : LcRec) (l : Nat) : LcRec :=
    match sets.find? (fun m => m.1.getLsbD l) with
    | some m => x.bump (if m.2.2.getLsbD l then 0 else 1) m.2.1.toNat 1
    | none => x.bump (if ((g.lanes.getD l default).st) = .exited then 3 else 2) pc0 1
  let y := (List.range g.lanes.length).foldl one x
  { y with issues := if y.counts = x.counts then y.issues else y.issues + 1 }

/-- Whether some grid, on the device or in an image, is being counted. -/
def State.counting (s : State) : Bool := s.grids.any (fun g => g.lcrec.any (·.run)) || s.kept.any (fun k => k.lcrec.any (·.run))
/-- The lane-cycle record of a grid, on the device or kept beside its image. -/
def State.lcrec? (s : State) (tag : Nat) : Option LcRec := match s.grid? tag with
  | some g => g.lcrec
  | none => (s.kept.find? (fun k => k.tag == tag)).bind (·.lcrec)
def State.updLcrec (s : State) (tag : Nat) (f : LcRec → LcRec) : State :=
  let s1 := s.updGrid tag (fun g => { g with lcrec := g.lcrec.map f })
  { s1 with kept := s1.kept.map (fun k => if k.tag == tag then { k with lcrec := k.lcrec.map f } else k) }
/-- The grid of the first group of a slot. -/
def Slot.tag (x : Slot) : Nat := (x.took.headD (0, 0, 0)).1
/-- A slot is over: the lane positions that no group has filled are idle, in the bin of its first group (R355). -/
def State.closeSlot (s : State) (x : Slot) : State :=
  let s1 : State := { s with slots := s.slots.filter (fun y => y ≠ x) }
  if x.left = 0 then s1 else s1.updLcrec x.tag (fun r => if r.run then r.bump 4 x.pc x.left else r)
/-- Lane positions of an issue slot (R355); PRESUMED, log 37. -/
def slotLanes : Nat := 64
/-- A group takes its lane positions in its scheduler's slot: in the open one, where it is not among the groups chosen and still fits, if the
device packs it there; else in a new one, and the open one is over (R23, R355, log 37). -/
def State.fillSlot (s : State) (core : Nat) (g : Group) (pc : Nat) : State :=
  let w := g.lanes.length
  let me := (g.tag, g.team, g.num)
  let new (s : State) : State := { s with slots := { core := core, sched := g.sched, took := [me], pc := pc, left := slotLanes - w } :: s.slots }
  match s.slots.find? (fun x => x.core == core && x.sched == g.sched) with
  | none => new s
  | some x =>
    let (n, s1) := s.pick
    if decide (w ≤ x.left) && !(x.took.contains me) && n % 2 == 0 then
      { s1 with slots := s1.slots.map (fun y => if y = x then { y with took := y.took ++ [me], left := y.left - w } else y) }
    else new (s1.closeSlot x)
/-- LCREC stop, of a grid or of one that an image holds; its slots are over. -/
def lcStopAt (s : State) (r : Req) (tag : Nat) : State :=
  let s1 := (s.slots.filter (fun x => x.tag == tag)).foldl State.closeSlot s
  match s1.lcrec? tag with
  | none => s.refuse r (openReason 5)
  | some x =>
    let y := { x with run := false }
    ((s1.updLcrec tag (fun _ => y)).putVa r.proc x.recAddr (lcBytes tag y s.time)).served r

/-- LCREC_STOP: the counters and TSTOP are written (R355). -/
def execLcrecStop (r : Req) (tag : Nat) (s : State) : Host.Outcome State Fault Refusal := .next (lcStopAt s r tag)

/-! ### The wait-for graph (R356) -/

/-- A node: kind (0 group, 1 team or cluster barrier, 2 transaction barrier, 3 copy, 4 signal, 5 queue, 6 grid, 7 the
host), grid tag, team, group, address; the place of a transaction barrier, and the sequence number of a copy. -/
structure Node where
  kind : Nat
  tag : Nat := 0
  team : Nat := 0
  grp : Nat := 0
  addr : Nat := 0
  loc : Option Loc := none
  seq : Nat := 0
  deriving DecidableEq, Repr, Inhabited
/-- The teams whose scratchpad holds a place; of a global place those that wait there. -/
def State.ownersOf (s : State) (l : Loc) : List Team :=
  match l with
  | .scr c o => s.teams.filter (fun t => t.resident && t.core == c && decide (t.base ≤ o) && (match s.grid? t.tag with
      | some g => decide (o < t.base + g.kcb.scratchPad)
      | none => false))
  | _ => s.teams.filter (fun t => (s.teamGroups t.tag t.idx).any (fun g => g.lanes.any (fun x => match x.st with
      | .atXbar w => w.loc == l
      | _ => false)))
/-- The address that names a barrier: in a scratchpad its window form (R193), else the one given. -/
def State.barAddr (s : State) (l : Loc) (a : Nat) : Nat :=
  match l with
  | .scr _ o => (match s.ownersOf l with
      | t :: _ => ((s.grid? t.tag).map (·.rank t.idx)).getD 0 * 2 ^ 32 + (o - t.base)
      | [] => a)
  | _ => a
/-- A transaction barrier, with the tag of the grid that initialised it, where its object can be read. -/
def State.xbNode (s : State) (tag : Nat) (l : Loc) (a : Nat) : Node :=
  { kind := 2, tag := if l.isSys then tag else xbTag (s.readNAt l 16), addr := s.barAddr l a, loc := some l }
/-- A group, with the barrier that it waits at. -/
def State.groupNode (s : State) (g : Group) : Node :=
  { kind := 0, tag := g.tag, team := g.team, grp := g.num,
    addr := (g.lanes.findSome? (fun l => match l.st with
      | .atXbar w => some (s.barAddr w.loc w.addr)
      | _ => none)).getD 0 }
/-- A copy, with the barrier that it signals. -/
def copyNode (t : Team) (c : Copy) : Node := { kind := 3, tag := t.tag, team := t.idx, addr := c.bar.getD 0, seq := c.seq }
/-- A team barrier, by its number, or the cluster barrier of a team. -/
def barNode (tag team : Nat) (n : Option Nat) : Node := { kind := 1, tag := tag, team := team, addr := n.getD 16 }
/-- Whether a group has a lane that has not exited and has not arrived at a barrier, whether it parked there or went on (R219, R356). -/
def Group.lateAt (x : Group) (st : LaneSt) (b : Option Bar) : Bool :=
  (List.range x.lanes.length).any (fun i => match x.lanes[i]? with
    | some l => l.st ≠ .exited && l.st ≠ st && !(b.any (fun b => b.who.contains (x.team, x.num, i)))
    | none => false)
/-- Lanes of a collective instance's set that have not arrived leave the group to itself; a parked CANON waits for the group. -/
def State.groupEdges (s : State) (g : Group) : List Node :=
  let peers := s.teamGroups g.tag g.team
  let late (n : Nat) (x : Group) : Bool := x.lateAt (.atTeamBar n) ((s.team? g.tag g.team).bind (fun t => t.tb[n]?))
  (g.lanes.flatMap (fun l => match l.st with
    | .atCollective i => (g.insts.filter (fun x => x.id == i)).flatMap (fun x => if x.full g then [] else [s.groupNode g])
    | .atSync => [s.groupNode g]
    | .atTeamBar n => (peers.filter (late n)).map s.groupNode
    | .atClusterBar => (match s.grid? g.tag with
        | some gr => ((s.groups.filter (fun x => x.tag == g.tag && gr.clusterOf x.team == gr.clusterOf g.team)).filter (fun x =>
            x.lateAt .atClusterBar (some (Sparse.get { n := 0, e := none } gr.cbars (gr.clusterOf g.team))))).map s.groupNode
        | none => [])
    | .atXbar w => [s.xbNode g.tag w.loc w.addr]
    | _ => [])).eraseDups
/-- The teams within the SCOPE of a barrier: the owner's team or cluster, or every team of the device. -/
def State.scopeTeams (s : State) (l : Loc) : List Team :=
  let sc := if l.isSys then 3 else xbScope (s.readNAt l 16)
  if 2 ≤ sc then s.teams else
  let own := s.ownersOf l
  s.teams.filter (fun t => own.any (fun o => o.tag == t.tag && (if sc = 0 then o.idx == t.idx else
    (s.grid? t.tag).any (fun g => g.clusterOf o.idx == g.clusterOf t.idx))))
/-- Whether a copy that is not complete names the barrier at a place: for its team, for a member that it delivers to, or globally. -/
def State.copyNames (s : State) (t : Team) (c : Copy) (l : Loc) : Bool :=
  !c.hint && (c.sigs ≠ 0 || c.made ≠ deliveries c) && (match c.bar, s.grid? t.tag with
    | some b, some gr =>
      if c.gb then (match (s.translate gr.proc b .rw).1 with
        | .at_ x => x == l
        | _ => false)
      else if c.mc then c.ranks.any (fun r => (s.rankTeam? gr t.idx r).any (fun u => u.place b == l))
      else t.place b == l
    | _, _ => false)
def State.nodeEdges (s : State) (n : Node) : List Node :=
  match n.kind with
  | 0 => (match s.group? n.tag n.team n.grp with
      | some g => s.groupEdges g
      | none => [])
  | 2 => (match n.loc with
      | some l =>
        s.teams.flatMap (fun t => (t.copies.filter (fun c => s.copyNames t c l)).map (copyNode t)) ++
        (s.scopeTeams l).flatMap (fun t => ((s.teamGroups t.tag t.idx).filter (fun g => g.lanes.any (fun l => l.st ≠ .exited))).map s.groupNode)
      | none => [])
  | 3 => (match s.team? n.tag n.team, s.grid? n.tag with
      | some t, some gr => (t.copies.filter (fun c => !c.hint && c.seq == n.seq)).flatMap (fun c =>
          ((s.group? n.tag n.team (c.lane / gr.kcb.width)).map s.groupNode).toList)
      | _, _ => [])
  | 5 => (s.queues.filter (fun q => q.desc == n.addr)).flatMap (fun q => match q.held with
      | some (.waitsig sig _ _ _) =>
        (match s.grids.filter (fun g => g.proc == q.proc && g.sig == sig) with
          | [] => [{ kind := 7 }]
          | gs => gs.map (fun g => ({ kind := 6, tag := g.tag } : Node)))
      | _ => [])
  | 6 => (s.groups.filter (fun g => g.tag == n.tag)).map s.groupNode
  | _ => []
/-- The nodes: groups, team and cluster barriers with arrivals pending, transaction barriers waited at, copies, signals waited for and the
queues that wait. -/
def State.waitNodes (s : State) : List Node :=
  s.groups.map s.groupNode ++
  s.teams.flatMap (fun t => (List.range 16).filterMap (fun n => if (t.tb[n]?).any (fun b => b.n ≠ 0) then some (barNode t.tag t.idx (some n)) else none)) ++
  s.grids.flatMap (fun g => g.cbars.filterMap (fun x => if x.2.n ≠ 0 then some (barNode g.tag (x.1 * g.kcb.cluster) none) else none)) ++
  (s.groups.flatMap (fun g => (s.groupEdges g).filter (fun n => n.kind == 2))).eraseDups ++
  s.teams.flatMap (fun t => (t.copies.filter (fun c => !c.hint)).map (copyNode t)) ++
  s.queues.flatMap (fun q => match q.held with
    | some (.waitsig sig _ _ _) => [{ kind := 4, addr := sig }, { kind := 5, addr := q.desc }]
    | _ => [])
/-- Nodes reached from a node, `fuel` rounds. -/
def reachNodes (edges : Node → List Node) : Nat → List Node → List Node
  | 0, l => l
  | n + 1, l => let m := (l ++ l.flatMap edges).eraseDups; if m.length = l.length then l else reachNodes edges n m
/-- The findings of a sample: nodes of cycles whose groups did not issue; waiting groups with no path to one that did. -/
def State.findings (s : State) (issued : Group → Bool) : List Node :=
  let act (n : Node) : Bool := n.kind == 0 && (match s.group? n.tag n.team n.grp with
    | some g => issued g
    | none => false)
  let ns := s.waitNodes
  let quietEdges (n : Node) : List Node := (s.nodeEdges n).filter (fun m => !(act m))
  let bound := ns.length + s.grids.length + 2
  let cyc := ns.filter (fun n => !(act n) && (reachNodes quietEdges bound (quietEdges n)).contains n)
  let stuck := ns.filter (fun n => n.kind == 0 && !(act n) && !(s.nodeEdges n).isEmpty && !((reachNodes s.nodeEdges bound (s.nodeEdges n)).any act))
  cyc ++ stuck
def Node.entry (n : Node) : List Byte :=
  leBytes 32 (put 0 (Config.nodeKind n.kind).toNat + put 8 (n.tag % 2 ^ 24) + put 32 (n.team % 2 ^ 48) + put 80 (n.grp % 128) + put 88 (n.addr % 2 ^ 56))

/-- WAITGRAPH (R356): sampling begins. -/
def waitgraphAt (s : State) (r : Req) (addr cap period : Nat) : State :=
  ({ s with waitg := some { addr := addr, proc := r.proc, cap := cap, period := period, last := s.time,
                            samples := s.groups.map (fun (g : Group) => ((g.tag, g.team, g.num), g.issues)) } }).served r

/-- WAITGRAPH: wait-for sampling begins (R356). -/
def execWaitgraph (r : Req) (addr cap period : Nat) (s : State) : Host.Outcome State Fault Refusal := .next (waitgraphAt s r addr cap period)

/-- WAITGRAPH_SAMPLE (R356): the counters are sampled, and the findings written, as many as the capacity holds. -/
def waitSampleAt (s : State) : State :=
  match s.waitg with
  | none => s
  | some w =>
    if s.time < w.last + w.period then s else
    let issued (g : Group) : Bool := match w.samples.find? (fun x => x.1 == (g.tag, g.team, g.num)) with
      | some x => x.2 ≠ g.issues
      | none => true
    let es := (s.findings issued).flatMap Node.entry
    let s1 : State := { s with waitg := some { w with last := s.time, samples := s.groups.map (fun (g : Group) => ((g.tag, g.team, g.num), g.issues)) } }
    s1.putVa w.proc w.addr (es.take (w.cap / 32 * 32))

/-- WAITGRAPH_SAMPLE: a sample is taken and reported (R356). -/
def execWaitgraphSample (s : State) : Host.Outcome State Fault Refusal := .next (waitSampleAt s)

/-! ### The debugger (R357) -/

/-- Whether a STEP site of a debugger names a group. -/
def Dbg.steps (d : Dbg) (g : Group) : Bool := d.stepsAt g.team g.num
/-- Lanes of stepped groups that stand at a canonical point: their next one lies beyond it (log 32). -/
def State.stepPasses (s : State) (g : Grid) (d : Dbg) : List (Nat × Nat × Nat) :=
  (s.groups.filter (fun x => x.tag == g.tag && d.steps x)).flatMap (fun x => (List.range x.lanes.length).filterMap (fun i =>
    let l := x.lanes.getD i default
    if s.standing (s.coreOf x.tag x.team) g l then some (x.team, x.num, i) else none))
/-- A debugger set on a grid. -/
def State.setDbg (s : State) (g : Grid) (d : Dbg) : State :=
  let s1 := s.updGrid g.tag (fun x => { x with dbg := some { d with passes := d.passes ++ s.stepPasses g d } })
  { s1 with groups := s1.groups.map (fun x => if x.tag == g.tag then { x with stepping := d.steps x } else x) }

/-- DEBUG attach. -/
def attachAt (s : State) (r : Req) (tag : Nat) (sites : List Site) : State :=
  let d : Dbg := { sites := sites, arrivals := [], passes := [] }
  if 8 < sites.length then s.refuse r 0x0B
  else match s.grid? tag with
    | some g => (s.setDbg g d).served r
    | none =>
      if s.kept.any (fun k => k.tag == tag) then
        (({ s with
          kept := s.kept.map (fun (k : Kept) => if k.tag == tag then { k with dbg := some d } else k) } : State)).served r
      else s.refuse r (openReason 6)

/-- DEBUG_ATTACH: a debugger names its stop sites (R357). -/
def execDebugAttach (r : Req) (tag : Nat) (sites : List Site) (s : State) : Host.Outcome State Fault Refusal := .next (attachAt s r tag sites)

/-- DEBUG detach: teams that a BRK stopped go on, unless the grid has faulted (R231, R332). -/
def detachAt (s : State) (r : Req) (tag : Nat) : State :=
  if s.grids.any (fun g => g.tag == tag) || s.kept.any (fun k => k.tag == tag) then
    let s1 := s.updGrid tag (fun g => { g with dbg := none })
    (({ s1 with
      teams := s1.teams.map (fun t => if t.tag == tag && s.grids.any (fun g => g.tag == tag && g.faults.isEmpty) then { t with stopped := false } else t),
      groups := s1.groups.map (fun g => if g.tag == tag then { g with stepping := false } else g),
      kept := s1.kept.map (fun k => if k.tag == tag then { k with dbg := none } else k) } : State)).served r
  else s.refuse r (openReason 6)

/-- DEBUG_DETACH: the grid is released (R357). -/
def execDebugDetach (r : Req) (tag : Nat) (s : State) : Host.Outcome State Fault Refusal := .next (detachAt s r tag)

/-- Lanes of a replanted grid that stand at a BREAK site: they pass it once (log 32). -/
def State.passesOf (s : State) (g : Grid) (d : Dbg) : List (Nat × Nat × Nat) :=
  (s.groups.filter (fun x => x.tag == g.tag)).flatMap (fun x => (List.range x.lanes.length).filterMap (fun i =>
    let l := x.lanes.getD i default
    match s.canonAt (s.coreOf x.tag x.team) g.proc l.pc.toNat with
    | some o => if l.st ≠ .exited && (d.site? o).isSome then some (x.team, x.num, i) else none
    | none => none))
/-- The debugger that a replanted grid keeps, its lanes past the sites at which they stand. -/
def State.redebug (s : State) (tag : Nat) : State :=
  match s.grid? tag with
  | none => s
  | some g => match g.dbg with
    | none => s
    | some d => s.setDbg g { d with passes := s.passesOf g d }
/-- DEBUG resume: the image held for the debugger is replanted, once it has been written. Of a live grid of which a BRK has stopped a team, the
request asks for an image, which the debugger then holds (log 101). -/
def debugResumeAt (s : State) (r : Req) (tag : Nat) : State :=
  match s.images.find? (fun i => i.1 == tag), s.kept.find? (fun k => k.tag == tag && k.cause == 5), s.grid? tag with
  | some i, some k, _ =>
    if !s.fw.isEmpty then s.later else
    (match s.imageBytes k.proc i with
      | (none, s1) => s1.refuse r 0x09
      | (some bs, s1) => match s1.replantWhole bs k.part with
        | (none, s2) => s2.later
        | (some (.error c), s2) => s2.refuse r c
        | (some (.ok (_, s2)), _) => (({ s2 with images := s2.images.filter (fun j => j.1 ≠ tag) } : State).redebug tag).served r)
  | _, _, some g =>
    if g.dbg.isSome && g.faults.isEmpty && !g.killed && s.teams.any (fun t => t.tag == tag && t.stopped) then
      s.beginSerial tag { debugSerial false s.time with reqs := [(r.sig, r.proc)] }
    else s.refuse r (openReason 6)
  | _, _, none => s.refuse r (openReason 6)

/-- DEBUG_RESUME: a held image is replanted (R357). -/
def execDebugResume (r : Req) (tag : Nat) (s : State) : Host.Outcome State Fault Refusal := .next (debugResumeAt s r tag)

end Sys2Proof.Machine
end

