-- ==== Sys2Proof/Machine/Ring.lean ====
section
/-! DEFINITION. The service ring (R297, R341, R349): the next request read from host memory or the device's, decoded by its TYPE, refused
or executed. The places of the operands are log 93's. -/

namespace Sys2Proof.Machine

/-- The ring's descriptor, at its local physical address (log 93). -/
def State.ringDesc (s : State) : Desc := descOf (s.dram.readN Config.serviceRing 64)
/-- RD advanced past a request that was answered. -/
def State.ringAdvance (s : State) : State :=
  s.useLines.fwBytes (Config.serviceRing + 12) 0 (leBytes 4 ((s.ringDesc.rd + 1) % 2 ^ 32))
/-- Requests that have been taken up and not answered: a later one with BAR = 1 waits for them (R272). -/
def State.ringOpen (s : State) : Bool :=
  !s.fw.isEmpty || s.grids.any (fun g => g.ser.any (fun x => !x.reqs.isEmpty)) || s.jobs.any (fun j => j.taking.isSome || !j.recReqs.isEmpty)

/-- The n-th 64-bit operand of a request. -/
def ringArg (c n : Nat) : Nat := bits c (64 * n + 191) (64 * n + 128)
/-- How many of the six operand words a TYPE uses; none when the TYPE is unknown. -/
def ringArgs (ty : Nat) : Option Nat :=
  match ty with
  | 0x81 => some 3 | 0x82 => some 1 | 0x83 => some 1 | 0x84 => some 1 | 0x85 => some 4 | 0x86 => some 3 | 0x87 => some 5 | 0x88 => some 2
  | 0x89 => some 1 | 0x8A => some 4 | 0x8B => some 4 | 0x8C => some 2 | 0x8D => some 2 | 0x8E => some 1 | 0x8F => some 2 | 0x90 => some 6
  | 0x91 => some 2 | 0x92 => some 4 | 0x93 => some 3 | 0x94 => some 4
  | _ => if ty = Config.describeType then some 1 else none
/-- A stop site of 16 bytes; none when a field lies outside its Values. -/
def siteOf (x : Nat) : Option Site :=
  let ord := bits x 23 0
  match bits x 31 24 with
  | 0 => if zeros x [(127, 32)] then some { ord := ord, kind := .brk } else none
  | 1 => if zeros x [(127, 64)] && bits x 63 32 ≠ 0 then some { ord := ord, kind := .sample (bits x 63 32) } else none
  | 2 => if zeros x [(63, 32), (127, 119)] then some { ord := ord, kind := .step (bits x 111 64) (bits x 118 112) } else none
  | _ => none

/-- What a request asks: a row of the table, its refusal, or its bytes and stop sites still on their way. -/
inductive RingReq where
  | run (i : Instr)
  | refused (reason : Nat)
  | describe (addr : Nat)
  | wait
  deriving DecidableEq, Repr, Inhabited

/-- The stop sites of DEBUG attach, at an address, 16 bytes each. -/
def State.ringSites (s : State) (r : Req) (tag addr n : Nat) : RingReq × State :=
  if 8 < n then (.refused 0x0B, s)
  else if addr % 8 ≠ 0 then (.refused 0x03, s)
  else match s.devRead r.proc addr (16 * n) with
    | (.wait, s1) => (.wait, s1)
    | (.ok bs, s1) => (match (List.range n).mapM (fun i => siteOf (fld bs (16 * i) 16)) with
      | some l => .run (.debugAttach r tag l)
      | none => .refused 0x0B, s1)
    | (_, s1) => (.refused 0x09, s1)
/-- The row that a request executes (R297, R311, R334, R349). -/
def State.ringRow (s : State) (r : Req) (c : Nat) : RingReq × State :=
  let a := ringArg c
  let one (n : Nat) (f : Bool → Instr) : RingReq × State := (if a n ≤ 1 then .run (f (a n == 1)) else .refused 0x0B, s)
  match bits c 7 0 with
  | 0x81 => (.run (.load r (a 0) (a 1) (a 2)), s)
  | 0x82 => (.run (.unload r (a 0)), s)
  | 0x83 => (.run (.qcreate r (a 0)), s)
  | 0x84 => (.run (.qreset r (a 0)), s)
  | 0x85 => (.run (.map r (a 0) (a 1) (a 2) (a 3)), s)
  | 0x86 => (.run (.unmap r (a 0) (a 1) (a 2)), s)
  | 0x87 => (.run (.regcode r (a 0) (a 1) (a 2) (a 3) (a 4)), s)
  | 0x88 => one 1 (fun m => .freply r (a 0) m)
  | 0x89 => (.run (.kill r (a 0)), s)
  | 0x8A => (.run (.partition r (bits c 383 128)), s)
  | 0x8B => one 3 (fun m => if m then .serialiseSnapshot r (a 0) (a 1) (a 2) 3 else .serialiseStop r (a 0) (a 1) (a 2) 3)
  | 0x8C => (if a 1 ≤ 7 then .run (.replant r (a 0) (a 1)) else .refused 0x0B, s)
  | 0x8D => (.run (.faultlog r (a 0) (a 1)), s)
  | 0x8E => (.run (.job r (a 0)), s)
  | 0x8F => (.run (.rpoint r (a 0) (a 1)), s)
  | 0x90 => (if a 5 ≤ 7 then .run (.recover r (a 0) ((List.range 256).filter (fun d => bit c (192 + d))) (a 5)) else .refused 0x0B, s)
  | 0x91 => (match s.devRead r.proc (a 0) 48 with
    | (.wait, s1) => (.wait, s1)
    | (.ok bs, s1) => (.run (.attest r (ofLe bs) (a 1)), s1)
    | (_, s1) => (.refused 0x09, s1))
  | 0x92 => one 3 (fun m => if m then .lcrecStop r (a 0) else .lcrecStart r (a 0) (a 1) (a 2))
  | 0x93 => (.run (.waitgraph r (a 0) (a 1) (a 2)), s)
  | 0x94 => (match a 3 with
    | 0 => s.ringSites r (a 0) (a 1) (a 2)
    | 1 => (.run (.debugDetach r (a 0)), s)
    | 2 => (.run (.debugResume r (a 0)), s)
    | _ => (.refused 0x0B, s))
  | _ => (.describe (a 0), s)
/-- A request of 64 bytes: an unknown TYPE and a field that is not 0 are refused first (R277). -/
def State.ringDecode (s : State) (r : Req) (c : Nat) : RingReq × State :=
  match ringArgs (bits c 7 0) with
  | none => (.refused 0x01, s)
  | some n =>
    if !zeros c [(15, 9), (63, 16)] || (List.range 6).any (fun i => decide (n ≤ i) && ringArg c i ≠ 0) then (.refused 0x02, s)
    else s.ringRow r c

/-- What the device finds in the ring: nothing to do, a request answered at once, or a row to execute for it. -/
inductive RingNext where
  | still (s : State)
  | done (s : State)
  | run (s : State) (i : Instr)
  deriving Inhabited
/-- The next request (R271, R297), while the part runs (R343). One whose signal is misaligned, or whose ring has a descriptor
with a field outside its Values, cannot be answered: its refusal is logged (R4), and RD passes the request (log 112). -/
def State.ringNext (s : State) : RingNext :=
  let d := s.ringDesc
  if s.mgmt.phase ≠ .running ∨ d.rd = d.wr then .still s else
  match descBad d with
  | some (c, x) => .done (s.logRefusal Config.serviceRing c x)
  | none =>
  match s.devRead d.proc (d.slot d.rd) 64 with
  | (.wait, s1) => .still s1
  | (.bad va, s1) => .done (s1.logRefusal va 0x09 0)
  | (.ecc va, s1) => .done (s1.logRefusal va 0x09 0)
  | (.ok bs, s1) =>
    let c := ofLe bs
    let r : Req := { sig := bits c 127 64, proc := d.proc }
    if bit c 8 && s.ringOpen then .still s1
    else if r.sig % 8 ≠ 0 then .done (s1.logRefusal r.sig 0x03 (bits c 15 0))
    else match s1.ringDecode r c with
      | (.wait, s2) => .still s2
      | (.refused x, s2) => .done (s2.refuse r x)
      | (.describe a, s2) => .done ((s2.putVa r.proc a (leBytes 32 s2.description)).served r)
      | (.run i, s2) => .run s2 i

/-- The rows that execute only for a request of the ring. -/
def isService : Instr → Bool
  | .load _ _ _ _ => true
  | .unload _ _ => true
  | .qcreate _ _ => true
  | .qreset _ _ => true
  | .map _ _ _ _ _ => true
  | .unmap _ _ _ _ => true
  | .regcode _ _ _ _ _ _ => true
  | .freply _ _ _ => true
  | .kill _ _ => true
  | .partition _ _ => true
  | .serialiseStop _ _ _ _ _ => true
  | .serialiseSnapshot _ _ _ _ _ => true
  | .replant _ _ _ => true
  | .faultlog _ _ _ => true
  | .job _ _ => true
  | .rpoint _ _ _ => true
  | .recover _ _ _ _ => true
  | .attest _ _ _ => true
  | .lcrecStart _ _ _ _ => true
  | .lcrecStop _ _ => true
  | .waitgraph _ _ _ _ => true
  | .debugAttach _ _ _ => true
  | .debugDetach _ _ => true
  | .debugResume _ _ => true
  | _ => false
/-- After a request's row: it is taken up again when it waits, else the ring has passed it. -/
def State.ringAfter (s : State) : State := if s.ringWait then { s with ringWait := false } else s.ringAdvance

end Sys2Proof.Machine
end

