-- ==== Sys2Proof/Machine/Fetch.lean ====
section
/-! DEFINITION. Who may issue and what it issues: the scheduler's choice (R33), the fetch
with the checks of run-time code (R75, R76), and what the end of an issue leaves (R332, R355, R357). -/

namespace Sys2Proof.Machine

/-! ### The scheduler -/

/-- Whether a ready group's turn is before another's on its scheduler (R33). -/
def Group.before (a b : Group) : Bool :=
  decide (a.lastIssue < b.lastIssue) || (a.lastIssue == b.lastIssue && a.tag == b.tag && a.team == b.team && decide (a.num < b.num))
/-- Whether two groups share a scheduler. -/
def State.sameSched (s : State) (a b : Group) : Bool :=
  s.coreOf a.tag a.team == s.coreOf b.tag b.team && a.sched == b.sched
/-- Whether the copy queue has the entries that a group waits for (R204). -/
def State.room (s : State) (g : Group) : Bool :=
  g.blocked == 0 || (match s.grid? g.tag, s.team? g.tag g.team with
    | some gr, some t => decide (t.queueUsed + g.blocked ≤ gr.kcb.copyq)
    | _, _ => true)
/-- Whether a group has a lane to issue, and is not passed over: for want of room (R204), or while what its issue waits for is
serviced (R53, R186, log 98). -/
def State.ready (s : State) (g : Group) : Bool :=
  s.mayIssue g && g.hold.isNone && s.room g && (match s.grid? g.tag with
    | some gr => s.candidates gr g != 0#64
    | none => false)
/-- Whether the group issues now: it is ready, its complete collectives have issued (R46), the releases and faults of its issue
boundary are done (R48, R308), and no ready group of its scheduler comes first. -/
def State.mayTurn (s : State) (g : Group) : Bool :=
  s.ready g && g.insts.all (fun i => i.done.isNone) && g.syncReady == 0#64 && g.stranded.isEmpty &&
  s.groups.all (fun b => Group.is g.tag g.team g.num b || !(b.before g) || !(s.sameSched b g) || !(s.ready b))

/-! ### The fetch -/

/-- The opcode and X-form fields of an instruction of a lane. -/
def opFields (i : Instr) : Option (Nat × Fields) :=
  match rawOf i with
  | some (.b opc g) => some (opc.toNat, Fields.ofB opc.toNat g)
  | some (.w opc f) => some (opc.toNat, f)
  | _ => none
/-- The highest v register that an instruction names, plus 1 (R25); masks span a pair at 64 lanes (R177). -/
def topReg (width opc : Nat) (f : Fields) : Nat :=
  let i : Ins := { off := 0, len := 0, opc := opc, f := f }
  let x := regBits (width == 64) i
  vTop { i with rd := x.1, wr := x.2 }

/-- The checks of run-time code at a fetch, the code when one fails for a lane: the ordinal of a CANON and the budget as the loader asks
(R25, R73, R74), the closer and the length of a region (R76). A target or a loop end outside the registered range is not among them
(log 107). -/
def runCheck (gr : Grid) (g : Group) (r : RunCode) (i : Instr) (l : Lane) : Option Nat :=
  match opFields i with
  | none => some cIllegalOpcode
  | some (opc, f) =>
    if opc = 0x0A ∧ r.canon.length ≤ Fields.abc f then some cContract
    else if l.closer = true ∧ opc ≠ 0x0A then some cContract
    else if 4097 ≤ l.since then some cContract
    else if (gr.kcb.role g.role).budget < topReg gr.kcb.width opc f then some cContract
    else none

/-- What a chosen set does. -/
inductive Turn where
  /-- nothing is executed -/
  | done (s : State)
  /-- nothing is executed yet: the group waits for a page or for a line of code -/
  | wait (s : State)
  | run (s : State) (i : Instr)

/-- Code beyond the instruction whose length it takes: the last instruction of a loop body that it may leave (R129, R131). -/
def endsOf (ls : List Lane) (pc : DWord) : Instr → List Nat
  | .loop f => [(pc + BitVec.ofNat 64 (Fields.loopOff f)).toNat]
  | .lbrk _ => (ls.filterMap (fun l => l.loopHere.map (fun r => r.last.toNat))).eraseDups
  | .lbrkExt _ => (ls.filterMap (fun l => l.loopHere.map (fun r => r.last.toNat))).eraseDups
  | _ => []
/-- The group waits for a line of code that lies in another home (R246, log 98), once a TID is free (R336). -/
def State.holdCode (s : State) (gr : Grid) (g : Group) (pc : DWord) (core line : Nat) : State :=
  if s.noTid then s else
  let (_, s1) := s.fresh.send (.ifetch s.nextId core line pc.toNat) { type := 1, scope := 0, ord := 0, pid := gr.part, addr := line }
  s1.updGroup g.tag g.team g.num (fun x => { x with hold := some s.nextId })

/-- Whether an instruction names a v register, or reaches the frames of its lanes (R51, R53). -/
def usesStack (width : Nat) (i : Instr) : Bool := match i with
  | .call _ => true
  | .callx _ => true
  | .ret _ => true
  | .retExt _ => true
  | _ => match opFields i with
    | some (opc, f) => decide (0 < topReg width opc f)
    | none => false
/-- Where a lane's part of the register backing area lies (R53, log 70). -/
def coldVa (gr : Grid) (g : Group) (l : Nat) : Nat :=
  (gr.backing + slotsAt + 65536 * ((g.team * gr.kcb.lanes + g.num * gr.kcb.width + l) % slotPages)) % 2 ^ 64
/-- The lanes of a set whose slots an instruction must bring back. -/
def Group.coldLanes (g : Group) (width : Nat) (m : LaneMask) (i : Instr) : List Nat :=
  if usesStack width i then (maskList g.lanes.length m).filter (fun l => (g.lanes.getD l default).cold) else []

/-- Faults of some lanes of a group at an instruction; the group stops. -/
def State.failLanes (s : State) (g : Group) (pc : DWord) (fs : List (Nat × Nat × Nat)) : State :=
  (s.raise g.tag (fs.map (fun x => faultRec g x.1 x.2.1 pc x.2.2))).stopGroup g.tag g.team g.num

/-- The lanes of a set in run-time code whose results are outstanding: they wait for them (R76). -/
def State.mustDrain (s : State) (gr : Grid) (g : Group) (m : LaneMask) (k : Lane) : LaneMask :=
  if (s.runOf gr.proc k.pc.toNat).isSome then maskOf ((maskList g.lanes.length m).filter (fun l => s.outstanding g.tag g.team g.num l)) else 0#64
/-- An instruction of a set executes, once the cold slots that it names have been brought back, for which others leave the store when it is
full (R15, R53). -/
def State.warm (s : State) (gr : Grid) (g : Group) (m : LaneMask) (k : Lane) (i : Instr) (len : Nat) : Turn :=
  let core := s.coreOf g.tag g.team
  let cold := g.coldLanes gr.kcb.width m i
  let (cs, s1) := chkList (fun s l => s.chkVa core gr.part gr.proc (coldVa gr g l) (coldVa gr g l) .rw) cold s
  let run (s : State) : Turn :=
    .run { s.fetchTouch core gr.part gr.proc k.pc.toNat len with cur := { tag := g.tag, team := g.team, grp := g.num, mask := m, pc := k.pc } } i
  if cold.isEmpty then run (s.updGroup g.tag g.team g.num (fun x => { x with blocked := 0 }))
  else if !(chkMisses cs).isEmpty then .wait (s1.holdSet gr.proc g.tag g.team g.num m k.pc .rw (chkMisses cs))
  else if !(chkFaults cs).isEmpty then .done (s1.failLanes g k.pc ((chkFaults cs).map (fun x => (x.1, cTranslation, x.2.2))))
  else
    let s2 := s1.updGroup g.tag g.team g.num (fun x => { (x.updMask (maskOf cold) (fun _ l => { l with cold := false })) with blocked := 0 })
    run (s2.fitStore core (fun x => x.tag == g.tag && x.team == g.team && x.grp == g.num))
/-- The instruction of a set, once its words are at hand: it waits for its results in run-time code, or executes. -/
def State.begin_ (s : State) (gr : Grid) (g : Group) (m : LaneMask) (k : Lane) (i : Instr) (len : Nat) : Turn :=
  let out := s.mustDrain gr g m k
  if out ≠ 0#64 then .done (s.updGroup g.tag g.team g.num (fun x => x.updMask out (fun _ l => { l with st := .draining })))
  else s.warm gr g m k i len

/-- What a set fetches (R58, R75, R76): an instruction and its length; or it waits for a translation fault or for a line in another home, or
faults. -/
def State.fetchIns (s : State) (gr : Grid) (g : Group) (m : LaneMask) (k : Lane) : Except Turn (Instr × Nat) :=
  let core := s.coreOf g.tag g.team
  let ls := maskList g.lanes.length m
  let fail (code addr : Nat) : Turn := .done (s.failLanes g k.pc (ls.map (fun l => (l, code, addr))))
  let miss (va : Nat) (mig : Bool) : Turn := .wait (s.holdSet gr.proc g.tag g.team g.num m k.pc .ex (ls.map (fun l => (l, va, mig))))
  match s.fetch core gr.proc k.pc.toNat with
  | .miss va mig => .error (if s.declined.contains (gr.proc, va) then fail cTranslation va else miss va mig)
  | .fault va code => .error (fail code va)
  | .bad code => .error (fail code 0)
  | .remote line => .error (.wait (s.holdCode gr g k.pc core line))
  | .ok i len =>
    let bad := match s.runOf gr.proc k.pc.toNat with
      | none => []
      | some r => ls.filterMap (fun l => (runCheck gr g r i (g.lanes.getD l default)).map (fun c => (l, c, 0)))
    if !bad.isEmpty then .error (.done (s.failLanes g k.pc bad))
    else match (endsOf (g.pick m) k.pc i).findSome? (fun a => match s.fetchWords core gr.proc a 1 with
        | .error (.remote line) => some (.remote line)
        | .error (.miss va mig) => if s.declined.contains (gr.proc, va) then none else some (.miss va mig)
        | _ => none) with
      | some (Fetched.remote line) => .error (.wait (s.holdCode gr g k.pc core line))
      | some (.miss va mig) => .error (miss va mig)
      | _ => .ok (i, len)

/-! ### Dual issue -/

/-- Whether an instruction is dual-eligible (R37). -/
def dualEligible (i : Instr) : Bool :=
  match opFields i with
  | none => false
  | some (opc, f) =>
    let s := match entry opc with
      | some e => writesS (e.roles f.sub.toNat).1 f.d
      | none => false
    !s && (dualOpcode opc || (opc == 0x01 && decide (0 < Fields.branchOff f)))
/-- The second set's instruction and its length, when both instructions are dual-eligible (R37); or what it waits for first. Lanes that wait
for their results in run-time code do not issue. -/
def State.secondIns (s : State) (gr : Grid) (g : Group) (k1 : Lane) (i : Instr) : Option (LaneMask × Lane × Except State (Instr × Nat)) :=
  if !dualEligible i then none else
  match s.secondSet gr g k1 with
  | none => none
  | some (m, k) =>
    match s.fetchIns gr g m k with
    | .error (.wait t) => some (m, k, .error t)
    | .error _ => none
    | .ok (j, len) => if dualEligible j && s.mustDrain gr g m k == 0#64 then some (m, k, .ok (j, len)) else none
/-- What keeps a pair of sets from issuing in one cycle: a page or a line of code that the second of them waits for. The primary set waits
with it, so that the issue sets do not depend on such a wait (R37, R53, R57, log 98). -/
def State.pairWait (s : State) (gr : Grid) (g : Group) (k1 : Lane) (i : Instr) : Option State :=
  match s.secondIns gr g k1 i with
  | none => none
  | some (_, _, .error t) => some t
  | some (m, k, .ok (j, len)) => match s.warm gr g m k j len with
    | .wait t => some t
    | _ => none

/-- The turn of a group on its primary set: what it fetched, and its second set's waits, come first. -/
def State.turnOf (s : State) (gr : Grid) (g : Group) (m : LaneMask) (k : Lane) : Turn :=
  match s.fetchIns gr g m k with
  | .error t => t
  | .ok (i, len) => match s.begin_ gr g m k i len with
    | .run t j => match s.pairWait gr g k j with
      | none => .run t j
      | some u => .wait u
    | t => t
/-- The turn of a group: none when it does not issue now. -/
def State.turn (s : State) (tag team grp : Nat) : Option Turn :=
  match s.grid? tag, s.group? tag team grp with
  | some gr, some g =>
    if !s.mayTurn g then none else
    (s.primary gr g).map (fun x => s.turnOf gr g x.1 x.2)
  | _, _ => none

/-- The guard of a lane for an instruction. -/
def guardOf (i : Instr) (l : Lane) : Bool :=
  match opFields i with
  | none => true
  | some (_, f) => if f.prd = 127#7 then true else l.p.getLsbD f.prd.toNat != f.pn
/-- Lanes of a set whose guard is true. -/
def Group.guardMask (g : Group) (m : LaneMask) (i : Instr) : LaneMask :=
  maskOf ((maskList g.lanes.length m).filter (fun l => guardOf i (g.lanes.getD l default)))

/-- The second issue, chosen on the state `s0` before the primary's, made on the state `s1` after it: only when both
instructions are dual-eligible, and none when the primary set faulted (R37). -/
def State.second (s0 s1 : State) (tag team grp : Nat) (i : Instr) : Option Turn :=
  match s0.grid? tag, s0.group? tag team grp, s1.group? tag team grp with
  | some gr, some g, some g1 =>
    if g1.stopped then none else
    match s0.primary gr g with
    | none => none
    | some (_, k1) =>
      match s0.secondIns gr g k1 i with
      | some (m, k, .ok (j, len)) => some (s1.warm gr g1 m k j len)
      | _ => none
  | _, _, _ => none

/-! ### The end of an issue -/

/-- Whether a group is passed over: its issue did not take place for want of room in the copy queue (R204), for a translation fault
(R186, R259), or because a debugger's site stopped it first (R357). -/
def State.passed (s : State) (tag team grp : Nat) : Bool := (s.group? tag team grp).any (fun g => g.blocked ≠ 0 || g.hold.isSome ||
  (g.stopped && s.grids.any (fun x => x.tag == tag && x.ser.isSome && x.faults.isEmpty && !x.killed)))
/-- One issue counted, its lanes in its grid's lane-cycle record, its positions in its scheduler's slot (R355). -/
def State.countIssue (s0 s1 : State) (tag team grp : Nat) (i : Instr) (second : Option (LaneMask × DWord × Instr)) : State :=
  if !s1.counting then (if s1.slots.isEmpty then s1 else { s1 with slots := [] }) else
  match s0.grid? tag, s0.group? tag team grp with
  | some gr, some g =>
    match s0.primary gr g with
    | none => s1
    | some (m, k) =>
      let sets := (m, k.pc, g.guardMask m i) :: (match second with
        | none => []
        | some (m2, pc2, j) => [(m2, pc2, g.guardMask m2 j)])
      (s1.updGrid tag (fun x => { x with lcrec := x.lcrec.map (fun r => r.count g sets) })).fillSlot (s0.coreOf tag team) g k.pc.toNat
  | _, _ => s1

/-- Whether a stepped group has come to its next canonical points: each of its lanes has exited or stands at one that it did not stand at when
the step began (R357). -/
def State.stepped (s : State) (gr : Grid) (g : Group) : Bool :=
  g.stepping && (List.range g.lanes.length).all (fun i => match g.lanes[i]? with
    | some l => decide (l.st = .exited) ||
      (s.standing (s.coreOf g.tag g.team) gr l && !((gr.dbg.map (·.passes)).getD []).contains (g.team, g.num, i))
    | none => true)
/-- A stepped group that has come to rest, by whatever, stops its grid as a BREAK does, or joins the serialise in progress (R357, R316). -/
def State.stopStep (s : State) (g : Group) : State :=
  match s.grid? g.tag with
  | none => s
  | some gr =>
    if (gr.ser.isNone || gr.joinable) && gr.faults.isEmpty && !gr.killed && s.stepped gr g then
      (s.updGroup g.tag g.team g.num (fun g => { g with stepping := false })).beginSerial g.tag (debugSerial false s.time)
    else s
/-- The same for every stepped group. -/
def State.stopSteps (s : State) : State := (s.groups.filter (·.stepping)).foldl State.stopStep s
/-- The end of a group's turn: the issue is stamped and counted; after a fault of the grid the group stops (R332). -/
def State.endTurn (s : State) (tag team grp : Nat) (issued : Bool) : State :=
  let s1 := if issued then
      (s.updGroup tag team grp (fun g => { g with lastIssue := s.nextId, issues := g.issues + 1 })).fresh else s
  match s1.grid? tag with
  | none => s1
  | some gr => if gr.faults.isEmpty then s1 else s1.stopGroup tag team grp

/-- R38 in every group: when lanes are runnable and all of them have yielded, the flags are cleared. -/
def State.settle (s : State) : State := { s with groups := s.groups.map Group.clearYield }

/-- Time passes (R18). -/
def State.elapse (s : State) (n : Nat) : State := { s with time := s.time + n }

/-- An error (R255): a single bit is corrected and counted; data found uncorrectable is marked where it lies, and reported. -/
def State.strike (s : State) (w : Struck) : State :=
  match w with
  | .soft => { s with mgmt := { s.mgmt with eccCount := s.mgmt.eccCount + 1 } }
  | .mem (.sys _) => s
  | .mem l => (s.addPoison (l.down 8) 8).report .ecc
  | .l1 core line i =>
    ({ s with l1 := s.l1.map (fun (x : L1Line) => if x.core == core && x.line == line then { x with spoilt := i :: x.spoilt } else x) }).report .ecc
  | .slot tag team grp lane n => (s.updLane tag team grp lane (fun l => { l with spoilt := n :: l.spoilt })).report .ecc
  | .sreg tag team grp n => (s.updGroup tag team grp (fun g => { g with spoilt := n :: g.spoilt })).report .ecc
  | .elem tag team tile n =>
    (s.updTeam tag team (fun t => { t with tiles := updAt (fun x => { x with spoilt := n :: x.spoilt }) tile t.tiles })).report .ecc
/-- The next state of an outcome changed. -/
def onNext (o : Host.Outcome State Fault Refusal) (f : State → Host.Outcome State Fault Refusal) : Host.Outcome State Fault Refusal :=
  match o with
  | .next s => f s
  | .fault r => .fault r
  | .refused r => .refused r

/-! ### A program placed from outside (log 38) -/

/-- Where the placed instruction, and the three tables above its page, lie. -/
def placedAt : Nat := 0x10000
def placedRoot : Nat := 0x1000
/-- A process whose one 1 GiB page maps the low memory, readable, writable and executable (R256). -/
def State.placeProcess (s : State) : Nat × State :=
  let pid := s.procs.foldl (fun m p => max m (p.pid + 1)) 1
  (pid, { s with
    dram := ((s.dram.writeN placedRoot 8 0x2001).writeN 0x2000 8 0x3001).writeN 0x3000 8 0x1F,
    procs := s.procs ++ [{ pid := pid, root := placedRoot, log := none, written := 0, served := [] }] })
/-- The kernel of a placed instruction: one group of eight lanes. -/
def placedKcb : Kcb :=
  { width := 8, roles := [{ groups := 1, budget := 192, stack := 1024, entry := 0 }], scratch := 0, copyq := 16, cluster := 1,
    disp := false, det := false, fptrap := 0#5, spill := 0, canlo := 0, cann := 1, tiles := [] }
/-- A grid of one team of one group, standing at the placed instruction. -/
def State.placeGrid (s : State) (pid : Nat) : State :=
  let tag := s.tagOf s.freeTag
  let g : Grid :=
    { tag := tag, proc := pid, handle := 0, koff := 0, kcb := placedKcb, x := 1, y := 1, z := 1, n := 0, params := [],
      sig := 0, queue := 0, tick := false, part := 0, order := s.nextId, started := 1, next := 0, claims := [], cbars := [],
      roll := [], rollCap := 8192, faults := [], killed := false, held := [], backing := 2 ^ 40, spillad := 0, ser := none, dbg := none, lcrec := none }
  { s.fresh with
    grids := s.grids ++ [g], teams := s.teams ++ [teamStart g 0 0 0],
    groups := s.groups ++ [groupStart g placedAt (fun _ => 0) 0 0 0],
    agenda := .issue tag 0 0 :: s.agenda }
/-- The bytes of an instruction placed: no cache holds others, and they are not poisoned. -/
def State.placeBytes (s : State) (nbits w : Nat) : State :=
  { s with dram := s.dram.writeBytes placedAt (leBytes 20 (w % 2 ^ nbits)), icache := [],
           poison := s.poison.filter (fun l => !(l.meets 8 (.dram placedAt) 20)) }
/-- A lane's instruction, in `nbits` bits of a number numbered as the table numbers them, placed and about to issue. -/
def State.placeLane (s : State) (nbits w : Nat) : State :=
  let (pid, s2) := (s.placeBytes nbits w).placeProcess
  s2.placeGrid pid
/-- A queue processor's instruction, placed and about to execute on queue processor 0 of a part that runs. -/
def State.placeHart (s : State) (nbits w : Nat) : State :=
  let s1 := s.placeBytes nbits w
  ({ s1 with mgmt := { s1.mgmt with phase := .running }, agenda := .hart 0 :: s1.agenda }).updHart 0 (fun h =>
      { h with pc := BitVec.ofNat 64 placedAt, stall := none, idle := false, mip := 0#64 })

/-! ### The mover -/

/-- Places for the teams that a grid places next, found one after another on the first octet that has room. -/
def State.choosePlaces (s : State) (g : Grid) : List Place :=
  match (s.roomy g (s.octetsNow g)).head? with
  | none => []
  | some o =>
    ((s.nextTeams g).foldl (fun (acc : List Place × List (Nat × Nat × Nat)) _ =>
      match (List.range 8).findSome? (fun c => (List.range 256).findSome? (fun i =>
          let p : Place := { core := 8 * o + c, base := 1536 * i, scheds := (List.range g.kcb.groupCount).map (· % 4) }
          if placesOk s g [p] acc.2 then some p else none)) with
      | none => acc
      | some p => (acc.1 ++ [p], (p.core, p.base, g.kcb.scratchPad) :: acc.2)) ([], [])).1
/-- What a group does at its issue boundary before it issues, each of it in effect at once: a collective, a synchronising point, the end of
stranded instances (R46, R48, R308). -/
def State.boundary (s : State) (x : Group) : Option Act :=
  if !s.unstopped x then none else
  match x.insts.find? (fun i => i.done.any (s.mayAct x i)) with
  | some i => some (.ev (.collectiveIssue x.tag x.team x.num i.id))
  | none => if x.syncReady ≠ 0#64 then some (.ev (.syncCanonRelease x.tag x.team x.num))
    else if !x.stranded.isEmpty then some (.ev (.collectiveStranded x.tag x.team x.num)) else none
/-- What brings a ready group to its issue: the turn of the first ready group of its scheduler, or what that one does at its boundary (R32,
R33). -/
def State.towards (s : State) (x : Group) : Option Act :=
  let first := (s.groups.filter (fun b => s.ready b && s.sameSched b x)).foldl (fun m b => if b.before m then b else m) x
  if s.mayTurn first then some (.issue first.tag first.team first.num)
  else match s.boundary first with
    | some a => some a
    | none => (s.results.find? (fun r => r.tag == first.tag && r.team == first.team && r.grp == first.num && s.mayReturn r)).map (fun r => .ev (.resultReturn r.id))
/-- The next delivery of a copy, when it may be made. -/
def State.copyAct (s : State) (c : Copy) (tag team : Nat) : Option Act :=
  match s.grid? tag, s.team? tag team with
  | some g, some t => if s.copyReady g t c && !s.noTid then some (.ev (.copyDelivery tag team c.seq .none)) else none
  | _, _ => none
/-- The copy that owns a line which an access waits for goes on (R189). -/
def State.ownerAct (s : State) (a : Access) : Option Act :=
  (s.owner? a.loc).bind (fun o => ((s.team? o.tag o.team).bind (fun t => t.copies.find? (fun c => !c.hint && c.seq == o.seq))).bind (fun c =>
    s.copyAct c o.tag o.team))
/-- The service of a translation fault (R259): the page comes to local memory, or Rolahild maps one; one that the host has not answered in
time ends. -/
def State.serviceAct (s : State) (t : TFault) : Option Act :=
  if t.mig then
    match walk s.dram (s.rootOf t.proc) t.va t.k with
    | .leaf _ _ true _ _ level =>
      let pa := roundUp s.freePa (pageBytes level)
      if Config.dramBytes < pa + pageBytes level then none else some (.ev (.pageMigration t.id pa (Config.pageBytesAt s.choice)))
    | _ => none
  else if t.device then
    let pa := roundUp s.freePa 65536
    if Config.dramBytes < pa + 65536 then none else some (.ev (.translationFaultService t.id (0x1F + pa)))
  else if t.since + s.faultLimit ≤ s.time then some (.ev (.faultReplyTimeout t.id)) else none
/-- Whether a translation fault holds a team. -/
def TFault.of (t : TFault) (tag team : Nat) : Bool := match t.who with
  | .issue a b _ _ _ => a == tag && b == team
  | .copy a b _ => a == tag && b == team
  | .firmware => false
/-- What a team needs next, by kind, each list with what has waited longest first: what it has on its way, its issues, the services of its
translation faults, its copies, its observations of barriers in other homes, its retiring. -/
def State.needs (s : State) (g : Grid) (t : Team) (k : Nat) : List (List Act) :=
  let mine (a b : Nat) : Bool := a == g.tag && b == t.idx
  let goes (l : Loc) : Bool := !(l.isSys && s.noTid)
  let gs := s.teamGroups g.tag t.idx
  let accs := s.accs.filter (fun a => mine a.tag a.team)
  let homes (l : List Access) : List Act := (l.filter (fun a => s.eligible a && goes a.loc)).map (fun a => .ev (.accessAtHome a.id .none))
  let polls := homes (accs.filter (·.observing))
  [ gs.filterMap s.boundary,
    (s.results.filter (fun r => mine r.tag r.team && s.mayReturn r)).map (fun r => .ev (.resultReturn r.id)),
    homes (accs.filter (fun a => !a.observing)),
    accs.filterMap s.ownerAct,
    (s.sigs.filter (fun x => mine x.tag x.team && s.sigReady x && goes x.loc && !(x.loc.isSys && x.copy.isSome && s.engineBusy t.core))).map
      (fun x => .ev (.barrierSignal x.id)),
    (s.fetches.filter (fun x => mine x.tag x.team)).map (fun x => .ev (.dispenserClaim x.id)),
    (s.reds.filter (fun x => mine x.tag x.red.team)).map (fun x => .ev (.taggedReductionHold x.id)),
    (t.matq.head?.toList.filter (fun m => m.opc ≠ 0xE3 && matReady s g t m && !s.matHeld g t m)).map (fun m => .ev (.matrixInstanceEffect g.tag t.idx m.id)),
    (t.matq.filter (fun m => (s.marker? g t m.id).isSome)).map (fun m => .ev (.commitMarkerRetire g.tag t.idx m.id)),
    (sortBy (fun a b => decide (a.lastIssue < b.lastIssue)) (gs.filter s.ready)).filterMap s.towards,
    (s.tfaults.filter (fun x => x.of g.tag t.idx)).filterMap s.serviceAct,
    t.copies.filterMap (fun c => s.copyAct c g.tag t.idx),
    (t.copies.filter (fun c => c.hint && (g.tick || !s.tickHint t.core))).map (fun c => .ev (.cpyhintFill g.tag t.idx c.seq)),
    polls.rotateLeft (k % max polls.length 1),
    if s.mayRetire g t then [.ev (.teamRetire g.tag t.idx)] else [] ]
/-- What the lowest unretired team of a grid needs next, each act in effect when it is made (R32): its place; then, in the k-th round, the
first kind from the k-th on in turn of which there is something to do. -/
def State.urgent (s : State) (g : Grid) (k : Nat) : Option Act :=
  let places := s.choosePlaces g
  if s.isLowest g && s.placeable g places then some (.ev (.teamPlacement g.tag places)) else
  match (lowest ((s.teams.filter (fun t => t.tag == g.tag && t.resident)).map (·.idx))).bind (s.team? g.tag) with
  | none => none
  | some t =>
    let l := s.needs g t (k / 15)
    (l.rotateLeft (k % l.length)).flatten.head?
/-- A free mover's act: a job goes on only when the firmware has come to it. -/
def Act.free : Act → Act
  | .job _ => .elapse 0
  | a => a
/-- The mover of this step: the agenda's first; a free one; or, at every so many free moves, what the lowest team of a grid needs, the
grids in turn (R32). -/
def State.nextAct (s : State) : Act × State :=
  match s.agenda with
  | a :: rest => (a, { s with agenda := rest })
  | [] =>
    let t : State := { s with choice := s.choice + 1, idleMoves := s.idleMoves + 1 }
    let n := Config.patience + 1
    if s.idleMoves % n + 1 ≠ n then ((Config.mover s.choice).free, t) else
    match s.grids[s.idleMoves / n % s.grids.length]? with
    | none => ((Config.mover s.choice).free, t)
    | some g => ((s.urgent g (s.idleMoves / n / s.grids.length)).getD (Config.mover s.choice).free, t)

end Sys2Proof.Machine
end

