-- ==== Sys2Proof/Machine/Dispatch.lean ====
section
/-! DEFINITION. The meaning of every constructor of Instr, one arm each. -/

namespace Sys2Proof.Machine

def exec (i : Instr) (s : State) : Host.Outcome State Fault Refusal :=
  match i with
  | .nop sw => Sys2Proof.Machine.execNop sw s
  | .nopExt f => Sys2Proof.Machine.execNopExt f s
  | .bra f => Sys2Proof.Machine.execBra f s
  | .brx f => Sys2Proof.Machine.execBrx f s
  | .call f => Sys2Proof.Machine.execCall f s
  | .callx f => Sys2Proof.Machine.execCallx f s
  | .ret sw => Sys2Proof.Machine.execRet sw s
  | .retExt f => Sys2Proof.Machine.execRetExt f s
  | .exit sw => Sys2Proof.Machine.execExit sw s
  | .exitExt f => Sys2Proof.Machine.execExitExt f s
  | .demote sw => Sys2Proof.Machine.execDemote sw s
  | .demoteExt f => Sys2Proof.Machine.execDemoteExt f s
  | .loop f => Sys2Proof.Machine.execLoop f s
  | .lbrk sw => Sys2Proof.Machine.execLbrk sw s
  | .lbrkExt f => Sys2Proof.Machine.execLbrkExt f s
  | .canon f => Sys2Proof.Machine.execCanon f s
  | .trap f => Sys2Proof.Machine.execTrap f s
  | .brk f => Sys2Proof.Machine.execBrk f s
  | .iadd f => Sys2Proof.Machine.execIadd f s
  | .iaddExt f => Sys2Proof.Machine.execIaddExt f s
  | .isub f => Sys2Proof.Machine.execIsub f s
  | .isubExt f => Sys2Proof.Machine.execIsubExt f s
  | .iaddx f => Sys2Proof.Machine.execIaddx f s
  | .imul f => Sys2Proof.Machine.execImul f s
  | .imulExt f => Sys2Proof.Machine.execImulExt f s
  | .imulh f => Sys2Proof.Machine.execImulh f s
  | .imad f => Sys2Proof.Machine.execImad f s
  | .imadw f => Sys2Proof.Machine.execImadw f s
  | .idiv f => Sys2Proof.Machine.execIdiv f s
  | .irem f => Sys2Proof.Machine.execIrem f s
  | .imin f => Sys2Proof.Machine.execImin f s
  | .imax f => Sys2Proof.Machine.execImax f s
  | .iabs f => Sys2Proof.Machine.execIabs f s
  | .ineg f => Sys2Proof.Machine.execIneg f s
  | .shl f => Sys2Proof.Machine.execShl f s
  | .shlExt f => Sys2Proof.Machine.execShlExt f s
  | .shr f => Sys2Proof.Machine.execShr f s
  | .shrExt f => Sys2Proof.Machine.execShrExt f s
  | .sar f => Sys2Proof.Machine.execSar f s
  | .sarExt f => Sys2Proof.Machine.execSarExt f s
  | .rot f => Sys2Proof.Machine.execRot f s
  | .fshf f => Sys2Proof.Machine.execFshf f s
  | .and f => Sys2Proof.Machine.execAnd f s
  | .andExt f => Sys2Proof.Machine.execAndExt f s
  | .or f => Sys2Proof.Machine.execOr f s
  | .orExt f => Sys2Proof.Machine.execOrExt f s
  | .xor f => Sys2Proof.Machine.execXor f s
  | .xorExt f => Sys2Proof.Machine.execXorExt f s
  | .andn f => Sys2Proof.Machine.execAndn f s
  | .andnExt f => Sys2Proof.Machine.execAndnExt f s
  | .bfsel f => Sys2Proof.Machine.execBfsel f s
  | .popc f => Sys2Proof.Machine.execPopc f s
  | .clz f => Sys2Proof.Machine.execClz f s
  | .ctz f => Sys2Proof.Machine.execCtz f s
  | .brev f => Sys2Proof.Machine.execBrev f s
  | .bfx f => Sys2Proof.Machine.execBfx f s
  | .bfi f => Sys2Proof.Machine.execBfi f s
  | .lea f => Sys2Proof.Machine.execLea f s
  | .mov f => Sys2Proof.Machine.execMov f s
  | .movExt f => Sys2Proof.Machine.execMovExt f s
  | .movi f => Sys2Proof.Machine.execMovi f s
  | .iadd2 f => Sys2Proof.Machine.execIadd2 f s
  | .iadd4 f => Sys2Proof.Machine.execIadd4 f s
  | .vmin4 f => Sys2Proof.Machine.execVmin4 f s
  | .vmax4 f => Sys2Proof.Machine.execVmax4 f s
  | .idp4 f => Sys2Proof.Machine.execIdp4 f s
  | .isad f => Sys2Proof.Machine.execIsad f s
  | .icmp f => Sys2Proof.Machine.execIcmp f s
  | .fcmp f => Sys2Proof.Machine.execFcmp f s
  | .pset f => Sys2Proof.Machine.execPset f s
  | .pmov f => Sys2Proof.Machine.execPmov f s
  | .sel f => Sys2Proof.Machine.execSel f s
  | .fadd f => Sys2Proof.Machine.execFadd f s
  | .faddExt f => Sys2Proof.Machine.execFaddExt f s
  | .fsub f => Sys2Proof.Machine.execFsub f s
  | .fsubExt f => Sys2Proof.Machine.execFsubExt f s
  | .fmul f => Sys2Proof.Machine.execFmul f s
  | .fmulExt f => Sys2Proof.Machine.execFmulExt f s
  | .ffma f => Sys2Proof.Machine.execFfma f s
  | .fmin f => Sys2Proof.Machine.execFmin f s
  | .fmax f => Sys2Proof.Machine.execFmax f s
  | .frnd f => Sys2Proof.Machine.execFrnd f s
  | .fclass f => Sys2Proof.Machine.execFclass f s
  | .fscale f => Sys2Proof.Machine.execFscale f s
  | .hadd2 f => Sys2Proof.Machine.execHadd2 f s
  | .hmul2 f => Sys2Proof.Machine.execHmul2 f s
  | .hfma2 f => Sys2Proof.Machine.execHfma2 f s
  | .hmin2 f => Sys2Proof.Machine.execHmin2 f s
  | .hmax2 f => Sys2Proof.Machine.execHmax2 f s
  | .frcp f => Sys2Proof.Machine.execFrcp f s
  | .frsq f => Sys2Proof.Machine.execFrsq f s
  | .fsqrt f => Sys2Proof.Machine.execFsqrt f s
  | .fdiv f => Sys2Proof.Machine.execFdiv f s
  | .fexp2 f => Sys2Proof.Machine.execFexp2 f s
  | .flog2 f => Sys2Proof.Machine.execFlog2 f s
  | .fsin f => Sys2Proof.Machine.execFsin f s
  | .fcos f => Sys2Proof.Machine.execFcos f s
  | .ftanh f => Sys2Proof.Machine.execFtanh f s
  | .fcvt f => Sys2Proof.Machine.execFcvt f s
  | .f2i f => Sys2Proof.Machine.execF2i f s
  | .i2f f => Sys2Proof.Machine.execI2f f s
  | .cvtpk f => Sys2Proof.Machine.execCvtpk f s
  | .lshuf f => Sys2Proof.Machine.execLshuf f s
  | .lbcast f => Sys2Proof.Machine.execLbcast f s
  | .lvote f => Sys2Proof.Machine.execLvote f s
  | .lballot f => Sys2Proof.Machine.execLballot f s
  | .lred f => Sys2Proof.Machine.execLred f s
  | .lscan f => Sys2Proof.Machine.execLscan f s
  | .lmatch f => Sys2Proof.Machine.execLmatch f s
  | .cvset f => Sys2Proof.Machine.execCvset f s
  | .ldg f => Sys2Proof.Machine.execLdg f s
  | .stg f => Sys2Proof.Machine.execStg f s
  | .lds f => Sys2Proof.Machine.execLds f s
  | .sts f => Sys2Proof.Machine.execSts f s
  | .ldx f => Sys2Proof.Machine.execLdx f s
  | .stx f => Sys2Proof.Machine.execStx f s
  | .atomg f => Sys2Proof.Machine.execAtomg f s
  | .casg f => Sys2Proof.Machine.execCasg f s
  | .redg f => Sys2Proof.Machine.execRedg f s
  | .atoms f => Sys2Proof.Machine.execAtoms f s
  | .cass f => Sys2Proof.Machine.execCass f s
  | .reds f => Sys2Proof.Machine.execReds f s
  | .fence f => Sys2Proof.Machine.execFence f s
  | .ifence f => Sys2Proof.Machine.execIfence f s
  | .pref f => Sys2Proof.Machine.execPref f s
  | .cctl f => Sys2Proof.Machine.execCctl f s
  | .cpy f => Sys2Proof.Machine.execCpy f s
  | .cpyg f => Sys2Proof.Machine.execCpyg f s
  | .cpyhint f => Sys2Proof.Machine.execCpyhint f s
  | .cpystat f => Sys2Proof.Machine.execCpystat f s
  | .xbinit f => Sys2Proof.Machine.execXbinit f s
  | .xbexpect f => Sys2Proof.Machine.execXbexpect f s
  | .xbarrive f => Sys2Proof.Machine.execXbarrive f s
  | .xbwait f => Sys2Proof.Machine.execXbwait f s
  | .xbtest f => Sys2Proof.Machine.execXbtest f s
  | .barw f => Sys2Proof.Machine.execBarw f s
  | .bara f => Sys2Proof.Machine.execBara f s
  | .cbarw f => Sys2Proof.Machine.execCbarw f s
  | .cbara f => Sys2Proof.Machine.execCbara f s
  | .mma f => Sys2Proof.Machine.execMma f s
  | .mmag f => Sys2Proof.Machine.execMmag f s
  | .azero f => Sys2Proof.Machine.execAzero f s
  | .acmt f => Sys2Proof.Machine.execAcmt f s
  | .adrain f => Sys2Proof.Machine.execAdrain f s
  | .aload f => Sys2Proof.Machine.execAload f s
  | .amerge f => Sys2Proof.Machine.execAmerge f s
  | .acfg f => Sys2Proof.Machine.execAcfg f s
  | .t5pack f => Sys2Proof.Machine.execT5pack f s
  | .t5unpk f => Sys2Proof.Machine.execT5unpk f s
  | .t5chk f => Sys2Proof.Machine.execT5chk f s
  | .mxq f => Sys2Proof.Machine.execMxq f s
  | .rdsr f => Sys2Proof.Machine.execRdsr f s
  | .wrsr f => Sys2Proof.Machine.execWrsr f s
  | .ldk f => Sys2Proof.Machine.execLdk f s
  | .rand f => Sys2Proof.Machine.execRand f s
  | .wkfetch f => Sys2Proof.Machine.execWkfetch f s
  | .rfetch h => Sys2Proof.Machine.execRfetch h s
  | .bfxt h => Sys2Proof.Machine.execBfxt h s
  | .swait h => Sys2Proof.Machine.execSwait h s
  | .disp h => Sys2Proof.Machine.execDisp h s
  | .collectiveIssue tag team grp inst => Sys2Proof.Machine.execCollectiveIssue tag team grp inst s
  | .collectiveStranded tag team grp => Sys2Proof.Machine.execCollectiveStranded tag team grp s
  | .syncCanonRelease tag team grp => Sys2Proof.Machine.execSyncCanonRelease tag team grp s
  | .resultReturn id => Sys2Proof.Machine.execResultReturn id s
  | .accessAtHome id ecc => Sys2Proof.Machine.execAccessAtHome id ecc s
  | .barrierSignal id => Sys2Proof.Machine.execBarrierSignal id s
  | .copyDelivery tag team seq ecc => Sys2Proof.Machine.execCopyDelivery tag team seq ecc s
  | .cpyhintFill tag team id => Sys2Proof.Machine.execCpyhintFill tag team id s
  | .matrixInstanceEffect tag team id => Sys2Proof.Machine.execMatrixInstanceEffect tag team id s
  | .commitMarkerRetire tag team id => Sys2Proof.Machine.execCommitMarkerRetire tag team id s
  | .dispenserClaim id => Sys2Proof.Machine.execDispenserClaim id s
  | .taggedReductionHold id => Sys2Proof.Machine.execTaggedReductionHold id s
  | .promenadeApply tag slice => Sys2Proof.Machine.execPromenadeApply tag slice s
  | .teamPlacement tag places => Sys2Proof.Machine.execTeamPlacement tag places s
  | .teamRetire tag team => Sys2Proof.Machine.execTeamRetire tag team s
  | .gridCompletion tag => Sys2Proof.Machine.execGridCompletion tag s
  | .gridFault tag => Sys2Proof.Machine.execGridFault tag s
  | .launch q => Sys2Proof.Machine.execLaunch q s
  | .waitsig q => Sys2Proof.Machine.execWaitsig q s
  | .waitsigSatisfied q => Sys2Proof.Machine.execWaitsigSatisfied q s
  | .signalWrite q => Sys2Proof.Machine.execSignalWrite q s
  | .signalAdd q => Sys2Proof.Machine.execSignalAdd q s
  | .barrier q => Sys2Proof.Machine.execBarrier q s
  | .barrierCommandComplete q => Sys2Proof.Machine.execBarrierCommandComplete q s
  | .tick q => Sys2Proof.Machine.execTick q s
  | .tickEdge q => Sys2Proof.Machine.execTickEdge q s
  | .turnEndQuantum pid => Sys2Proof.Machine.execTurnEndQuantum pid s
  | .turnEndIdle pid => Sys2Proof.Machine.execTurnEndIdle pid s
  | .load r addr len handleAt => Sys2Proof.Machine.execLoad r addr len handleAt s
  | .unload r handle => Sys2Proof.Machine.execUnload r handle s
  | .qcreate r desc => Sys2Proof.Machine.execQcreate r desc s
  | .qreset r desc => Sys2Proof.Machine.execQreset r desc s
  | .map r proc va len leaf => Sys2Proof.Machine.execMap r proc va len leaf s
  | .unmap r proc va len => Sys2Proof.Machine.execUnmap r proc va len s
  | .regcode r proc va len table count => Sys2Proof.Machine.execRegcode r proc va len table count s
  | .freply r id mapped => Sys2Proof.Machine.execFreply r id mapped s
  | .kill r tag => Sys2Proof.Machine.execKill r tag s
  | .partition r rec => Sys2Proof.Machine.execPartition r rec s
  | .serialiseStop r tag image cap cause => Sys2Proof.Machine.execSerialiseStop r tag image cap cause s
  | .serialiseSnapshot r tag image cap cause => Sys2Proof.Machine.execSerialiseSnapshot r tag image cap cause s
  | .serialiseImageWrite tag => Sys2Proof.Machine.execSerialiseImageWrite tag s
  | .serialiseTimeout tag => Sys2Proof.Machine.execSerialiseTimeout tag s
  | .replant r image part => Sys2Proof.Machine.execReplant r image part s
  | .faultlog r addr cap => Sys2Proof.Machine.execFaultlog r addr cap s
  | .translationFaultService id leaf => Sys2Proof.Machine.execTranslationFaultService id leaf s
  | .pageMigration id pa data => Sys2Proof.Machine.execPageMigration id pa data s
  | .faultReplyTimeout id => Sys2Proof.Machine.execFaultReplyTimeout id s
  | .swaitWake hart => Sys2Proof.Machine.execSwaitWake hart s
  | .l2WayMaskWrite die offset value => Sys2Proof.Machine.execL2WayMaskWrite die offset value s
  | .l2WayMaskAll die pid value => Sys2Proof.Machine.execL2WayMaskAll die pid value s
  | .registerWrite reg value => Sys2Proof.Machine.execRegisterWrite reg value s
  | .clockStepDown => Sys2Proof.Machine.execClockStepDown s
  | .clockStepUp => Sys2Proof.Machine.execClockStepUp s
  | .powerLimitStop => Sys2Proof.Machine.execPowerLimitStop s
  | .powerEventClear => Sys2Proof.Machine.execPowerEventClear s
  | .reset b => Sys2Proof.Machine.execReset b s
  | .birnisRd link header => Sys2Proof.Machine.execBirnisRd link header s
  | .birnisWr link header data => Sys2Proof.Machine.execBirnisWr link header data s
  | .birnisAt link header => Sys2Proof.Machine.execBirnisAt link header s
  | .birnisSig link header => Sys2Proof.Machine.execBirnisSig link header s
  | .birnisRsp link header data => Sys2Proof.Machine.execBirnisRsp link header data s
  | .birnisErr link header => Sys2Proof.Machine.execBirnisErr link header s
  | .linkTimeout tid => Sys2Proof.Machine.execLinkTimeout tid s
  | .linkTraining link peer => Sys2Proof.Machine.execLinkTraining link peer s
  | .linkDown link => Sys2Proof.Machine.execLinkDown link s
  | .linksLostExpiry => Sys2Proof.Machine.execLinksLostExpiry s
  | .watchdogExpiry => Sys2Proof.Machine.execWatchdogExpiry s
  | .job r addr => Sys2Proof.Machine.execJob r addr s
  | .rpoint r job point => Sys2Proof.Machine.execRpoint r job point s
  | .rpointComplete job point => Sys2Proof.Machine.execRpointComplete job point s
  | .recover r job lost part => Sys2Proof.Machine.execRecover r job lost part s
  | .fillComplete job fill len => Sys2Proof.Machine.execFillComplete job fill len s
  | .attest r nonce addr => Sys2Proof.Machine.execAttest r nonce addr s
  | .lcrecStart r tag table rec => Sys2Proof.Machine.execLcrecStart r tag table rec s
  | .lcrecStop r tag => Sys2Proof.Machine.execLcrecStop r tag s
  | .waitgraph r addr cap period => Sys2Proof.Machine.execWaitgraph r addr cap period s
  | .waitgraphSample => Sys2Proof.Machine.execWaitgraphSample s
  | .debugAttach r tag sites => Sys2Proof.Machine.execDebugAttach r tag sites s
  | .debugDetach r tag => Sys2Proof.Machine.execDebugDetach r tag s
  | .debugResume r tag => Sys2Proof.Machine.execDebugResume r tag s
  | .mctpControl msg => Sys2Proof.Machine.execMctpControl msg s
  | .mctpUnsupported kind msg => Sys2Proof.Machine.execMctpUnsupported kind msg s
  | .pldmBase msg => Sys2Proof.Machine.execPldmBase msg s
  | .pldmPlatform q => Sys2Proof.Machine.execPldmPlatform q s
  | .pldmFirmwareUpdate msg => Sys2Proof.Machine.execPldmFirmwareUpdate msg s
  | .trst => Sys2Proof.Machine.execTrst s
  | .bypass => Sys2Proof.Machine.execBypass s
  | .samplePreload preload => Sys2Proof.Machine.execSamplePreload preload s
  | .extest => Sys2Proof.Machine.execExtest s
  | .idcode => Sys2Proof.Machine.execIdcode s
  | .adapterAccessComplete tid data => Sys2Proof.Machine.execAdapterAccessComplete tid data s
  | .processEnd proc => Sys2Proof.Machine.execProcessEnd proc s

end Sys2Proof.Machine
end

