-- ==== Sys2Proof/Machine/Step.lean ====
section
/-! DEFINITION. One step: the mover that the agenda names, or a free one, does what it does if it may, and nothing
otherwise; then R38 is applied. And the placing of one instruction from outside. -/

namespace Sys2Proof.Machine

/-- A group's turn: its issue sets execute (R36, R37); an issue that did not take place counts as none (R204, R259, R357). -/
def issueTurn (tag team grp : Nat) (s : State) : Host.Outcome State Fault Refusal :=
  match s.turn tag team grp with
  | none => .next s
  | some (.done s1) => .next (s1.endTurn tag team grp false)
  | some (.wait s1) => .next (s1.endTurn tag team grp false)
  | some (.run s1 i) =>
    onNext (exec i s1) (fun s2 =>
      if s2.passed tag team grp then .next (s2.endTurn tag team grp false) else
      match s.second s2 tag team grp i with
      | none => .next ((s.countIssue s2 tag team grp i none).endTurn tag team grp true)
      | some (.wait _) => .next ((s.countIssue s2 tag team grp i none).endTurn tag team grp true)
      | some (.done s3) => .next ((s.countIssue s3 tag team grp i none).endTurn tag team grp true)
      | some (.run s3 j) => onNext (exec j s3) (fun s4 =>
          .next ((s.countIssue s4 tag team grp i (some (s3.cur.mask, s3.cur.pc, j))).endTurn tag team grp true)))

/-- A queue processor's turn (R280). -/
def hartTurn (n : Nat) (s : State) : Host.Outcome State Fault Refusal :=
  match s.hart? n with
  | none => .fault .noSuchMover
  | some h => match s.hartNext n h with
    | .still s1 => .next s1
    | .run s1 i => exec i s1

/-- A step of the table that is no instruction of memory and no request of the ring happens; the others execute only when fetched. -/
def eventTurn (i : Instr) (s : State) : Host.Outcome State Fault Refusal :=
  if i.encoded || isService i then .next s else exec i s

/-- The next request of the service ring (R297). -/
def serviceTurn (s : State) : Host.Outcome State Fault Refusal :=
  match s.ringNext with
  | .still s1 => .next s1
  | .done s1 => .next s1.ringAdvance
  | .run s1 i => onNext (exec i s1) (fun s2 => .next s2.ringAfter)

/-- What a mover does. -/
def act (a : Act) (s : State) : Host.Outcome State Fault Refusal :=
  match a with
  | .issue tag team grp => issueTurn tag team grp s
  | .hart n => hartTurn n s
  | .ev i => eventTurn i s
  | .elapse n => .next (s.elapse n)
  | .service => serviceTurn s
  | .firmware => .next s.fwRun
  | .job w => .next (jobDo s w)
  | .fill job id => .next (s.fillOn job id)
  | .lose w => .next (s.lose w)
  | .cool tag team grp lane => .next (s.cool tag team grp lane)
  | .strike w => .next (s.strike w)
  | .neighbour d => .next (s.neighbourLost d)
  | .power w => .next (s.measure w)

/-- One step of the machine; at its end a stepped group that has come to rest stops its grid (R357), and R38 is applied. -/
def step (s : State) : Host.Outcome State Fault Refusal :=
  onNext (act s.nextAct.1 s.nextAct.2) (fun t => .next t.stopSteps.settle)

/-- The machine with one instruction placed where the next step fetches it, and that step named next (log 38). -/
def State.withFetchWord (s : State) (nbits w : Nat) : State :=
  if (decodeHart (BitVec.ofNat 32 (w % 2 ^ nbits))).isSome then s.placeHart nbits w else s.placeLane nbits w

end Sys2Proof.Machine
end

