-- ==== Sys2Proof/Safety.lean ====
section
/-! DEFINITION. What statements say of runs, in the words of the rules: when an instruction issues, what it leaves in
registers, what it leaves alone, and the invariants of R38 and of the canonical form of memory. -/

namespace Sys2Proof.Machine

/-- The step answers a next state. -/
def State.GoesOn (s : State) : Prop := ∃ t, step s = .next t

/-- An instruction, or another step of the table, answers a next state of which something holds. -/
def Gives (i : Instr) (s : State) (p : State → Prop) : Prop := ∃ t, exec i s = .next t ∧ p t

/-- R38 holds in every group: where a lane is runnable, some runnable lane has its yielded flag clear. -/
def Group.YieldOk (g : Group) : Prop :=
  g.lanes.any Lane.runnable = true → ∃ l ∈ g.lanes, l.runnable = true ∧ l.yielded = false
def State.YieldOk (s : State) : Prop := ∀ g ∈ s.groups, g.YieldOk

/-- Memory lists its bytes in the one canonical form. -/
def State.memWf (s : State) : Bool := s.dram.wf && s.scratch.wf

/-! ### When an instruction issues -/

/-- An instruction of a three- or five-word form issues with a context: nothing of the set is left to drain, the set is
not empty, the checks against the kernel pass (R35, R358), and no executing lane reads a poisoned register (R255). -/
def Issues (s : State) (opc : Nat) (f : Fields) (e : Env) : Prop :=
  drainFirst s opc f = s ∧ envOf s opc f (Form.len f.form) = some e ∧ e.mask ≠ 0#64 ∧ e.kernelCheck = none ∧
  ∀ l ∈ e.exec, e.spoilt l = false
/-- The same of a one-word form, by its X-form equivalent (R60). -/
def IssuesB (s : State) (opc : Nat) (g : BFields) (e : Env) : Prop :=
  drainFirst s opc (Fields.ofB opc g) = s ∧ envOf s opc (Fields.ofB opc g) 4 = some e ∧ e.mask ≠ 0#64 ∧ e.kernelCheck = none ∧
  ∀ l ∈ e.exec, e.spoilt l = false

/-! ### Registers -/

/-- What a register holds for a lane; a predicate as 0 or 1. -/
def Group.holds (g : Group) (l : Nat) : Dest → Nat
  | .v n => match g.lanes[l]? with
    | some x => (Sparse.get 0#32 x.v n).toNat
    | none => 0
  | .s n => g.sreg n
  | .p n => match g.lanes[l]? with
    | some x => b2n (x.p.getLsbD n)
    | none => 0
  | .none => 0
/-- Whether a destination is an s register. -/
def Dest.isS : Dest → Bool
  | .s _ => true
  | _ => false
/-- A destination that exists for a lane: its stack slot, an s register, one of 96 predicates. -/
def Group.has (g : Group) (l : Nat) : Dest → Bool
  | .v _ => decide (l < g.lanes.length)
  | .s _ => true
  | .p n => decide (l < g.lanes.length) && decide (n < 96)
  | .none => false
/-- What a write leaves in its destination. -/
def Wr.left (w : Wr) : Nat := match w.dest with
  | .p _ => b2n (decide (w.val ≠ 0))
  | _ => w.val % 2 ^ 32

/-- Every register after an instruction of a set: what each executing lane writes is held, and nothing else changed. An
instruction that writes an s register executes once (R42). -/
def Env.Regs (e : Env) (outs : Nat → List Wr) (g : Group) : Prop :=
  (∀ l ∈ e.exec, ∀ w ∈ outs l, e.grp.has l w.dest = true → (w.dest.isS = true → e.uniform = true) → g.holds l w.dest = w.left) ∧
  (∀ l d, (∀ k ∈ e.exec, ∀ w ∈ outs k, w.dest = d → k ≠ l ∧ d.isS = false) → g.holds l d = e.grp.holds l d)
/-- The FP flags that reach a lane: its own, or those of the one execution of a uniform instruction (R42, R100). -/
def Env.flagsTo (e : Env) (fl : Nat → BitVec 5) (l : Nat) : BitVec 5 :=
  if e.uniform then (match e.exec with
    | k :: _ => if e.mask.getLsbD l then fl k else 0#5
    | [] => 0#5)
  else if e.exec.contains l then fl l else 0#5

/-! ### What stays, and the next pc -/

/-- The states of a machine before and after an instruction of one group differ in that group, and in fields named by
giving the state before with those fields changed. -/
def Env.Only (e : Env) (s t : State) : Prop :=
  t = { s with groups := t.groups } ∧
  ∀ tag team n, (tag, team, n) ≠ (e.grid.tag, e.team.idx, e.grp.num) → t.group? tag team n = s.group? tag team n
/-- The group after an instruction, as the state holds it. -/
def Env.grp? (e : Env) (t : State) : Option Group := t.group? e.grid.tag e.team.idx e.grp.num
/-- A group keeps all but its lanes and s registers, with the order and the poison of these. -/
def Group.Same (a b : Group) : Prop :=
  b = { a with lanes := b.lanes, s := b.s, sAt := b.sAt, spoilt := b.spoilt } ∧ b.lanes.length = a.lanes.length
/-- A lane keeps its frames, window and all that is neither register, flag nor flow. -/
def Lane.Same (a b : Lane) : Prop :=
  b = { a with st := b.st, yielded := b.yielded, pc := b.pc, v := b.v, spoilt := b.spoilt, p := b.p, lc0 := b.lc0, lc1 := b.lc1, lc2 := b.lc2,
               loops := b.loops, fstat := b.fstat, since := b.since, irrev := b.irrev, xfer := b.xfer, closer := b.closer }
/-- Whether no hardware loop of a lane ends at an address (R55). -/
def Lane.noEdge (l : Lane) (pc : DWord) : Bool := match l.loops with
  | [] => true
  | r :: _ => !(r.last == pc && r.depth == l.frames.length)
/-- The lanes after an instruction that transfers nowhere: those of the set stand at the next instruction, but for the
back edge of a hardware loop; the others are untouched (R122). -/
def Env.Steps (e : Env) (g : Group) : Prop :=
  e.grp.Same g ∧
  ∀ l (h : l < e.grp.lanes.length), ∃ x, g.lanes[l]? = some x ∧
    (e.mask.getLsbD l = false → x = e.grp.lanes[l]) ∧
    (e.mask.getLsbD l = true → (e.grp.lanes[l]).Same x ∧ x.since = (e.grp.lanes[l]).since + 1 ∧
      (e.f.sw = false → impliesMarker e.opc = false → x.st = (e.grp.lanes[l]).st) ∧
      ((e.grp.lanes[l]).noEdge e.pc = true → x.pc = e.pc + BitVec.ofNat 64 e.len ∧ x.yielded = (e.grp.lanes[l]).yielded ∧
        x.loops = (e.grp.lanes[l]).loops ∧ x.lc0 = (e.grp.lanes[l]).lc0 ∧ x.lc1 = (e.grp.lanes[l]).lc1 ∧ x.lc2 = (e.grp.lanes[l]).lc2))

/-- The group after an instruction that changes lanes only: registers, predicates, waiting instances and convergence
registers stay, lanes outside the set stay, and each lane of the set is as a rule says. -/
def Env.Lanes (e : Env) (t : State) (m : Nat → Lane → Lane → Prop) : Prop :=
  ∃ g, e.grp? t = some g ∧ g.s = e.grp.s ∧ g.cv = e.grp.cv ∧ g.insts = e.grp.insts ∧ g.lanes.length = e.grp.lanes.length ∧
  ∀ l x, e.grp.lanes[l]? = some x → ∃ y, g.lanes[l]? = some y ∧ y.v = x.v ∧ y.p = x.p ∧
    (e.mask.getLsbD l = false → y = x) ∧ (e.mask.getLsbD l = true → m l x y)
/-- The same, and nothing else of the machine changes. -/
def Env.Moves (e : Env) (s t : State) (m : Nat → Lane → Lane → Prop) : Prop := e.Only s t ∧ e.Lanes t m
/-- A lane at an address: it is as before but for the pc, a state that may now be draining, and what is counted of the
instructions since its canonical point. -/
def Lane.At (a b : Lane) (pc : DWord) : Prop :=
  b = { a with st := b.st, since := b.since, irrev := b.irrev, xfer := b.xfer, closer := b.closer, pc := pc } ∧
  (b.st = a.st ∨ (a.st = .running ∧ b.st = .draining))
/-- The address after the instruction. -/
def Env.nextPc (e : Env) : DWord := e.pc + BitVec.ofNat 64 e.len
/-- A lane comes to an address, where no loop ends (R55). -/
def Env.Goes (e : Env) (a b : Lane) (t : DWord) : Prop := a.noEdge e.pc = true → a.At b t
/-- A lane falls through, where no loop ends. -/
def Env.Falls (e : Env) (a b : Lane) : Prop := e.Goes a b e.nextPc

/-- Faults of an instruction are taken (R296, R332): they join the grid's, the group issues no more, and nothing else
changes: the instruction has no effect in any lane. -/
def Env.Faults (e : Env) (s t : State) (recs : List FaultRec) : Prop :=
  t = { s with grids := t.grids, groups := t.groups } ∧
  t.grid? e.grid.tag = some { e.grid with faults := e.grid.faults ++ recs } ∧
  (∀ tag, tag ≠ e.grid.tag → t.grid? tag = s.grid? tag) ∧
  e.grp? t = some { e.grp with stopped := true } ∧
  ∀ tag team n, (tag, team, n) ≠ (e.grid.tag, e.team.idx, e.grp.num) → t.group? tag team n = s.group? tag team n
/-- The record of a lane's fault (R333). -/
def Env.record (e : Env) (l code addr : Nat) : FaultRec :=
  { code := code, team := e.team.idx, grp := e.grp.num, lane := l, ord := (e.lane l).snap.ord, pc := e.pc, addr := addr, extra := 0 }

/-- Addresses that do not translate yet (R186, R259): one translation fault joins the machine's, for the lanes and addresses that missed,
the group issues nothing until it is over, and nothing else changes. -/
def Env.Held (e : Env) (s t : State) (k : Acc) (miss : List (Nat × Nat × Bool)) : Prop :=
  t = { s with groups := t.groups, tfaults := t.tfaults, nextId := t.nextId } ∧
  (∀ tag team n, (tag, team, n) ≠ (e.grid.tag, e.team.idx, e.grp.num) → t.group? tag team n = s.group? tag team n) ∧
  ∃ f, t.tfaults = s.tfaults ++ [f] ∧ e.grp? t = some { e.grp with hold := some f.id } ∧ f.proc = e.grid.proc ∧ f.k = k ∧
    f.who = .issue e.grid.tag e.team.idx e.grp.num e.mask e.pc ∧ f.lanes = miss.map (fun m => (m.1, m.2.1)) ∧
    ∀ l va mig rest, miss = (l, va, mig) :: rest → f.va = va ∧ f.mig = mig ∧ f.device = (mig || s.isServed e.grid.proc va)
/-- What stops an instruction that asks for addresses before any of it is performed: an address that does not translate holds the set
(R259); else the failing lanes fault, each with its code and address (R186), and those whose value is not admitted with
ILLEGAL_OPERAND. -/
def StopsAt (i : Fields → Instr) (opc : Nat) (sp : Env → Space) (size : Env → Nat) (k : Acc) (lanes : Env → List Nat)
    (told bad : Env → Nat → Bool) : Prop :=
  ∀ s f e cs s1, Issues s opc f e → e.chkAll (sp e) (size e) k e.addr (lanes e) s = (cs, s1) →
    let miss := cs.filterMap (fun x => match x.2 with
      | .miss va mig => some (x.1, va, mig)
      | _ => none)
    let recs := cs.filterMap (fun x => match x.2 with
        | .fault c a => if told e x.1 then some (e.record x.1 c a) else none
        | _ => none) ++
      cs.filterMap (fun x => match x.2 with
        | .ok _ => if bad e x.1 then some (e.record x.1 0x02 0) else none
        | _ => none)
    (miss ≠ [] → Gives (i f) s (fun t => e.Held s1 t k miss)) ∧
    (miss = [] → recs ≠ [] → Gives (i f) s (fun t => e.Faults s1 t recs))

/-! ### Results -/

/-- A fixed-latency result (R77): registers and flags as the rule gives them for every executing lane, all other state as
it was but for the lanes' flow. -/
def Env.Fixed (e : Env) (s t : State) (out : Nat → Out) : Prop :=
  e.Only s t ∧ ∃ g, e.grp? t = some g ∧ e.Steps g ∧ e.Regs (fun l => (out l).writes) g ∧
  ∀ l x y, e.grp.lanes[l]? = some x → g.lanes[l]? = some y → y.fstat = x.fstat ||| e.flagsTo (fun k => (out k).flags) l
/-- No executing lane raises a flag that traps (R101), or a fault. -/
def Env.NoTrap (e : Env) (out : Nat → Out) : Prop :=
  ∀ l ∈ e.exec, (out l).fault = none ∧ (out l).flags &&& e.grid.kcb.fptrap = 0#5
/-- An instruction of fixed latency completes with what a rule gives, from every state in which it issues and traps nowhere. -/
def CompletesFixed (i : Fields → Instr) (opc : Nat) (out : Env → Nat → Out) : Prop :=
  ∀ s f e, Issues s opc f e → e.NoTrap (out e) → Gives (i f) s (fun t => e.Fixed s t (out e))
def CompletesFixedB (i : BFields → Instr) (opc : Nat) (out : Env → Nat → Out) : Prop :=
  ∀ s g e, IssuesB s opc g e → e.NoTrap (out e) → Gives (i g) s (fun t => e.Fixed s t (out e))

/-- A variable-latency result (R78): one more result is outstanding for the executing lanes (for the set, when uniform),
holding the writes and flags that the rule gives; no register has changed yet. -/
def Env.Later (e : Env) (s t : State) (out : Nat → Out) : Prop :=
  t = { s with groups := t.groups, results := t.results, nextId := t.nextId } ∧
  (if e.exec = [] then t.results = s.results else
    ∃ r, t.results = s.results ++ [r] ∧ r.tag = e.grid.tag ∧ r.team = e.team.idx ∧ r.grp = e.grp.num ∧ r.pc = e.pc ∧
      r.issue = s.nextId ∧ r.uni = e.uniform ∧ r.coll = false ∧ r.lanes = (if e.uniform then e.mask else maskOf e.exec) ∧ r.writes = e.exec.map (fun l => (l, (out l).writes)) ∧
      r.flags = e.exec.map (fun l => (l, (out l).flags))) ∧
  ∃ g, e.grp? t = some g ∧ e.Steps g ∧ ∀ l d, g.holds l d = e.grp.holds l d
def CompletesLater (i : Fields → Instr) (opc : Nat) (out : Env → Nat → Out) : Prop :=
  ∀ s f e, Issues s opc f e → (∀ l ∈ e.exec, (out e l).fault = none) → Gives (i f) s (fun t => e.Later s t (out e))

/-- One lane's writes of field D: `span` registers of a value, the first with the low bits; with FP flags. -/
def Env.gives (e : Env) (l span val : Nat) (fl : BitVec 5 := 0#5) : Out := { writes := e.wrD l span val, flags := fl }
/-- A predicate in field D (R134). -/
def Env.givesP (e : Env) (b : Bool) (fl : BitVec 5 := 0#5) : Out := { writes := wrP e.f.d b, flags := fl }

/-! ### Floating-point results as the rules give them -/

/-- `choose` of R96: n is the integer that a mode chooses for the magnitude x / u of a number of a sign. -/
def Chosen (mode : Rnd) (neg : Bool) (x u n : Nat) : Prop :=
  let floor : Prop := n * u ≤ x ∧ x < (n + 1) * u
  let ceil : Prop := x ≤ n * u ∧ n * u < x + u
  match mode with
  | .rne => 2 * x ≤ (2 * n + 1) * u ∧ 2 * n * u ≤ 2 * x + u ∧ (2 * x = (2 * n + 1) * u ∨ 2 * n * u = 2 * x + u → n % 2 = 0)
  | .rtz => floor
  | .rup => if neg then floor else ceil
  | .rdn => if neg then ceil else floor

/-- R156: one FP32 rounding of an exact value. -/
def Env.rounded (e : Env) (l : Nat) (v : Val × Flags) : Out :=
  let r := round .fp32 (Rnd.ofField e.f.rnd) e.f.sat v.1
  e.gives l 1 r.1 (r.2 ||| v.2)
def Env.faddOut (e : Env) (l : Nat) : Out := e.rounded l (Val.add e.rnd (Fmt.fp32.val (e.fA l)) (Fmt.fp32.val (e.fB l)))
def Env.fsubOut (e : Env) (l : Nat) : Out := e.rounded l (Val.add e.rnd (Fmt.fp32.val (e.fA l)) (Fmt.fp32.val (e.fB l)).negate)
def Env.fmulOut (e : Env) (l : Nat) : Out := e.rounded l (Val.mul (Fmt.fp32.val (e.fA l)) (Fmt.fp32.val (e.fB l)))
def Env.ffmaOut (e : Env) (l : Nat) : Out :=
  e.rounded l (Val.fma e.rnd (Fmt.fp32.val (e.fA l)) (Fmt.fp32.val (e.fB l)) (Fmt.fp32.val (e.fC l)))
/-- R159: the value times a power of two. -/
def Env.fscaleOut (e : Env) (l : Nat) : Out := e.rounded l ((match Fmt.fp32.val (e.fA l) with
  | .fin r => .fin { r with exp := r.exp + sgn 32 (e.b32 l) }
  | v => v), 0#5)
/-- R157: FMIN, and with `true` FMAX. -/
def Env.fselOut (max : Bool) (e : Env) (l : Nat) : Out := let r := fminmax .fp32 max (e.fA l) (e.fB l); e.gives l 1 r.1 r.2
/-- R158: the value rounded to an integer; a zero and an infinity stay as they are. -/
def Env.frndOut (e : Env) (l : Nat) : Out := match Fmt.fp32.val (e.fA l) with
  | .nan s => e.gives l 1 0x7FC00000 (if s then flInvalid else 0#5)
  | .inf _ => e.gives l 1 (e.fA l)
  | .fin r => e.gives l 1 (if r.mant = 0 then e.fA l else
      (round .fp32 .rne false (.fin ⟨r.neg, chooseInt e.rnd r.neg (r.split 0).1 (r.split 0).2, 0, false⟩)).1)
/-- R160: the format of a packed instruction, and its two results in one register. -/
def Env.halfFmt (e : Env) : Fmt := if e.sub.testBit 0 then .bf16 else .fp16
def Env.both (e : Env) (l : Nat) (f : Nat → Nat × Flags) : Out := e.gives l 1 ((f 0).1 + (f 1).1 * 65536) ((f 0).2 ||| (f 1).2)
def Env.halves (e : Env) (l : Nat) (v : Nat → Val × Flags) : Out := e.both l (fun i =>
  let r := round e.halfFmt e.rnd e.f.sat (v i).1
  (r.1, r.2 ||| (v i).2))
def Env.haddOut (e : Env) (l : Nat) : Out := e.halves l (fun i => Val.add e.rnd (e.halfFmt.val (e.eA l i)) (e.halfFmt.val (e.eB l i)))
def Env.hmulOut (e : Env) (l : Nat) : Out := e.halves l (fun i => Val.mul (e.halfFmt.val (e.eA l i)) (e.halfFmt.val (e.eB l i)))
def Env.hfmaOut (e : Env) (l : Nat) : Out :=
  e.halves l (fun i => Val.fma e.rnd (e.halfFmt.val (e.eA l i)) (e.halfFmt.val (e.eB l i)) (e.halfFmt.val (e.eC l i)))
def Env.hselOut (max : Bool) (e : Env) (l : Nat) : Out := e.both l (fun i => fminmax e.halfFmt max (e.eA l i) (e.eB l i))
/-- R164 to R167: the formats of a conversion, and the results. -/
def cvtFmt (n : Nat) : Fmt := if n = 0 then .fp32 else if n = 1 then .fp16 else .bf16
def cvtSmall (n : Nat) : Fmt := if n = 1 then .fp16 else if n = 2 then .bf16 else if n = 3 then .e4m3 else .e5m2
def Env.fcvtOut (e : Env) (l : Nat) : Out :=
  let f := cvtSmall (e.sub % 8)
  if e.sub.testBit 3 then
    let r := round f e.rnd e.f.sat (Fmt.fp32.val (signOps 32 (e.ctlBit 3) (e.ctlBit 0) (e.a32 l)))
    e.gives l 1 r.1 r.2
  else
    let x := if f.width = 16 then selHalf (modSel e.f.moda) (e.a32 l) else selByte (modSel e.f.moda) (e.a32 l)
    let r := round .fp32 .rne false (f.val (signOps f.width (e.ctlBit 3) (e.ctlBit 0) x))
    e.gives l 1 r.1 r.2
def Env.f2iOut (e : Env) (l : Nat) : Out :=
  let f := cvtFmt (e.sub / 4)
  let v := if e.sub / 4 = 0 then e.a32 l else selHalf (modSel e.f.moda) (e.a32 l)
  let r := roundInt e.wid (!e.z) e.rnd e.f.sat (f.val (signOps f.width (e.ctlBit 3) (e.ctlBit 0) v))
  e.gives l (subSpan e.sub) r.1 r.2
def Env.i2fOut (e : Env) (l : Nat) : Out :=
  let r := round (cvtFmt (e.sub / 4)) e.rnd e.f.sat (.fin ⟨decide (e.svA l < 0), (e.svA l).natAbs, 0, false⟩)
  e.gives l 1 r.1 r.2
def Env.cvtpkOut (e : Env) (l : Nat) : Out :=
  let f := cvtSmall (e.sub % 8)
  let a := round f e.rnd e.f.sat (Fmt.fp32.val (signOps 32 (e.ctlBit 3) (e.ctlBit 0) (e.a32 l)))
  let b := round f e.rnd e.f.sat (Fmt.fp32.val (e.b32 l))
  let c := e.c32 l
  e.gives l 1 (if f.width = 16 then a.1 + b.1 * 2 ^ 16
    else if e.sub.testBit 3 = false then c / 2 ^ 16 * 2 ^ 16 + a.1 + b.1 * 2 ^ 8
    else c % 2 ^ 16 + a.1 * 2 ^ 16 + b.1 * 2 ^ 24) (a.2 ||| b.2)
/-- R135, R136: FCMP's comparison of two encodings of one format; a NaN is unordered. -/
def Env.fcmpOut (e : Env) (l : Nat) : Out :=
  let fmt : Fmt := if e.sub % 4 = 0 then .fp32 else if e.sub % 4 = 1 then .fp16 else .bf16
  let src (m : BitVec 10) (v : Nat) : Nat := if e.sub % 4 = 0 then v else if modSel m = 2 then v / 65536 % 65536 else v % 65536
  let a := fmt.val (src e.f.moda (e.a32 l))
  let b := fmt.val (src e.f.modb (e.b32 l))
  let cond := e.sub / 4
  match a, b with
  | .nan x, .nan y => e.givesP (decide (cond = 1 ∨ cond = 6)) (if (x || y) = true ∨ (2 ≤ cond ∧ cond ≤ 5) then flInvalid else 0#5)
  | .nan x, _ => e.givesP (decide (cond = 1 ∨ cond = 6)) (if x = true ∨ (2 ≤ cond ∧ cond ≤ 5) then flInvalid else 0#5)
  | _, .nan y => e.givesP (decide (cond = 1 ∨ cond = 6)) (if y = true ∨ (2 ≤ cond ∧ cond ≤ 5) then flInvalid else 0#5)
  | _, _ => e.givesP (match cond, Val.cmp a b with
    | 0, .eq => true | 1, .lt => true | 1, .gt => true | 2, .lt => true | 3, .lt => true | 3, .eq => true
    | 4, .gt => true | 5, .gt => true | 5, .eq => true | 6, _ => false | 7, _ => true | _, _ => false)

end Sys2Proof.Machine
end

