-- ==== Sys2Proof/Certificates/Slice0/Obligations.lean ====
section
/-! DEFINITION. The statements for the provers, in the order of the opcode table's families. -/

section
open Sys2Proof Sys2Proof.Machine

/-! ### Integer, logic, moves, packed integers -/

/-- R140, R142: every integer arithmetic instruction completes with `wr` of the exact result, in all forms; with a carry, a
predicate gives it and takes the carry or borrow out. -/
def Obligations.IntegerArithmetic : Prop :=
  (CompletesFixedB .iadd 0x20 (fun e l => e.gives l (subSpan e.sub) (wrVal e.f.sat e.z e.wid (e.svA l + e.svB l))) ∧
   CompletesFixed .iaddExt 0x20 (fun e l => e.gives l (subSpan e.sub) (wrVal e.f.sat e.z e.wid (e.svA l + e.svB l))) ∧
   CompletesFixedB .isub 0x21 (fun e l => e.gives l (subSpan e.sub) (wrVal e.f.sat e.z e.wid (e.svA l - e.svB l))) ∧
   CompletesFixed .isubExt 0x21 (fun e l => e.gives l (subSpan e.sub) (wrVal e.f.sat e.z e.wid (e.svA l - e.svB l))) ∧
   CompletesFixedB .imul 0x23 (fun e l => e.gives l 1 (wrap 32 (e.svA l * e.svB l))) ∧
   CompletesFixed .imulExt 0x23 (fun e l => e.gives l 1 (wrap 32 (e.svA l * e.svB l))) ∧
   CompletesFixed .imulh 0x24 (fun e l => e.gives l 1 (wrap 32 ((e.svA l * e.svB l) / 2 ^ 32))) ∧
   CompletesFixed .imad 0x25 (fun e l => e.gives l 1 (wrap 32 (e.svA l * e.svB l + e.svC32 l))) ∧
   CompletesFixed .imadw 0x26 (fun e l => e.gives l 2 (wrap 64 (e.svA l * e.svB l + (e.c64 l : Int)))) ∧
   CompletesFixed .imin 0x29 (fun e l => e.gives l (subSpan e.sub) (wrVal e.f.sat e.z e.wid (if e.svB l < e.svA l then e.svB l else e.svA l))) ∧
   CompletesFixed .imax 0x2A (fun e l => e.gives l (subSpan e.sub) (wrVal e.f.sat e.z e.wid (if e.svA l < e.svB l then e.svB l else e.svA l))) ∧
   CompletesFixed .iabs 0x2B (fun e l => e.gives l (subSpan e.sub) (wrVal e.f.sat e.z e.wid ((sgn e.wid (e.uA l)).natAbs : Int))) ∧
   CompletesFixed .ineg 0x2C (fun e l => e.gives l (subSpan e.sub) (wrVal e.f.sat e.z e.wid (-(sgn e.wid (e.uA l)))))) ∧
  (CompletesFixed .iaddx 0x22 (fun e l =>
     let cin : Int := if e.sub.testBit 3 = false ∧ (e.lane l).p.getLsbD e.f.c.toNat = true then 1 else 0
     let a : Int := e.uA32 e.z l
     let b : Int := e.uB32 e.z l
     let x := if e.sub.testBit 2 then a - b - cin else a + b + cin
     { writes := e.wrD l 1 (wrap 32 x) ++ [{ dest := .p e.f.c.toNat, val := b2n (decide (x < 0 ∨ 2 ^ 32 ≤ x)) }] }))

/-- R94, R121: `sv` and `wr`. A pattern reads as itself or less 2^w; a result keeps its value where the width holds it,
clamps under SAT, and wraps otherwise. R62 to R70, R43, R51, R134, R184: how a source is formed: by a figure the source lane, which
must be of the issue set, the register in that lane's window (a pair, low half first), the literal or the lane index, then the
element select, then the absolute value, then the sign; which lanes execute; and where a result goes. That the source lane of a figure
on the lane index must be of the set too is the model's choice (log 19). -/
def Obligations.WidthAndSaturation : Prop :=
  (∀ w u : Nat, 0 < w → u < 2 ^ w → sv true w u = u ∧ -(2 ^ (w - 1) : Int) ≤ sv false w u ∧ sv false w u < 2 ^ (w - 1) ∧
    ((u : Int) - sv false w u = 0 ∨ (u : Int) - sv false w u = 2 ^ w)) ∧
  (∀ (sat z : Bool) (w : Nat) (x : Int), 0 < w → wrVal sat z w x < 2 ^ w ∧
    (sat = false → ∃ k : Int, (wrVal sat z w x : Int) = x + k * 2 ^ w) ∧
    (sat = true → z = true → (wrVal sat z w x : Int) = if x < 0 then 0 else if 2 ^ w ≤ x then 2 ^ w - 1 else x) ∧
    (sat = true → z = false → sgn w (wrVal sat z w x) =
      if x < -(2 ^ (w - 1)) then -(2 ^ (w - 1)) else if 2 ^ (w - 1) ≤ x then 2 ^ (w - 1) - 1 else x)) ∧
  (∀ w l p : Nat, figLane w l 0 p = l ∧ figLane w l 1 p = (l + p) % w ∧ figLane w l 2 p = w - 1 - l ∧
    figLane w l 3 p = l - l % 8 + octFig p (l % 8) ∧ figLane w l 4 p = p ∧ figLane w l 5 p = l ^^^ 2 ^ p) ∧
  ((List.range 8).map (fun j => (List.range 8).map (octFig j)) =
    [[1, 0, 3, 2, 5, 4, 7, 6], [2, 3, 0, 1, 6, 7, 4, 5], [4, 5, 6, 7, 0, 1, 2, 3], [7, 6, 5, 4, 3, 2, 1, 0],
     [1, 2, 3, 4, 5, 6, 7, 0], [7, 0, 1, 2, 3, 4, 5, 6], [0, 2, 4, 6, 1, 3, 5, 7], [0, 4, 1, 5, 2, 6, 3, 7]]) ∧
  (∀ (e : Env) (l : Nat) (x : BitVec 8) (m : BitVec 10) (span : Nat),
    let fig := m.toNat / 8 % 8
    let src := figLane e.w l fig (m.toNat % 8)
    let regs (r : Nat → Word) : Prop := (span = 1 → e.raw l x m span = (r 0).toNat) ∧
      (span = 2 → e.raw l x m span = (r 0).toNat + 2 ^ 32 * (r 1).toNat)
    (fig ≠ 0 → e.mask.getLsbD src = false → e.raw l x m span = 0) ∧
    (fig = 0 ∨ e.mask.getLsbD src = true →
      (x.toNat < 0xC0 → regs (fun k => Sparse.get 0#32 (e.lane src).v ((e.lane src).w0 + x.toNat + k))) ∧
      (0xC0 ≤ x.toNat → x.toNat < 0xF0 → regs (fun k => Sparse.get 0#32 e.grp.s (x.toNat - 0xC0 + k))) ∧
      (x = 0xF0#8 → e.raw l x m span = 0) ∧ (x = 0xF1#8 → e.raw l x m span = src) ∧
      (x = 0xF2#8 → e.raw l x m span = e.f.lit.toNat % 2 ^ (32 * span)))) ∧
  (∀ (z : Bool) (v : Nat), v < 2 ^ 32 →
    let part (w k : Nat) : Nat := v / 2 ^ (w * k) % 2 ^ w
    let ext (w k y : Nat) : Prop := y < 2 ^ 32 ∧ if z then y = part w k else sgn 32 y = sgn w (part w k)
    let swap := v % 2 ^ 16 * 2 ^ 16 + v / 2 ^ 16
    (selScalar z 0 v = v ∧ selScalar z 3 v = swap ∧ (∀ k < 2, ext 16 k (selScalar z (1 + k) v)) ∧
      (∀ k < 4, ext 8 k (selScalar z (4 + k) v)) ∧ ∀ k < 8, ext 4 k (selScalar z (8 + k) v)) ∧
    (selHalves 0 v = v ∧ selHalves 3 v = swap ∧ ∀ k < 2, selHalves (1 + k) v = part 16 k + part 16 k * 2 ^ 16) ∧
    (selBytes 0 v = v ∧ ∀ k < 4, selBytes (4 + k) v = part 8 k * 0x01010101) ∧
    (selHalf 0 v = part 16 0 ∧ (∀ k < 2, selHalf (1 + k) v = part 16 k)) ∧
    selByte 0 v = part 8 0 ∧ (∀ k < 4, selByte (4 + k) v = part 8 k)) ∧
  (∀ (w x : Nat) (abs neg : Bool), 0 < w → x < 2 ^ w →
    signOps w abs neg x = x % 2 ^ (w - 1) + (if (decide (2 ^ (w - 1) ≤ x) && !abs) != neg then 2 ^ (w - 1) else 0)) ∧
  (∀ (e : Env) (l : Nat),
    let sel (m : BitVec 10) : Nat := m.toNat / 64
    let z := e.f.sub.getLsbD 0
    let wide := e.f.sub.getLsbD 1
    (e.z = z ∧ e.wid = (if wide then 64 else 32) ∧ subSpan e.sub = (if wide then 2 else 1)) ∧
    (e.a32 l = e.raw l e.f.a e.f.moda 1 ∧ e.b32 l = e.raw l e.f.b e.f.modb 1 ∧ e.c32 l = e.raw l e.f.c e.f.modc 1 ∧
     e.a64 l = e.raw l e.f.a e.f.moda 2 ∧ e.b64 l = e.raw l e.f.b e.f.modb 2 ∧ e.c64 l = e.raw l e.f.c e.f.modc 2) ∧
    (e.uA l = (if wide then e.a64 l else selScalar z (sel e.f.moda) (e.a32 l)) ∧
     e.uB l = (if wide then e.b64 l else selScalar z (sel e.f.modb) (e.b32 l)) ∧
     e.svA l = sv z e.wid (e.uA l) ∧ e.svB l = sv z e.wid (e.uB l) ∧ e.svC32 l = sv z 32 (e.uC32 z l)) ∧
    (∀ y, e.uA32 y l = selScalar y (sel e.f.moda) (e.a32 l) ∧ e.uB32 y l = selScalar y (sel e.f.modb) (e.b32 l) ∧
     e.uC32 y l = selScalar y (sel e.f.modc) (e.c32 l)) ∧
    (e.hA l = selHalves (sel e.f.moda) (e.a32 l) ∧ e.hB l = selHalves (sel e.f.modb) (e.b32 l) ∧ e.hC l = selHalves (sel e.f.modc) (e.c32 l)) ∧
    (e.yA l = selBytes (sel e.f.moda) (e.a32 l) ∧ e.yB l = selBytes (sel e.f.modb) (e.b32 l) ∧ e.yC l = selBytes (sel e.f.modc) (e.c32 l)) ∧
    (e.fA l = signOps 32 (e.f.ctl.getLsbD 3) (e.f.ctl.getLsbD 0) (e.a32 l) ∧ e.fB l = signOps 32 (e.f.ctl.getLsbD 4) (e.f.ctl.getLsbD 1) (e.b32 l) ∧
     e.fC l = signOps 32 false (e.f.ctl.getLsbD 2) (e.c32 l)) ∧
    (∀ i, e.eA l i = signOps 16 (e.f.ctl.getLsbD 3) (e.f.ctl.getLsbD 0) (e.hA l / 2 ^ (16 * i) % 2 ^ 16) ∧
     e.eB l i = signOps 16 (e.f.ctl.getLsbD 4) (e.f.ctl.getLsbD 1) (e.hB l / 2 ^ (16 * i) % 2 ^ 16) ∧
     e.eC l i = signOps 16 false (e.f.ctl.getLsbD 2) (e.hC l / 2 ^ (16 * i) % 2 ^ 16)) ∧
    (e.rnd = if e.f.rnd = 0#2 then .rne else if e.f.rnd = 1#2 then .rtz else if e.f.rnd = 2#2 then .rup else .rdn) ∧
    (∀ x : BitVec 8, e.predSrc l x =
      ((decide (x.toNat % 128 = 127) || (e.lane l).p.getLsbD (x.toNat % 128)) != decide (128 ≤ x.toNat))) ∧
    (e.addr l = (e.a64 l + if e.f.form = .xl then e.f.lit.toNat else 0) % 2 ^ 64)) ∧
  (∀ e : Env,
    (∀ l, e.guard l = (decide (e.f.prd.toNat = 127) || (e.lane l).p.getLsbD e.f.prd.toNat != e.f.pn)) ∧
    (∀ l, (l ∈ e.set ↔ l < 64 ∧ l < e.w ∧ e.mask.getLsbD l = true) ∧ (l ∈ e.perf ↔ l ∈ e.set ∧ e.guard l = true)) ∧
    e.set.Pairwise (· < ·) ∧ e.perf.Pairwise (· < ·) ∧
    (e.uniform = true ↔ 0xC0 ≤ e.f.d.toNat ∧ e.f.d.toNat < 0xF0 ∧
      ∃ n span v s z, entry e.opc = some n ∧ (n.roles e.f.sub.toNat).1 = .dst span v s z) ∧
    e.exec = (if e.uniform then e.set.take 1 else e.perf)) ∧
  (∀ (e : Env) (l val : Nat),
    (∀ k, e.destAt l e.f.d k = (if e.f.d.toNat < 0xC0 then .v ((e.lane l).w0 + e.f.d.toNat + k)
      else if e.f.d.toNat < 0xF0 then .s (e.f.d.toNat - 0xC0 + k) else .none)) ∧
    e.wrD l 1 val = [{ dest := e.destAt l e.f.d 0, val := val % 2 ^ 32 }] ∧
    e.wrD l 2 val = [{ dest := e.destAt l e.f.d 0, val := val % 2 ^ 32 }, { dest := e.destAt l e.f.d 1, val := val / 2 ^ 32 % 2 ^ 32 }] ∧
    ∀ b, wrP e.f.d b = if e.f.d.toNat < 96 then [{ dest := .p e.f.d.toNat, val := if b then 1 else 0 }] else [])

/-- R141: truncating division and remainder, with the given results for a zero divisor; no fault, no flag; the result
returns later (R78). -/
def Obligations.Division : Prop :=
  CompletesLater .idiv 0x27 (fun e l => e.gives l (subSpan e.sub)
    (if e.svB l = 0 then 2 ^ e.wid - 1 else wrap e.wid (Int.tdiv (e.svA l) (e.svB l)))) ∧
  CompletesLater .irem 0x28 (fun e l => e.gives l (subSpan e.sub)
    (if e.svB l = 0 then e.uA l else wrap e.wid (e.svA l - e.svB l * Int.tdiv (e.svA l) (e.svB l))))

/-- R143: the shifts, by the low byte of the 32-bit source b, whose element select does not follow Z. -/
def Obligations.Shifts : Prop :=
  let n (e : Env) (l : Nat) : Nat := e.uB32 true l % 256
  let shl (e : Env) (l : Nat) : Out := e.gives l (subSpan e.sub) (if n e l < e.wid then e.uA l * 2 ^ n e l % 2 ^ e.wid else 0)
  let shr (e : Env) (l : Nat) : Out := e.gives l (subSpan e.sub) (if n e l < e.wid then e.uA l / 2 ^ n e l else 0)
  let sar (e : Env) (l : Nat) : Out := e.gives l (subSpan e.sub) (wrap e.wid (sgn e.wid (e.uA l) / 2 ^ min (n e l) (e.wid - 1)))
  CompletesFixedB .shl 0x2D shl ∧ CompletesFixed .shlExt 0x2D shl ∧ CompletesFixedB .shr 0x2E shr ∧
  CompletesFixed .shrExt 0x2E shr ∧ CompletesFixedB .sar 0x2F sar ∧ CompletesFixed .sarExt 0x2F sar

/-- R144, R146, R148: rotation and the funnel shift; selection by a table for each bit, f1 (in CTL) where c has the bit set, f0
(in SUB) elsewhere; a field's place is the low byte of b and its length the next. -/
def Obligations.RotatesSelectsAndFields : Prop :=
  (CompletesFixed .rot 0x30 (fun e l =>
     let n := if subOp e.sub = 1 then (32 - e.uB32 e.z l % 32) % 32 else e.uB32 e.z l % 32
     e.gives l 1 ((e.uA32 e.z l * 2 ^ n ||| e.uA32 e.z l / 2 ^ (32 - n)) % 2 ^ 32)) ∧
   CompletesFixed .fshf 0x31 (fun e l =>
     let n := e.uC32 e.z l % 32
     let x := e.uB32 e.z l * 2 ^ 32 + e.uA32 e.z l
     e.gives l 1 ((if subOp e.sub = 1 then x / 2 ^ n else x * 2 ^ n % 2 ^ 64 / 2 ^ 32) % 2 ^ 32))) ∧
  (∃ d : Env → Nat → Nat,
     (∀ e l, d e l < 2 ^ 32 ∧ ∀ i < 32, (d e l).testBit i =
       (if (e.uC32 true l).testBit i then e.f.ctl.toNat else e.sub).testBit (((e.uA32 true l).testBit i).toNat + 2 * ((e.uB32 true l).testBit i).toNat)) ∧
     CompletesFixed .bfsel 0x36 (fun e l => e.gives l 1 (d e l))) ∧
  (let len (b : Nat) : Nat := if 32 ≤ b % 256 ∨ b / 256 % 256 = 0 then 0 else min (b / 256 % 256) (32 - b % 256)
   CompletesFixed .bfx 0x3B (fun e l =>
     let b := e.uB32 e.z l
     let f := e.uA32 e.z l / 2 ^ (b % 256) % 2 ^ len b
     e.gives l 1 (wrap 32 (if e.z = false ∧ 0 < len b ∧ 2 ^ (len b - 1) ≤ f then (f : Int) - 2 ^ len b else f))) ∧
   CompletesFixed .bfi 0x3C (fun e l =>
     let b := e.uB32 e.z l
     let m := (2 ^ len b - 1) * 2 ^ (b % 256)
     e.gives l 1 ((e.uC32 e.z l &&& (2 ^ 32 - 1 - m) ||| (e.uA32 e.z l % 2 ^ len b * 2 ^ (b % 256))) % 2 ^ 32)))

/-- R145: a value whose bit i, below w, is the operation of the sources' bits; OP is 0. -/
def Obligations.Bitwise : Prop :=
  let bitwise (op : Bool → Bool → Bool) (b : BFields → Instr) (x : Fields → Instr) (opc : Nat) : Prop :=
    ∃ d : Env → Nat → Nat,
      (∀ e, ∀ l ∈ e.exec, d e l < 2 ^ e.wid ∧ ∀ i < e.wid, (d e l).testBit i = op ((e.uA l).testBit i) ((e.uB l).testBit i)) ∧
      CompletesFixedB b opc (fun e l => e.gives l (subSpan e.sub) (d e l)) ∧
      CompletesFixed x opc (fun e l => e.gives l (subSpan e.sub) (d e l)) ∧ ∀ f, (x f).wf = true → subOp f.sub.toNat = 0
  bitwise (· && ·) .and .andExt 0x32 ∧ bitwise (· || ·) .or .orExt 0x33 ∧ bitwise xor .xor .xorExt 0x34 ∧
  bitwise (fun a b => a && !b) .andn .andnExt 0x35

/-- R147: counts of bits, of leading and of trailing zeros, and reversal; OP is 0. -/
def Obligations.BitCounts : Prop :=
  (∀ i ∈ [Instr.popc, .clz, .ctz, .brev], ∀ f, (i f).wf = true → subOp f.sub.toNat = 0) ∧
  CompletesFixed .popc 0x37 (fun e l => e.gives l 1 ((List.range e.wid).countP (fun i => (e.uA l).testBit i))) ∧
  (∃ n : Env → Nat → Nat,
    (∀ e, ∀ l ∈ e.exec, n e l ≤ e.wid ∧ (∀ i, e.wid - n e l ≤ i → i < e.wid → (e.uA l).testBit i = false) ∧
      (n e l < e.wid → (e.uA l).testBit (e.wid - 1 - n e l) = true)) ∧
    CompletesFixed .clz 0x38 (fun e l => e.gives l 1 (n e l))) ∧
  (∃ n : Env → Nat → Nat,
    (∀ e l, n e l ≤ e.wid ∧ (∀ i < n e l, (e.uA l).testBit i = false) ∧ (n e l < e.wid → (e.uA l).testBit (n e l) = true)) ∧
    CompletesFixed .ctz 0x39 (fun e l => e.gives l 1 (n e l))) ∧
  (∃ d : Env → Nat → Nat,
    (∀ e l, d e l < 2 ^ e.wid ∧ ∀ i < e.wid, (d e l).testBit (e.wid - 1 - i) = (e.uA l).testBit i) ∧
    CompletesFixed .brev 0x3A (fun e l => e.gives l (subSpan e.sub) (d e l)))

/-- R149, R150: MOV copies source B, MOVI the 64-bit literal, LEA adds a scaled index to a base pair. -/
def Obligations.MovesAndAddresses : Prop :=
  CompletesFixedB .mov 0x3E (fun e l => e.gives l (subSpan e.sub) (e.uB l)) ∧
  CompletesFixed .movExt 0x3E (fun e l => e.gives l (subSpan e.sub) (e.uB l)) ∧
  CompletesFixed .movi 0x3F (fun e l => e.gives l 2 e.f.lit.toNat) ∧
  CompletesFixed .lea 0x3D (fun e l => e.gives l 2 (wrap 64 ((e.a64 l : Int) + sv e.z 32 (e.uB32 e.z l) * 2 ^ subOp e.sub)))

/-- R151, R152: packed adds, minimum and maximum element by element; the dot product and the sum of differences. -/
def Obligations.PackedIntegers : Prop :=
  let elements (i : Fields → Instr) (opc n w : Nat) (src : (Env → Nat → Nat) × (Env → Nat → Nat)) (op : Env → Int → Int → Nat) : Prop :=
    ∃ d : Env → Nat → Nat,
      (∀ e l, d e l < 2 ^ 32 ∧ ∀ k < n, d e l / 2 ^ (w * k) % 2 ^ w =
        op e (sv e.z w (src.1 e l / 2 ^ (w * k) % 2 ^ w)) (sv e.z w (src.2 e l / 2 ^ (w * k) % 2 ^ w)) % 2 ^ w) ∧
      CompletesFixed i opc (fun e l => e.gives l 1 (d e l))
  let el (z : Bool) (k x : Nat) : Int := sv z 8 (x / 2 ^ (8 * k) % 2 ^ 8)
  elements .iadd2 0x40 2 16 (Env.hA, Env.hB) (fun e x y => wrVal e.f.sat e.z 16 (if subOp e.sub = 1 then x - y else x + y)) ∧
  elements .iadd4 0x41 4 8 (Env.yA, Env.yB) (fun e x y => wrVal e.f.sat e.z 8 (if subOp e.sub = 1 then x - y else x + y)) ∧
  elements .vmin4 0x42 4 8 (Env.yA, Env.yB) (fun _ x y => wrap 8 (if y < x then y else x)) ∧
  elements .vmax4 0x43 4 8 (Env.yA, Env.yB) (fun _ x y => wrap 8 (if x < y then y else x)) ∧
  CompletesFixed .idp4 0x44 (fun e l =>
    let p (k : Nat) : Int := el (e.sub.testBit 0) k (e.yA l) * el (e.sub.testBit 2) k (e.yB l)
    e.gives l 1 (wrVal e.f.sat false 32 (sgn 32 (e.yC l) + (p 0 + p 1 + p 2 + p 3)))) ∧
  CompletesFixed .isad 0x45 (fun e l =>
    let p (k : Nat) : Int := ((el e.z k (e.yA l) - el e.z k (e.yB l)).natAbs : Int)
    e.gives l 1 (wrap 32 ((e.yC l : Int) + (p 0 + p 1 + p 2 + p 3))))

/-! ### Predicates -/

/-- R134 to R138: ICMP and FCMP write a comparison into a predicate; PSET combines predicates, PMOV moves them, SEL chooses. Two points
are the model's choices: FCMP's `.h1` of a literal reads bits 31:16 (log 86), and the elements that PSET's bit test and PMOV's
`.pr` select are sign-extended (log 85). -/
def Obligations.PredicatesAndCompares : Prop :=
  (CompletesFixed .icmp 0x50 (fun e l => e.givesP (match subOp e.sub with
     | 0 => decide (e.svA l = e.svB l) | 1 => decide (e.svA l ≠ e.svB l) | 2 => decide (e.svA l < e.svB l)
     | 3 => decide (e.svA l ≤ e.svB l) | 4 => decide (e.svB l < e.svA l) | _ => decide (e.svB l ≤ e.svA l))) ∧
   CompletesFixed .pset 0x52 (fun e l => e.givesP (match e.sub with
     | 0 => e.predSrc l e.f.a && e.predSrc l e.f.b
     | 1 => e.predSrc l e.f.a || e.predSrc l e.f.b
     | 2 => e.predSrc l e.f.a != e.predSrc l e.f.b
     | _ => (e.uA32 false l).testBit (e.uB32 false l % 32))) ∧
   (∃ d : Env → Nat → Nat,
     (∀ e l, d e l < 2 ^ 32 ∧ ∀ i < 32, (d e l).testBit i = (e.lane l).p.getLsbD (e.f.a.toNat + i)) ∧
     CompletesFixed .pmov 0x53 (fun e l => match e.sub with
       | 0 => e.givesP (e.predSrc l e.f.a)
       | 1 => e.gives l 1 (d e l)
       | _ => { writes := ((List.range 32).filter (fun i => (e.uB32 false l).testBit i)).map (fun i =>
           { dest := .p (e.f.d.toNat + i), val := b2n ((e.uA32 false l).testBit i) }) })) ∧
   CompletesFixed .sel 0x54 (fun e l => e.gives l (subSpan e.sub) (if e.predSrc l e.f.c then e.uA l else e.uB l))) ∧
  CompletesFixed .fcmp 0x51 Env.fcmpOut

/-! ### Floating point -/

/-- R156, R159: one rounding of an exact value, in all forms; FSCALE the same. R96, R97: `round` of a real value that is not zero
chooses among the magnitudes of the format, its exponents unbounded, as the mode says (a tie goes to the even encoding), is inexact where
that is another value, underflows where it is below the smallest normal too, and gives the table's result beyond the largest finite. R99: sums,
products and fused products are exact before it, with the sign of a zero sum and the invalid cases. -/
def Obligations.FloatArithmetic : Prop :=
  CompletesFixedB .fadd 0x60 Env.faddOut ∧ CompletesFixed .faddExt 0x60 Env.faddOut ∧
  CompletesFixedB .fsub 0x61 Env.fsubOut ∧ CompletesFixed .fsubExt 0x61 Env.fsubOut ∧
  CompletesFixedB .fmul 0x62 Env.fmulOut ∧ CompletesFixed .fmulExt 0x62 Env.fmulOut ∧
  CompletesFixed .ffma 0x63 Env.ffmaOut ∧ CompletesFixed .fscale 0x68 Env.fscaleOut ∧
  ([Fmt.fp32, .fp16, .bf16, .e4m3, .e5m2, .e2m1].map (fun f => (f.width, f.frac, f.bias, f.maxEnc, f.nanEnc)) =
    [(32, 23, 127, 0x7F7FFFFF, 0x7FC00000), (16, 10, 15, 0x7BFF, 0x7E00), (16, 7, 127, 0x7F7F, 0x7FC0), (8, 3, 7, 0x7E, 0x7F),
     (8, 2, 15, 0x7B, 0x7E), (4, 1, 1, 0x7, 0)] ∧
   [Fmt.fp32, .fp16, .bf16, .e5m2].map (fun f => (f.hasInf, f.infEnc)) = [(true, 0x7F800000), (true, 0x7C00), (true, 0x7F80), (true, 0x7C)] ∧
   Fmt.e4m3.hasInf = false ∧ Fmt.e2m1.hasInf = false ∧
   ∀ (f : Fmt) (neg : Bool) (k : Nat), f.emin = 1 - (f.bias : Int) ∧ f.withSign neg k = k + if neg then 2 ^ (f.width - 1) else 0) ∧
  (∀ (f : Fmt) (mode : Rnd) (sat neg : Bool),
    (∀ sg, round f mode sat (.nan sg) = if f = .e2m1 then (0, flInvalid) else (f.nanEnc, if sg then flInvalid else 0#5)) ∧
    (round f mode sat (.inf neg) = if f.hasInf = true ∧ sat = false then (f.withSign neg f.infEnc, 0#5)
      else if f = .e4m3 ∧ sat = false then (f.nanEnc, flInvalid) else (f.withSign neg f.maxEnc, 0#5)) ∧
    (∀ exp, round f mode sat (.fin ⟨neg, 0, exp, false⟩) = (f.withSign neg 0, 0#5)) ∧
    (∀ mant exp, mant ≠ 0 →
      let lo := min exp (f.emin - f.frac)
      let x := mant * 2 ^ (exp - lo).toNat
      let mag (k : Nat) : Nat := (if k < 2 ^ f.frac then k else (2 ^ f.frac + k % 2 ^ f.frac) * 2 ^ (k / 2 ^ f.frac - 1)) * 2 ^ (f.emin - f.frac - lo).toNat
      let away : Prop := (mode = .rup ∧ neg = false) ∨ (mode = .rdn ∧ neg = true)
      let most : Nat := if f = .e2m1 ∨ sat = true ∨ (mode ≠ .rne ∧ ¬ away) then f.withSign neg f.maxEnc
        else if f = .e4m3 then f.nanEnc else f.withSign neg f.infEnc
      ∃ k, (mode = .rne → 2 * x ≤ mag k + mag (k + 1) ∧ (0 < k → mag (k - 1) + mag k ≤ 2 * x) ∧
          (2 * x = mag k + mag (k + 1) ∨ (0 < k ∧ mag (k - 1) + mag k = 2 * x) → k % 2 = 0)) ∧
        (away → 0 < k ∧ mag (k - 1) < x ∧ x ≤ mag k) ∧ (mode ≠ .rne → ¬ away → mag k ≤ x ∧ x < mag (k + 1)) ∧
        round f mode sat (.fin ⟨neg, mant, exp, false⟩) = if k ≤ f.maxEnc
          then (f.withSign neg k, if mag k = x then 0#5 else if k < 2 ^ f.frac then flUnderflow ||| flInexact else flInexact)
          else (most, flOverflow ||| flInexact)) ∧
    (∀ mant exp, 2 ^ (f.frac + 2) ≤ mant →
      round f mode sat (.fin ⟨neg, mant, exp, true⟩) = round f mode sat (.fin ⟨neg, 2 * mant + 1, exp - 1, false⟩))) ∧
  (∀ (mode : Rnd) (x y : Rl),
    let lo := min x.exp y.exp
    let at_ (r : Rl) : Int := (if r.neg then -1 else 1) * (r.mant : Int) * 2 ^ (r.exp - lo).toNat
    (∃ z : Rl, Val.add mode (.fin x) (.fin y) = (.fin z, 0#5) ∧ z.exp = lo ∧ z.sticky = false ∧ at_ z = at_ x + at_ y ∧
      (z.mant = 0 → z.neg = if x.mant = 0 ∧ y.mant = 0 ∧ x.neg = y.neg then x.neg else decide (mode = .rdn))) ∧
    Val.mul (.fin x) (.fin y) = (.fin ⟨x.neg != y.neg, x.mant * y.mant, x.exp + y.exp, false⟩, 0#5)) ∧
  (∀ (mode : Rnd) (a b c : Val) (s t : Bool) (x : Rl),
    let nan (v : Val) : Prop := v = .nan false ∨ v = .nan true
    let bad : Val × Flags := (.nan false, flInvalid)
    (nan a ∨ nan b → Val.add mode a b = (if a = .nan true ∨ b = .nan true then bad else (.nan false, 0#5)) ∧ Val.mul a b = Val.add mode a b) ∧
    Val.add mode (.inf s) (.inf t) = (if s = t then (.inf s, 0#5) else bad) ∧
    Val.add mode (.inf s) (.fin x) = (.inf s, 0#5) ∧ Val.add mode (.fin x) (.inf s) = (.inf s, 0#5) ∧
    Val.mul (.inf s) (.inf t) = (.inf (s != t), 0#5) ∧
    Val.mul (.inf s) (.fin x) = (if x.mant = 0 then bad else (.inf (s != x.neg), 0#5)) ∧
    Val.mul (.fin x) (.inf s) = (if x.mant = 0 then bad else (.inf (x.neg != s), 0#5)) ∧
    (let zero (v : Val) : Prop := ∃ r : Rl, v = .fin r ∧ r.mant = 0
     let inf (v : Val) : Prop := v = .inf false ∨ v = .inf true
     let stops : Prop := a = .nan true ∨ b = .nan true ∨ c = .nan true ∨ (inf a ∧ zero b) ∨ (zero a ∧ inf b)
     (stops → Val.fma mode a b c = bad) ∧ (¬ stops → Val.fma mode a b c = Val.add mode (Val.mul a b).1 c)))

/-- R157, R158, R159, R160: FMIN and FMAX, FRND, FCLASS; the packed half arithmetic, two results in one register. FMIN and FMAX keep one
operand's bits, −0 below +0, the other operand for a NaN, and only a signalling NaN raises a flag. R91 to R93: the value of an encoding
in each format. R136: the exact comparison. That FCLASS reads the upper half of a literal under `.h1` is the model's choice (log 86). -/
def Obligations.FloatSelectAndPacked : Prop :=
  (CompletesFixed .fmin 0x64 (Env.fselOut false) ∧ CompletesFixed .fmax 0x65 (Env.fselOut true) ∧
   CompletesFixed .frnd 0x66 Env.frndOut ∧
   CompletesFixed .fclass 0x67 (fun e l =>
     let fmt : Fmt := if e.sub % 4 = 0 then .fp32 else if e.sub % 4 = 1 then .fp16 else .bf16
     let v := if e.sub % 4 = 0 then e.a32 l else if modSel e.f.moda = 2 then e.a32 l / 65536 % 65536 else e.a32 l % 65536
     let neg := v.testBit (fmt.width - 1)
     e.gives l 1 (match fmt.val v with
       | .nan s => if s then 0x100 else 0x200
       | .inf s => if s then 0x001 else 0x080
       | .fin r => if r.mant = 0 then (if neg then 0x008 else 0x010)
         else if r.mant < 2 ^ fmt.frac then (if neg then 0x004 else 0x020) else (if neg then 0x002 else 0x040)))) ∧
  (CompletesFixed .hadd2 0x70 Env.haddOut ∧ CompletesFixed .hmul2 0x71 Env.hmulOut ∧ CompletesFixed .hfma2 0x72 Env.hfmaOut ∧
   CompletesFixed .hmin2 0x73 (Env.hselOut false) ∧ CompletesFixed .hmax2 0x74 (Env.hselOut true)) ∧
  (∀ (f : Fmt) (x : Nat),
    let s := x.testBit (f.width - 1)
    let top := 2 ^ (f.width - 1 - f.frac) - 1
    let e := x / 2 ^ f.frac % (top + 1)
    let fr := x % 2 ^ f.frac
    let special : Prop := e = top ∧ f ≠ .e2m1 ∧ (f = .e4m3 → fr = 7)
    (¬ special → f.val x = .fin ⟨s, if e = 0 then fr else 2 ^ f.frac + fr, (max e 1 : Int) - f.bias - f.frac, false⟩) ∧
    (special → fr = 0 → f.val x = .inf s) ∧
    (special → fr ≠ 0 → f.val x = .nan (decide (f ≠ .e4m3 ∧ f ≠ .e5m2 ∧ fr < 2 ^ (f.frac - 1))))) ∧
  (∀ (s t : Bool) (x y : Rl),
    let lo := min x.exp y.exp
    let at_ (r : Rl) : Int := (if r.neg then -1 else 1) * (r.mant : Int) * 2 ^ (r.exp - lo).toNat
    Val.cmp (.fin x) (.fin y) = (if at_ x < at_ y then .lt else if at_ x = at_ y then .eq else .gt) ∧
    Val.cmp (.inf s) (.inf t) = (if s = t then .eq else if s then .lt else .gt) ∧
    Val.cmp (.inf s) (.fin x) = (if s then .lt else .gt) ∧ Val.cmp (.fin x) (.inf s) = (if s then .gt else .lt)) ∧
  (∀ (f : Fmt) (max : Bool) (a b : Nat), a < 2 ^ f.width → b < 2 ^ f.width →
    let nan (x : Nat) : Prop := f.val x = .nan false ∨ f.val x = .nan true
    let key (x : Nat) : Int := if x < 2 ^ (f.width - 1) then x else 2 ^ (f.width - 1) - 1 - (x : Int)
    (fminmax f max a b).2 = (if f.val a = .nan true ∨ f.val b = .nan true then flInvalid else 0#5) ∧
    (nan a → nan b → (fminmax f max a b).1 = f.nanEnc) ∧ (nan a → ¬ nan b → (fminmax f max a b).1 = b) ∧
    (¬ nan a → nan b → (fminmax f max a b).1 = a) ∧
    (¬ nan a → ¬ nan b → (fminmax f max a b).1 =
      if max then (if key a < key b then b else a) else (if key b < key a then b else a))) ∧
  (∀ (mode : Rnd) (r : Rl), r.sticky = false →
    Chosen mode r.neg (r.mant * 2 ^ (r.exp - min r.exp 0).toNat) (2 ^ (-(min r.exp 0)).toNat) (chooseInt mode r.neg (r.split 0).1 (r.split 0).2))

/-- R161, R162: the special functions return later, rounded once. -/
def Obligations.SpecialFunctions : Prop :=
  let rounded (v : Env → Nat → Val × Flags) (e : Env) (l : Nat) : Out :=
    let r := round .fp32 (Rnd.ofField e.f.rnd) e.f.sat (v e l).1
    e.gives l 1 r.1 (r.2 ||| (v e l).2)
  let of (fn : SpecialFn) := rounded (fun e l => specialVal fn (Fmt.fp32.val (e.fA l)))
  CompletesLater .frcp 0x80 (of .rcp) ∧ CompletesLater .frsq 0x81 (of .rsq) ∧ CompletesLater .fsqrt 0x82 (of .sqrt) ∧
  CompletesLater .fdiv 0x83 (rounded (fun e l => Val.div (Fmt.fp32.val (e.fA l)) (Fmt.fp32.val (e.b32 l)))) ∧
  CompletesLater .fexp2 0x84 (of .exp2) ∧ CompletesLater .flog2 0x85 (of .log2) ∧ CompletesLater .fsin 0x86 (of .sin) ∧
  CompletesLater .fcos 0x87 (of .cos) ∧ CompletesLater .ftanh 0x88 (of .tanh)

/-- R163, R162: the table of special inputs, as encodings and flags under RNE without SAT; quotients and square roots are held
exactly, a truncation with a mark for what is left over. -/
def Obligations.SpecialValues : Prop :=
  (let at_ (fn : SpecialFn) (x : Nat) : Nat × Flags := roundOp .fp32 .rne false (specialVal fn (Fmt.fp32.val x))
   let nan := (0x7FC00000, flInvalid)
   [SpecialFn.rcp, .rsq, .sqrt, .exp2, .log2, .sin, .cos, .tanh].map (fun fn => at_ fn 0x00000000) =
     [(0x7F800000, flDivZero), (0x7F800000, flDivZero), (0, 0), (0x3F800000, 0), (0xFF800000, flDivZero), (0, 0), (0x3F800000, 0), (0, 0)] ∧
   [SpecialFn.rcp, .rsq, .sqrt, .exp2, .log2, .sin, .cos, .tanh].map (fun fn => at_ fn 0x80000000) =
     [(0xFF800000, flDivZero), (0xFF800000, flDivZero), (0x80000000, 0), (0x3F800000, 0), (0xFF800000, flDivZero), (0x80000000, 0), (0x3F800000, 0), (0x80000000, 0)] ∧
   [SpecialFn.rcp, .rsq, .sqrt, .exp2, .log2, .sin, .cos, .tanh].map (fun fn => at_ fn 0x7F800000) =
     [(0, 0), (0, 0), (0x7F800000, 0), (0x7F800000, 0), (0x7F800000, 0), nan, nan, (0x3F800000, 0)] ∧
   [SpecialFn.rcp, .rsq, .sqrt, .exp2, .log2, .sin, .cos, .tanh].map (fun fn => at_ fn 0xFF800000) =
     [(0x80000000, 0), nan, nan, (0, 0), nan, nan, nan, (0xBF800000, 0)] ∧
   (∀ fn x, Fmt.fp32.val x = .nan true → at_ fn x = nan) ∧ (∀ fn x, Fmt.fp32.val x = .nan false → at_ fn x = (0x7FC00000, 0)) ∧
   (∀ fn x r, fn = .rsq ∨ fn = .sqrt ∨ fn = .log2 → Fmt.fp32.val x = .fin r → r.mant ≠ 0 → r.neg = true → at_ fn x = nan)) ∧
  ((∀ a b : Rl, b.mant ≠ 0 → ∃ k : Nat, (a.div b).exp = a.exp - b.exp - k ∧
     (a.div b).mant * b.mant ≤ a.mant * 2 ^ k ∧ a.mant * 2 ^ k < ((a.div b).mant + 1) * b.mant ∧
     ((a.div b).sticky = false ↔ (a.div b).mant * b.mant = a.mant * 2 ^ k)) ∧
   (∀ r : Rl, ∃ k : Nat, 2 * r.sqrt.exp = r.exp - k ∧ r.sqrt.mant ^ 2 ≤ r.mant * 2 ^ k ∧ r.mant * 2 ^ k < (r.sqrt.mant + 1) ^ 2 ∧
     (r.sqrt.sticky = false ↔ r.sqrt.mant ^ 2 = r.mant * 2 ^ k)))

/-- R164 to R167: conversions between formats and with integers, and the packing of two. R98: rounding into an integer format chooses by
the mode, clamps to the range, and is invalid, or inexact, as its table says. That F2I and FCVT read the upper half of a
literal under `.h1` is the model's choice (log 86). -/
def Obligations.Conversions : Prop :=
  CompletesFixed .fcvt 0x90 Env.fcvtOut ∧ CompletesFixed .f2i 0x91 Env.f2iOut ∧ CompletesFixed .i2f 0x92 Env.i2fOut ∧
  CompletesFixed .cvtpk 0x93 Env.cvtpkOut ∧
  (∀ (w : Nat) (signed : Bool) (mode : Rnd) (sat : Bool),
    let top : Int := if signed then 2 ^ (w - 1) - 1 else 2 ^ w - 1
    let bottom : Int := if signed then -(2 ^ (w - 1)) else 0
    let bad : Flags := if sat then 0#5 else flInvalid
    (∀ sg, roundInt w signed mode sat (.nan sg) = (0, bad)) ∧
    roundInt w signed mode sat (.inf false) = (wrap w top, bad) ∧ roundInt w signed mode sat (.inf true) = (wrap w bottom, bad) ∧
    ∀ (neg : Bool) (mant : Nat) (exp : Int),
      let x := mant * 2 ^ (exp - min exp 0).toNat
      let u := 2 ^ (-(min exp 0)).toNat
      ∃ n : Nat, Chosen mode neg x u n ∧
        let i : Int := if neg then -(n : Int) else n
        roundInt w signed mode sat (.fin ⟨neg, mant, exp, false⟩) =
          if top < i then (wrap w top, bad) else if i < bottom then (wrap w bottom, bad)
          else (wrap w i, if n * u = x then 0#5 else flInexact))

/-! ### System registers, constants, ternary -/

/-- R177, R178, R181: RDSR gives a status register, RAND the jig hash, once the set has nothing outstanding where R154 asks it;
WRSR sets `fstat` or a loop counter of every performing lane, and a reserved bit of `fstat` set is a fault. -/
def Obligations.StatusRegisters : Prop :=
  (CompletesFixed .rdsr 0xF0 (fun e l =>
     let x := e.lane l
     let sel := e.f.a.toNat
     e.gives l (if sel = 0x18 then 2 else 1) (
       if sel = 0x00 then l else if sel = 0x01 then e.grp.num else if sel = 0x02 then e.grp.role
       else if sel = 0x03 then e.grp.num * e.grid.kcb.width + l else if sel = 0x04 then e.grid.kcb.width
       else if sel = 0x05 then e.grid.kcb.width * e.grid.kcb.groupCount
       else if sel = 0x06 then e.team.idx % 2 ^ 32 else if sel = 0x07 then e.team.idx / 2 ^ 32
       else if sel = 0x08 then e.team.idx % e.grid.kcb.cluster else if sel = 0x09 then e.grid.kcb.cluster
       else if sel = 0x0A then (if e.grid.kcb.disp then 0 else e.team.idx % e.grid.x)
       else if sel = 0x0B then (if e.grid.kcb.disp then 0 else e.team.idx / e.grid.x % e.grid.y)
       else if sel = 0x0C then (if e.grid.kcb.disp then 0 else e.team.idx / (e.grid.x * e.grid.y))
       else if sel = 0x10 then x.fstat.toNat else if sel = 0x11 then x.lc0.toNat else if sel = 0x12 then x.lc1.toNat
       else if sel = 0x13 then x.lc2.toNat else if sel = 0x14 then x.frames.length else if sel = 0x15 then x.loops.length
       else if sel = 0x16 then b2n x.demoted else e.s.time % 2 ^ 64)) ∧
   CompletesFixed .rand 0xF3 (fun e l =>
     let h := (e.a32 l ^^^ e.b32 l ^^^ (e.f.ctl.toNat % 8 * 0x3C6EF372 % 2 ^ 32)) * 0x2C1B3C6D % 2 ^ 32
     let h := (h ^^^ (h / 2 ^ 12)) * 0x297A2D39 % 2 ^ 32
     e.gives l 1 ((h ^^^ (h / 2 ^ 15)) % 2 ^ 32))) ∧
  ((∀ s f e, Issues s 0xF1 f e → 0x10 ≤ f.d.toNat → f.d.toNat ≤ 0x13 → (f.d = 0x10#8 → ∀ l ∈ e.perf, e.a32 l < 32) →
     Gives (.wrsr f) s (fun t => e.Moves s t (fun l x y =>
       e.Falls (if e.guard l = false ∨ e.w ≤ l then x
         else if f.d = 0x10#8 then { x with fstat := BitVec.ofNat 5 (e.a32 l) }
         else if f.d = 0x11#8 then { x with lc0 := BitVec.ofNat 32 (e.a32 l) }
         else if f.d = 0x12#8 then { x with lc1 := BitVec.ofNat 32 (e.a32 l) }
         else { x with lc2 := BitVec.ofNat 32 (e.a32 l) }) y))) ∧
   (∀ s f e, Issues s 0xF1 f e → f.d = 0x10#8 → (∃ l ∈ e.perf, 32 ≤ e.a32 l) →
     Gives (.wrsr f) s (fun t => e.Faults s t ((e.perf.filter (fun l => decide (32 ≤ e.a32 l))).map (fun l => e.record l 0x02 0)))))

/-- R179, R180: LDK from the parameter space, a launch record and then the parameters, returns its bytes later; from the constant
space it leaves one read for each lane it executes for, at the place of the object's constants, in no order with other
accesses; a misplaced offset is a fault, of a lane that is not demoted. -/
def Obligations.KernelConstants : Prop :=
  let launch (g : Grid) : List Byte :=
    leBytes 64 (g.x + g.y * 2 ^ 32 + g.z * 2 ^ 64 + g.kcb.cluster * 2 ^ 96 + g.n * 2 ^ 128 + b2n g.kcb.disp * 2 ^ 192 + g.tag * 2 ^ 224)
  let size (e : Env) : Nat := if e.sub.testBit 0 then 8 else 4
  (∀ s f e, Issues s 0xF2 f e → e.sub.testBit 1 = false →
    (∀ l ∈ e.exec, e.a32 l % size e = 0 ∧ e.a32 l + size e ≤ 64 + e.grid.params.length) →
    Gives (.ldk f) s (fun t => e.Later s t (fun l =>
      e.gives l (size e / 4) (ofLe (((launch e.grid ++ e.grid.params).drop (e.a32 l)).take (size e)))))) ∧
  (∀ s f e o s1 (loc : Nat → Loc), Issues s 0xF2 f e → e.sub.testBit 1 = true → s.object? e.grid.handle = some o →
    (∀ l ∈ e.exec, e.a32 l % size e = 0 ∧ e.a32 l + size e ≤ o.rodataLen) →
    chkList (fun s l => s.chkVa e.team.core e.grid.part e.grid.proc (o.rodata + e.a32 l) (e.a32 l) .rd) e.exec s =
      (e.exec.map (fun l => (l, .ok (loc l))), s1) →
    Gives (.ldk f) s (fun t => t = { s1 with groups := t.groups, accs := t.accs, nextId := t.nextId } ∧ e.Lanes t (fun _ x y => e.Falls x y) ∧
      ∃ as, t.accs = s1.accs ++ as ∧ as.map (fun a => (a.lane, a.kind, a.loc, a.size, a.dest)) = e.exec.map (fun l =>
          (l, .ldk, loc l, size e, e.destAt l f.d 0)) ∧
        ∀ a ∈ as, a.loose = true ∧ a.lanes = if e.uniform then e.mask else maskOf [a.lane])) ∧
  (∀ s f e, Issues s 0xF2 f e → e.uniform = false → e.perf ≠ [] →
    (∀ l ∈ e.perf, e.a32 l % size e ≠ 0 ∧ (e.lane l).demoted = false) →
    Gives (.ldk f) s (fun t => e.Faults s t (e.perf.map (fun l => e.record l 0x06 (e.a32 l)))))

/-- R182, R29: WKFETCH sends one claim of the set's count, which is from 1 to 65,536, or is an ILLEGAL_OPERAND; at the dispenser it takes
the next items, at most what is left, the claim replaces the group's earlier one among the grid's, and its first item and count return
to three s registers. -/
def Obligations.WorkClaims : Prop :=
  (∀ s f e n, Issues s 0xF4 f e → n = (if f.a = 0xF0#8 then 1 else e.a32 (e.set.headD 0)) → 0 < n → n ≤ 65536 →
    Gives (.wkfetch f) s (fun t =>
      (∃ x, t.fetches = s.fetches ++ [x] ∧ x.tag = e.grid.tag ∧ x.team = e.team.idx ∧ x.grp = e.grp.num ∧ x.lanes = e.mask ∧
        x.d = f.d.toNat - 0xC0 ∧ x.n = n) ∧
      t = { s with groups := t.groups, fetches := t.fetches, nextId := t.nextId } ∧ e.Lanes t (fun _ x y => e.Falls x y))) ∧
  (∀ s f e n l rest, Issues s 0xF4 f e → n = (if f.a = 0xF0#8 then 1 else e.a32 l) → e.set = l :: rest → n = 0 ∨ 65536 < n →
    Gives (.wkfetch f) s (fun t => e.Faults s t [e.record l 0x02 0])) ∧
  (∀ s id x g, s.fetches.find? (fun y => y.id == id) = some x → s.grid? x.tag = some g →
    Gives (.dispenserClaim id) s (fun t =>
      (∃ g', t.grid? x.tag = some g' ∧ g'.next = g.next + min x.n (g.n - g.next) ∧
        g' = { g with next := g'.next, claims := g'.claims } ∧
        (∀ c, c ∈ g'.claims ↔ (c ∈ g.claims ∧ ¬(c.team = x.team ∧ c.grp = x.grp)) ∨
          (min x.n (g.n - g.next) ≠ 0 ∧ c = { team := x.team, grp := x.grp, first := g.next, g := min x.n (g.n - g.next) }))) ∧
      (∃ r, t.results = s.results ++ [r] ∧ r.lanes = x.lanes ∧ r.tag = x.tag ∧ r.team = x.team ∧ r.grp = x.grp ∧
        r.writes.map Prod.snd = [[⟨.s x.d, g.next % 2 ^ 32⟩, ⟨.s (x.d + 1), g.next / 2 ^ 32⟩, ⟨.s (x.d + 2), min x.n (g.n - g.next)⟩]]) ∧
      (∀ y ∈ t.fetches, y.id ≠ id) ∧ t.groups = s.groups))

/-- R244: five digit signs into a byte of a word, a byte's digits as signed bytes, and the mask of illegal bytes. -/
def Obligations.TernaryBytes : Prop :=
  let sign (x : Nat) : Int := if x % 256 = 0 then 0 else if x % 256 < 128 then 1 else -1
  let digit (y i : Nat) : Int := if 243 ≤ y then 0 else ((y / 3 ^ i % 3 : Nat) : Int) - 1
  let ill (x : Nat) : Nat := if 243 ≤ x % 256 then 1 else 0
  (∃ d : Env → Nat → Nat,
    (∀ e, ∀ l ∈ e.exec, d e l < 2 ^ 32 ∧
      (d e l / 256 ^ (e.sub % 4) % 256 : Int) = (sign (e.a32 l) + 1) + 3 * (sign (e.a32 l / 2 ^ 8) + 1) + 9 * (sign (e.a32 l / 2 ^ 16) + 1) +
        27 * (sign (e.a32 l / 2 ^ 24) + 1) + 81 * (sign (e.b32 l) + 1) ∧
      ∀ k < 4, k ≠ e.sub % 4 → d e l / 256 ^ k % 256 = e.c32 l / 256 ^ k % 256) ∧
    CompletesFixed .t5pack 0xE8 (fun e l => e.gives l 1 (d e l))) ∧
  CompletesFixed .t5unpk 0xE9 (fun e l =>
    let y := e.a32 l / 256 ^ (e.sub % 4) % 256
    { writes := e.wrD l 2 (wrap 8 (digit y 0) + 2 ^ 8 * wrap 8 (digit y 1) + 2 ^ 16 * wrap 8 (digit y 2) + 2 ^ 24 * wrap 8 (digit y 3) +
        2 ^ 32 * wrap 32 (digit y 4)) ++ wrP e.f.c (decide (243 ≤ y)) }) ∧
  CompletesFixed .t5chk 0xEA (fun e l =>
    let m := ill (e.a32 l) + 2 * ill (e.a32 l / 2 ^ 8) + 4 * ill (e.a32 l / 2 ^ 16) + 8 * ill (e.a32 l / 2 ^ 24)
    { writes := e.wrD l 1 m ++ wrP e.f.c (decide (m ≠ 0)) })

/-- R42, R78, R100, R101, R154: a returning result writes its registers and its flags for the lanes that still await it, a
uniform one as long as one lane does; an s register that a later issue has written keeps that; the result is outstanding no
more, and a lane that drained for it alone runs again. An enabled flag makes it FP_TRAP, and nothing is written: of the lane, of a uniform
result of the issuing set's lowest lane, which the result names, and of a collective's of the lowest member (R168). -/
def Obligations.ResultReturn : Prop :=
  ∀ s id r gr g, s.results.find? (fun x => x.id == id) = some r → s.grid? r.tag = some gr →
    s.group? r.tag r.team r.grp = some g → s.mayReturn r = true →
    let due (l : Nat) : Prop := (r.uni = true ∧ r.lanes ≠ 0#64) ∨ (r.uni = false ∧ r.lanes.getLsbD l = true)
    let rest := s.results.filter (fun x => x.id ≠ id)
    ((∀ x ∈ r.flags, x.2 &&& gr.kcb.fptrap = 0#5) → (r.writes.map (·.1)).Nodup → (∀ x ∈ r.writes, (x.2.map (·.dest)).Nodup) →
      ((r.writes.length ≤ 1) ∨ ∀ x ∈ r.writes, ∀ w ∈ x.2, w.dest.isS = false) →
      Gives (.resultReturn id) s (fun t => t = { s with groups := t.groups, results := rest } ∧
        ∃ h, t.group? r.tag r.team r.grp = some h ∧ h.lanes.length = g.lanes.length ∧
        (∀ x ∈ r.writes, due x.1 → ∀ w ∈ x.2, g.has x.1 w.dest = true →
          h.holds x.1 w.dest = match w.dest with
            | .s n => if Sparse.get 0 g.sAt n ≤ r.issue then w.left else g.sreg n
            | _ => w.left) ∧
        (∀ k d, (∀ x ∈ r.writes, due x.1 → ∀ w ∈ x.2, w.dest = d → x.1 ≠ k ∧ d.isS = false) → h.holds k d = g.holds k d) ∧
        (∀ i x y, g.lanes[i]? = some x → h.lanes[i]? = some y → y.fstat = if r.lanes.getLsbD i
          then (r.flags.filter (fun q => r.uni || q.1 == i)).foldl (fun fl q => fl ||| q.2) x.fstat else x.fstat) ∧
        (∀ l x y, g.lanes[l]? = some x → h.lanes[l]? = some y →
          y.st = if x.st = .draining ∧ t.outstanding r.tag r.team r.grp l = false then .running else x.st))) ∧
    (let ts := r.flags.filter (fun x => r.lanes.getLsbD x.1 && decide (x.2 &&& gr.kcb.fptrap ≠ 0#5))
     r.uni = false → r.coll = false → ts ≠ [] → Gives (.resultReturn id) s (fun t =>
       t = { s with groups := t.groups, grids := t.grids, results := rest } ∧
       t.grid? r.tag = some { gr with faults := gr.faults ++ ts.map (fun x => faultRec g x.1 0x10 r.pc x.2.toNat) } ∧
       t.group? r.tag r.team r.grp = some { g with stopped := true })) ∧
    (let ts := r.flags.filter (fun x => r.lanes.getLsbD x.1 && decide (x.2 &&& gr.kcb.fptrap ≠ 0#5))
     ∀ l fl, r.uni = false → r.coll = true → (r.flags.map (·.1)).Pairwise (· < ·) → (l, fl) ∈ ts → (∀ x ∈ ts, l ≤ x.1) →
     Gives (.resultReturn id) s (fun t => t = { s with groups := t.groups, grids := t.grids, results := rest } ∧
       t.grid? r.tag = some { gr with faults := gr.faults ++ [faultRec g l 0x10 r.pc fl.toNat] } ∧
       t.group? r.tag r.team r.grp = some { g with stopped := true })) ∧
    (∀ l fl, r.uni = true → r.flags = [(l, fl)] → fl &&& gr.kcb.fptrap ≠ 0#5 → Gives (.resultReturn id) s (fun t =>
       t = { s with groups := t.groups, grids := t.grids, results := rest } ∧
       t.grid? r.tag = some { gr with faults := gr.faults ++ [faultRec g r.low 0x10 r.pc fl.toNat] } ∧
       t.group? r.tag r.team r.grp = some { g with stopped := true }))

/-! ### Control transfer -/

/-- R123: NOP and NOP_EXT have no effect but to move on. R128, R49: DEMOTE marks the performing lanes. -/
def Obligations.NopAndDemote : Prop :=
  (∀ s sw e, IssuesB s 0x00 (bareB sw) e → Gives (.nop sw) s (fun t => e.Moves s t (fun _ x y => e.Falls x y))) ∧
  (∀ s f e, Issues s 0x00 f e → Gives (.nopExt f) s (fun t => e.Moves s t (fun _ x y => e.Falls x y))) ∧
  (∀ s sw e, IssuesB s 0x07 (bareB sw) e → Gives (.demote sw) s (fun t => e.Moves s t (fun l x y =>
    e.Falls { x with demoted := x.demoted || e.perf.contains l } y))) ∧
  (∀ s f e, Issues s 0x07 f e → Gives (.demoteExt f) s (fun t => e.Moves s t (fun l x y =>
    e.Falls { x with demoted := x.demoted || e.perf.contains l } y)))

/-- R124 to R126, R131: branches and calls move the performing lanes to their targets; a call pushes a frame and slides the
window; the others fall through. In run-time code no target may leave the body of a lane's loop. -/
def Obligations.BranchesAndCalls : Prop :=
  let fixedTarget (e : Env) : DWord := e.pc + BitVec.ofInt 64 (Fields.branchOff e.f)
  let inBody (e : Env) (t : Nat → DWord) : Prop := ∀ l ∈ e.perf, e.leavesBody l (t l) = false
  let fits (e : Env) : Prop := ∀ l ∈ e.perf, (e.lane l).frames.length ≠ 1023 ∧
    (e.lane l).w0 + e.f.d.toNat + e.role.budget ≤ e.role.stack
  let transfers (e : Env) : Prop := ∀ l ∈ e.perf, e.s.checkTransfer e.grid e.role false (e.a64 l) = none
  (∀ s f e, Issues s 0x01 f e → e.grp.lanes.length = e.w → inBody e (fun _ => fixedTarget e) →
    Gives (.bra f) s (fun t => e.Moves s t (fun l x y => if e.guard l then
      e.Goes { x with yielded := x.yielded || f.ctl.getLsbD 0 } y (fixedTarget e) else e.Falls x y))) ∧
  (∀ s f e, Issues s 0x02 f e → e.grp.lanes.length = e.w → transfers e → inBody e (fun l => BitVec.ofNat 64 (e.a64 l)) →
    Gives (.brx f) s (fun t => e.Moves s t (fun l x y => if e.guard l then e.Goes x y (BitVec.ofNat 64 (e.a64 l)) else e.Falls x y))) ∧
  (∀ s f e, Issues s 0x03 f e → e.grp.lanes.length = e.w → fits e → inBody e (fun _ => fixedTarget e) →
    Gives (.call f) s (fun t => e.Moves s t (fun l x y => if e.guard l then
      ({ x with frames := ⟨e.nextPc, f.d.toNat⟩ :: x.frames, w0 := x.w0 + f.d.toNat } : Lane).At y (fixedTarget e) else e.Falls x y))) ∧
  (∀ s f e, Issues s 0x04 f e → e.grp.lanes.length = e.w → fits e → transfers e → inBody e (fun l => BitVec.ofNat 64 (e.a64 l)) →
    Gives (.callx f) s (fun t => e.Moves s t (fun l x y => if e.guard l then
      ({ x with frames := ⟨e.nextPc, f.d.toNat⟩ :: x.frames, w0 := x.w0 + f.d.toNat } : Lane).At y (BitVec.ofNat 64 (e.a64 l))
      else e.Falls x y)))

/-- R52, R75, R125 to R127, R131: CALL_DEPTH of both calls, before the checks of a computed target; the order of these checks; the faults of
the lanes that fail one, with the target in the record; a RET to an address that fails one, with 0 there (R333), and one of run-time code that
holds a loop record. No lane transfers. -/
def Obligations.TransferFaults : Prop :=
  let deep (e : Env) (l : Nat) : Bool :=
    decide ((e.lane l).frames.length = 1023 ∨ e.role.stack < (e.lane l).w0 + e.f.d.toNat + e.role.budget)
  let chk (e : Env) (l : Nat) : Option Nat := e.s.checkTransfer e.grid e.role false (e.a64 l)
  let stays (e : Env) (t : Nat → DWord) : Prop := ∀ l ∈ e.perf, e.leavesBody l (t l) = false
  let target (e : Env) (l : Nat) : DWord := BitVec.ofNat 64 (e.a64 l)
  (∀ s f e, Issues s 0x03 f e → (∃ l ∈ e.perf, deep e l = true) → stays e (fun _ => e.pc + BitVec.ofInt 64 (Fields.branchOff e.f)) →
    Gives (.call f) s (fun t => e.Faults s t ((e.perf.filter (deep e)).map (fun l => e.record l 0x11 0)))) ∧
  (∀ s f e, Issues s 0x04 f e → (∃ l ∈ e.perf, deep e l = true) → (∀ l ∈ e.perf, deep e l = false → chk e l = none) → stays e (target e) →
    Gives (.callx f) s (fun t => e.Faults s t ((e.perf.filter (deep e)).map (fun l => e.record l 0x11 0)))) ∧
  (∀ s f e, Issues s 0x04 f e → (∀ l ∈ e.perf, deep e l = false) → (∃ l ∈ e.perf, chk e l ≠ none) → stays e (target e) →
    Gives (.callx f) s (fun t => e.Faults s t (e.perf.filterMap (fun l => (chk e l).map (fun c => e.record l c (e.a64 l)))))) ∧
  (∀ s f e, Issues s 0x02 f e → (∃ l ∈ e.perf, chk e l ≠ none) → stays e (target e) →
    Gives (.brx f) s (fun t => e.Faults s t (e.perf.filterMap (fun l => (chk e l).map (fun c => e.record l c (e.a64 l)))))) ∧
  (∀ (s : State) (e : Env) (i : Instr), ((∃ sw, IssuesB s 0x05 (bareB sw) e ∧ i = .ret sw) ∨ ∃ f, Issues s 0x05 f e ∧ i = .retExt f) →
    let back (l : Nat) : Option Nat := if e.inRun = true ∧ (e.lane l).loopHere ≠ none then some 0x03 else match (e.lane l).frames with
      | fr :: _ => e.s.checkTransfer e.grid e.role true fr.ret.toNat
      | [] => none
    (∃ l ∈ e.perf, back l ≠ none) → Gives i s (fun t => e.Faults s t (e.perf.filterMap (fun l => (back l).map (fun c => e.record l c 0))))) ∧
  (∀ (s : State) (g : Grid) (r : RoleRec) (ret : Bool) (t : Nat), t % 4 ≠ 0 → s.checkTransfer g r ret t = some 0x06) ∧
  (∀ (s : State) (g : Grid) (r : RoleRec) (ret : Bool) (t : Nat), t % 4 = 0 → canonicalVa t = false → s.checkTransfer g r ret t = some 0x05) ∧
  (∀ (s : State) (g : Grid) (r : RoleRec) (ret : Bool) (p : Process) (t : Nat), t % 4 = 0 → s.proc? g.proc = some p →
    (match walk s.dram p.root t .ex with | .leaf _ _ _ _ _ _ => False | _ => True) → s.checkTransfer g r ret t = some 0x05) ∧
  (∀ (s : State) (g : Grid) (r : RoleRec) (ret : Bool) (p : Process) (a b c d x : Nat) (mig : Bool) (o : CodeObj) (t : Nat),
    t % 4 = 0 → canonicalVa t = true → s.proc? g.proc = some p → walk s.dram p.root t .ex = .leaf a b mig c d x → s.textOf g.proc t = some o →
    (t - o.text ∉ o.starts → s.checkTransfer g r ret t = some 0x01) ∧
    (t - o.text ∈ o.starts → s.checkTransfer g r true t = none) ∧
    (t - o.text ∈ o.starts → (∀ q ∈ o.points, q.1 ≠ t - o.text) → s.checkTransfer g r false t = some 0x03) ∧
    (∀ q, t - o.text ∈ o.starts → o.points.find? (fun z => z.1 == t - o.text) = some q →
      s.checkTransfer g r false t = if r.budget ≤ q.2 then some 0x03 else none))

/-- R127, R128, R50: RET pops a frame; EXIT, and RET at depth 0, make lanes exited: no loop record stays, cv0 has them no
more, and no result comes back to them; what they had issued stays on its way. -/
def Obligations.ReturnsAndExits : Prop :=
  let returns (e : Env) (s t : State) : Prop := e.Moves s t (fun l x y => if e.guard l then
    (match x.frames with
      | fr :: rest => ({ x with frames := rest, w0 := x.w0 - fr.n } : Lane).At y fr.ret
      | [] => False) else e.Falls x y)
  let free (e : Env) : Prop := e.grp.lanes.length = e.w ∧ (e.inRun = true → ∀ l ∈ e.perf, (e.lane l).loopHere = none)
  let deep (e : Env) : Prop := free e ∧ ∀ l ∈ e.perf, ∃ fr rest, (e.lane l).frames = fr :: rest ∧
    e.s.checkTransfer e.grid e.role true fr.ret.toNat = none
  let exited (e : Env) (t : State) : Prop := ∃ g, e.grp? t = some g ∧ ∀ l ∈ e.perf, (∃ y, g.lanes[l]? = some y ∧ y.st = .exited ∧ y.loops = []) ∧
    g.live.getLsbD l = false ∧
    (∀ r ∈ t.results, r.tag = e.grid.tag → r.team = e.team.idx → r.grp = e.grp.num → r.lanes.getLsbD l = false) ∧
    t.accs.map (·.id) = e.s.accs.map (·.id)
  let shallow (e : Env) : Prop := free e ∧ ∀ l ∈ e.perf, (e.lane l).frames = []
  (∀ s sw e, IssuesB s 0x05 (bareB sw) e → deep e → Gives (.ret sw) s (returns e s)) ∧
  (∀ s f e, Issues s 0x05 f e → deep e → Gives (.retExt f) s (returns e s)) ∧
  (∀ s sw e, IssuesB s 0x05 (bareB sw) e → shallow e → Gives (.ret sw) s (exited e)) ∧
  (∀ s f e, Issues s 0x05 f e → shallow e → Gives (.retExt f) s (exited e)) ∧
  (∀ s sw e, IssuesB s 0x06 (bareB sw) e → e.grp.lanes.length = e.w → Gives (.exit sw) s (exited e)) ∧
  (∀ s f e, Issues s 0x06 f e → e.grp.lanes.length = e.w → Gives (.exitExt f) s (exited e))

/-- R55, R129 to R131: LOOP opens a record with its count, or skips the body; the end of the body counts down and returns to
the start until 0; LBRK leaves; with three loops LOOP is LOOP_NEST, and in run-time code LBRK without a record a CONTRACT. -/
def Obligations.HardwareLoops : Prop :=
  let beyond (e : Env) (s : State) (last : DWord) : DWord := last + BitVec.ofNat 64 (s.lenAt e.team.core e.grid.proc last.toNat)
  let breaks (e : Env) (s t : State) : Prop := e.Moves s t (fun l x y => if e.guard l then
    (match x.loops with
      | r :: rest => e.Goes { x with loops := rest } y (beyond e s r.last)
      | [] => False) else e.Falls x y)
  let inLoop (e : Env) : Prop := e.grp.lanes.length = e.w ∧ ∀ l ∈ e.perf, ∃ r rest, (e.lane l).loops = r :: rest ∧ r.depth = (e.lane l).frames.length
  let lost (e : Env) : Prop := e.perf ≠ [] ∧ ∀ l ∈ e.perf, (e.lane l).loopHere = none
  (∀ s f e, Issues s 0x08 f e → f.prd = 127#7 → e.grp.lanes.length = e.w → (∀ l ∈ e.perf, (e.lane l).loops.length < 3) →
    let last := e.pc + BitVec.ofNat 64 (4 * (f.b.toNat * 256 + f.c.toNat))
    (∀ l ∈ e.perf, e.a32 l = 0 → e.leavesBody l (beyond e s last) = false) →
    Gives (.loop f) s (fun t => e.Moves s t (fun l x y =>
      let c := BitVec.ofNat 32 (e.a32 l)
      let n := x.loops.length
      if e.a32 l = 0 then e.Goes x y (beyond e s last)
      else e.Goes { x with lc0 := if n = 0 then c else x.lc0, lc1 := if n = 1 then c else x.lc1, lc2 := if n = 2 then c else x.lc2,
                           loops := ⟨e.nextPc, last, x.frames.length, f.ctl.getLsbD 0⟩ :: x.loops } y e.nextPc))) ∧
  (∀ s f e, Issues s 0x08 f e → e.perf ≠ [] → (∀ l ∈ e.perf, (e.lane l).loops.length = 3) →
    Gives (.loop f) s (fun t => e.Faults s t (e.perf.map (fun l => e.record l 0x12 0)))) ∧
  (∀ s sw e, IssuesB s 0x09 (bareB sw) e → inLoop e → Gives (.lbrk sw) s (breaks e s)) ∧
  (∀ s f e, Issues s 0x09 f e → inLoop e → Gives (.lbrkExt f) s (breaks e s)) ∧
  (∀ s sw e, IssuesB s 0x09 (bareB sw) e → lost e → Gives (.lbrk sw) s (fun t => e.Faults s t (e.perf.map (fun l => e.record l 0x03 0)))) ∧
  (∀ s f e, Issues s 0x09 f e → lost e → Gives (.lbrkExt f) s (fun t => e.Faults s t (e.perf.map (fun l => e.record l 0x03 0)))) ∧
  (∀ (l : Lane) (r : LoopRec) (rest : List LoopRec), l.loops = r :: rest → r.depth = l.frames.length → rest.length < 3 →
    let c := l.lc rest.length - 1#32
    (l.backEdge r.last).lc rest.length = c ∧
    (c = 0#32 → (l.backEdge r.last).loops = rest ∧ (l.backEdge r.last).pc = l.pc) ∧
    (c ≠ 0#32 → (l.backEdge r.last).loops = l.loops ∧ (l.backEdge r.last).pc = r.start ∧
      (l.backEdge r.last).yielded = (l.yielded || r.y)))

/-- R132, R302, R308: a lane at a CANON takes its snapshot and its sync set empties, or, where the point synchronises and
its sync set is not empty, it parks and nothing else of it changes; no register changes. Parked lanes whose sync sets are
resolved, the most lanes of the parked such that every member of their sync sets is one of them or has exited, run again with empty
ones and issue their CANON. -/
def Obligations.CanonicalPoints : Prop :=
  (∀ s f e, Issues s 0x0A f e → e.grid.dbg = none →
     let ord := s.ordAt e.grid.proc e.pc.toNat (f.a.toNat * 65536 + f.b.toNat * 256 + f.c.toNat)
     Gives (.canon f) s (fun t => e.Lanes t (fun l x y =>
       if e.w ≤ l then True
       else if (∃ c, s.canonEnt e.grid ord = some c ∧ c.sync = true) ∧ x.sigma ≠ 0#64 then y = { x with st := .atSync }
       else e.Falls { x with
         sigma := 0#64, matArr := false, arrived := [],
         snap := { ord := ord, pc := e.pc, frames := x.frames, w0 := x.w0, loops := x.loops, lc0 := x.lc0, lc1 := x.lc1, lc2 := x.lc2,
                   yielded := x.yielded, demoted := x.demoted, fstat := x.fstat } } y ∧ y.since = 1 ∧ y.irrev = false ∧ y.xfer = false) ∧
       t = { s with groups := t.groups })) ∧
  (∀ s tag team num gr g p f n, s.grid? tag = some gr → s.group? tag team num = some g → s.unstopped g = true → g.syncReady ≠ 0#64 →
    (∀ l, g.syncReady.getLsbD l = true → ∃ x, g.lanes[l]? = some x ∧ x.pc = p) → s.fetch (s.coreOf tag team) gr.proc p.toNat = .ok (.canon f) n →
    Gives (.syncCanonRelease tag team num) s (fun t => exec (.canon f)
      { (s.updGroup tag team num (fun h => h.updMask g.syncReady (fun _ l => { l with st := .running, sigma := 0#64 }))) with
        cur := ⟨tag, team, num, g.syncReady, p⟩ } = .next t)) ∧
  (∀ g : Group, g.lanes.length ≤ 64 →
    let resolved (r : LaneMask) : Prop := ∀ l, r.getLsbD l = true → ∃ x, g.lanes[l]? = some x ∧ x.st = .atSync ∧ x.sigma &&& g.live &&& ~~~r = 0#64
    resolved g.syncReady ∧ ∀ r, resolved r → r &&& ~~~g.syncReady = 0#64)

/-- R133, R331 to R333: TRAP and BRK stop the guard-true lanes with their code and 24-bit field; under a debugger BRK stops
only the team. -/
def Obligations.DeliberateFaults : Prop :=
  let code (f : Fields) : Nat := f.a.toNat * 65536 + f.b.toNat * 256 + f.c.toNat
  (∀ s f e, Issues s 0x0B f e → e.perf ≠ [] → Gives (.trap f) s (fun t => e.Faults s t (e.perf.map (fun l => e.record l 0x13 (code f))))) ∧
  (∀ s f e, Issues s 0x0C f e → e.perf ≠ [] → e.grid.dbg = none →
    Gives (.brk f) s (fun t => e.Faults s t (e.perf.map (fun l => e.record l 0x14 (code f))))) ∧
  (∀ s f e, Issues s 0x0C f e → e.perf ≠ [] → e.grid.dbg ≠ none →
    Gives (.brk f) s (fun t => t = { s with teams := t.teams } ∧ t.team? e.grid.tag e.team.idx = some { e.team with stopped := true })) ∧
  (∀ s f e, Issues s 0x0B f e → e.perf = [] → Gives (.trap f) s (fun t => e.Moves s t (fun _ x y => e.Falls x y)))

/-- R101: where a flag that is enabled would be raised, FP_TRAP is taken with every flag in the record, and neither a
register nor `fstat` changes. That the upper half of a literal is read under `.h1` (FCMP, FCVT, F2I) is the model's choice (log 86). -/
def Obligations.FloatTraps : Prop :=
  let trapped (e : Env) (out : Nat → Out) : List FaultRec :=
    (e.exec.filter (fun l => (out l).flags &&& e.grid.kcb.fptrap ≠ 0#5)).map (fun l => e.record l 0x10 (out l).flags.toNat)
  let traps (i : Fields → Instr) (opc : Nat) (out : Env → Nat → Out) : Prop := ∀ s f e, Issues s opc f e →
    (∃ l ∈ e.exec, (out e l).flags &&& e.grid.kcb.fptrap ≠ 0#5) → Gives (i f) s (fun t => e.Faults s t (trapped e (out e)))
  let trapsB (i : BFields → Instr) (opc : Nat) (out : Env → Nat → Out) : Prop := ∀ s g e, IssuesB s opc g e →
    (∃ l ∈ e.exec, (out e l).flags &&& e.grid.kcb.fptrap ≠ 0#5) → Gives (i g) s (fun t => e.Faults s t (trapped e (out e)))
  trapsB .fadd 0x60 Env.faddOut ∧ trapsB .fsub 0x61 Env.fsubOut ∧ trapsB .fmul 0x62 Env.fmulOut ∧
  traps .faddExt 0x60 Env.faddOut ∧ traps .fsubExt 0x61 Env.fsubOut ∧ traps .fmulExt 0x62 Env.fmulOut ∧
  traps .ffma 0x63 Env.ffmaOut ∧ traps .fmin 0x64 (Env.fselOut false) ∧ traps .fmax 0x65 (Env.fselOut true) ∧
  traps .frnd 0x66 Env.frndOut ∧ traps .fscale 0x68 Env.fscaleOut ∧ traps .hadd2 0x70 Env.haddOut ∧ traps .hmul2 0x71 Env.hmulOut ∧
  traps .hfma2 0x72 Env.hfmaOut ∧ traps .hmin2 0x73 (Env.hselOut false) ∧ traps .hmax2 0x74 (Env.hselOut true) ∧
  traps .fcvt 0x90 Env.fcvtOut ∧ traps .f2i 0x91 Env.f2iOut ∧ traps .i2f 0x92 Env.i2fOut ∧ traps .cvtpk 0x93 Env.cvtpkOut ∧
  traps .fcmp 0x51 Env.fcmpOut

/-! ### Collectives -/

/-- R46, R168, R308: at a collective, of lanes or of matrices, the lanes of the set arrive with their sources and guards and
park; their sync sets gain the participants; no register changes. A first arrival opens the instance, a later one joins
it. R47: where a performing lane is outside the participant set (so where the set is empty), every such lane faults and nothing else
happens; that a lane outside it whose guard is false goes on instead is the model's choice (log 22). -/
def Obligations.CollectiveArrivals : Prop :=
  let arrives (i : Fields → Instr) (opc : Nat) (src : Env → Nat → Nat × Nat × Nat) : Prop :=
    ∀ s f e known part, Issues s opc f e → known = e.grp.inst? e.pc e.depth (f.ctl.toNat % 8) →
      part = (if f.ctl.toNat % 8 = 0 then e.grp.live else match known with
        | some k => k.members
        | none => Sparse.get 0#64 e.grp.cv (f.ctl.toNat % 8)) →
      (∀ k, known = some k → ∀ j ∈ e.grp.insts, j.id = k.id → j = k) →
      (e.perf.filter (fun l => !part.getLsbD l) ≠ [] →
        Gives (i f) s (fun t => e.Faults s t ((e.perf.filter (fun l => !part.getLsbD l)).map (fun l => e.record l 0x02 0)))) ∧
      (e.perf.filter (fun l => !part.getLsbD l) = [] → Gives (i f) s (fun t => ∃ g id,
        t = { s with groups := t.groups, nextId := t.nextId } ∧ e.grp? t = some g ∧ g.s = e.grp.s ∧ g.cv = e.grp.cv ∧
        id = (match known with
          | some k => k.id
          | none => s.nextId) ∧
        (∀ l x, e.grp.lanes[l]? = some x → ∃ y, g.lanes[l]? = some y ∧ (e.mask.getLsbD l = false → y = x) ∧
          (e.mask.getLsbD l = true → part.getLsbD l = false → y.v = x.v ∧ y.p = x.p ∧ e.Falls x y) ∧
          (e.mask.getLsbD l = true → part.getLsbD l = true →
            y = { x with st := .atCollective id, sigma := x.sigma ||| part, matArr := y.matArr, arrived := y.arrived })) ∧
        (e.mask &&& part = 0#64 → t.nextId = s.nextId ∧ g.insts = e.grp.insts) ∧
        (e.mask &&& part ≠ 0#64 → ∃ k, k ∈ g.insts ∧ k.id = id ∧ k.arrivals = (match known with
            | some j => j.arrivals
            | none => []) ++ (e.set.filter (fun l => part.getLsbD l)).map (fun l =>
              { lane := l, guard := e.guard l, a := (src e l).1, b := (src e l).2.1, c := (src e l).2.2 }))))
  arrives .lshuf 0xA0 (fun e l => (e.a32 l, e.b32 l, 0)) ∧ arrives .lbcast 0xA1 (fun e l => (e.a32 l, e.b32 l, 0)) ∧
  arrives .lvote 0xA2 (fun e l => (b2n (e.predSrc l e.f.a), 0, 0)) ∧ arrives .lballot 0xA3 (fun e l => (b2n (e.predSrc l e.f.a), 0, 0)) ∧
  arrives .lred 0xA4 (fun e l => (e.a32 l, 0, 0)) ∧ arrives .lscan 0xA5 (fun e l => (e.a32 l, 0, 0)) ∧
  arrives .lmatch 0xA6 (fun e l => (e.a32 l, 0, 0)) ∧ arrives .cvset 0xA7 (fun e l => (b2n (e.predSrc l e.f.a), 0, 0)) ∧
  arrives .mma 0xE0 (fun e l => (e.a64 l, e.b64 l, e.c32 l)) ∧ arrives .mmag 0xE1 (fun e l => (e.a64 l, e.b64 l, e.c32 l)) ∧
  arrives .azero 0xE2 (fun _ _ => (0, 0, 0)) ∧ arrives .acmt 0xE3 (fun _ _ => (0, 0, 0)) ∧
  arrives .adrain 0xE4 (fun e l => (e.a64 l, e.b32 l, (e.lane l).w0)) ∧ arrives .aload 0xE5 (fun e l => (e.a64 l, 0, 0)) ∧
  arrives .amerge 0xE6 (fun _ _ => (0, 0, 0)) ∧ arrives .acfg 0xE7 (fun e l => (e.a32 l, 0, 0))

/-- R46, R48, R176, R223, R225, R308: a complete collective that is first in order issues: its members run again past the
instruction and the instance is gone. CVSET writes its convergence register, the other lane collectives leave one result, and a
matrix instance with a member whose guard is true joins the end of its team's matrix order. An instance whose missing members
have all exited faults at a boundary of a group that is not stopped, and so does every waiting instance where all lanes that have not
exited wait at instances or at synchronising CANONs and none of these may be released: the lanes that have arrived fault, and no others. -/
def Obligations.CollectiveIssues : Prop :=
  let released (g h : Group) (i : Inst) : Prop := h.s = g.s ∧ h.insts = g.insts.filter (fun x => x.id ≠ i.id) ∧
    ∀ l x, g.lanes[l]? = some x → ∃ y, h.lanes[l]? = some y ∧ (i.arrivedMask.getLsbD l = false → y = x) ∧
      (i.arrivedMask.getLsbD l = true → y.v = x.v ∧ y.p = x.p ∧ (y.st = .running ∨ y.st = .draining) ∧
        (x.noEdge i.pc = true → y.pc = i.pc + BitVec.ofNat 64 (Form.len i.f.form)))
  (∀ s tag team num gr g i t0, s.grid? tag = some gr → s.group? tag team num = some g →
     g.insts.find? (fun x => x.id == i.id) = some i → i.done = some t0 → 0xA0 ≤ i.opc → i.opc ≤ 0xA7 →
     s.unstopped g = true → (∀ x ∈ g.insts, ∀ u, x.done = some u → t0 ≤ u) →
     (i.opc = 0xA7 → ∀ r ∈ s.results, r.coll = true → ¬(r.tag = tag ∧ r.team = team ∧ r.grp = num)) →
     Gives (.collectiveIssue tag team num i.id) s (fun t => ∃ h, t.group? tag team num = some h ∧ released g h i ∧
       (if i.opc = 0xA7 then
         t = { s with groups := t.groups } ∧ h.cv = Sparse.set 0#64 g.cv i.f.d.toNat
           (maskOf (((i.parts gr.kcb.width).filter (fun a => a.guard && a.a == 1)).map (·.lane)))
        else h.cv = g.cv ∧ (if (laneResults gr.kcb.width g i).1 = [] then t.results = s.results else
          ∃ r, t.results = s.results ++ [r] ∧ r.pc = i.pc ∧ r.issue = t0 ∧ r.coll = true ∧ r.writes = (laneResults gr.kcb.width g i).1 ∧
            r.flags = r.writes.map (fun x => (x.1, (laneResults gr.kcb.width g i).2)))))) ∧
  (∀ s tag team num gr g u i t0, s.grid? tag = some gr → s.group? tag team num = some g → s.team? tag team = some u →
     g.insts.find? (fun x => x.id == i.id) = some i → i.done = some t0 → 0xE0 ≤ i.opc → i.opc ≤ 0xE7 →
     s.unstopped g = true → (∀ x ∈ g.insts, ∀ v, x.done = some v → t0 ≤ v) →
     (∀ h ∈ s.groups, h.tag = tag → h.team = team → ∀ x ∈ h.insts, 0xE0 ≤ x.opc → x.opc ≤ 0xE7 → ∀ v, x.done = some v → t0 ≤ v) →
     Gives (.collectiveIssue tag team num i.id) s (fun t =>
       t = { s with groups := t.groups, teams := t.teams } ∧ (∃ h, t.group? tag team num = some h ∧ h.cv = g.cv ∧ released g h i) ∧
       (if (i.parts gr.kcb.width).any (·.guard) = true then
         ∃ v m, t.team? tag team = some v ∧ v = { u with matq := u.matq ++ [m], marked := v.marked, past := v.past } ∧
           m.id = i.id ∧ m.grp = num ∧ m.pc = i.pc ∧ m.opc = i.opc ∧ m.f = i.f ∧ m.arrivals = i.parts gr.kcb.width ∧ m.stamp = t0
        else t.teams = s.teams))) ∧
  (∀ s tag team num gr g i, s.grid? tag = some gr → s.group? tag team num = some g → s.unstopped g = true →
     i ∈ g.insts → i.done = none →
     (i.set g &&& ~~~ i.arrivedMask &&& g.live = 0#64 ∨
       (g.syncReady = 0#64 ∧ (∃ x ∈ g.lanes, ∃ k, x.st = .atCollective k) ∧
         ∀ x ∈ g.lanes, x.st = .exited ∨ x.st = .atSync ∨ ∃ k ∈ g.insts, k.done = none ∧ x.st = .atCollective k.id)) →
     Gives (.collectiveStranded tag team num) s (fun t =>
       (∃ h, t.group? tag team num = some { g with stopped := true } ∧ t.grid? tag = some h ∧
         (∀ l, i.arrivedMask.getLsbD l = true → faultRec g l 0x0E i.pc 0 ∈ h.faults) ∧
         ∀ r ∈ h.faults, r ∈ gr.faults ∨ ∃ k ∈ g.insts, k.done = none ∧ ∃ l, k.arrivedMask.getLsbD l = true ∧ r = faultRec g l 0x0E k.pc 0) ∧
       t = { s with grids := t.grids, groups := t.groups }))

/-- R168, R170 to R175: what each lane collective writes: to every member whose guard was true, one register, a predicate, or the lane mask
in one register or a pair; the values of a shuffle, a broadcast, a vote, a ballot and a match; the operations of a fold with
their identities; a fold passes over guard-false members in lane order, a NaN contribution made canonical first: an inclusive
scan gives each member the combination of the contributions up to its own, an exclusive one those before it, with the identity
for the first, and a reduction the last. -/
def Obligations.LaneValues : Prop :=
  ((∀ (mode w : Nat) (ps : List Arrival) (m : Arrival),
     let src : Int := if mode = 0 then m.b else if mode = 1 then (m.lane : Int) - m.b else if mode = 2 then m.lane + m.b else (m.lane ^^^ m.b : Nat)
     (src < 0 ∨ (w : Int) ≤ src → shufVal mode w ps m = m.a) ∧
     (0 ≤ src → src < w → arrivalAt ps src.toNat = none → shufVal mode w ps m = m.a) ∧
     (∀ x, 0 ≤ src → src < w → arrivalAt ps src.toNat = some x → shufVal mode w ps m = if x.guard then x.a else 0)) ∧
   (∀ (w : Nat) (ps : List Arrival) (m : Arrival),
     (arrivalAt ps (m.b % w) = none → bcastVal w ps m = 0) ∧
     (∀ x, arrivalAt ps (m.b % w) = some x → bcastVal w ps m = if x.guard then x.a else 0)) ∧
   (∀ ps : List Arrival,
     let vs := ps.filter (·.guard)
     (voteVal 0 ps = true ↔ ∀ x ∈ vs, x.a = 1) ∧ (voteVal 1 ps = true ↔ ∃ x ∈ vs, x.a = 1) ∧
     (voteVal 2 ps = true ↔ (∀ x ∈ vs, x.a = 1) ∨ ∀ x ∈ vs, x.a ≠ 1)) ∧
   (∀ (ps : List Arrival) (l : Nat), (ballotVal ps).getLsbD l = true ↔ l < 64 ∧ ∃ x ∈ ps, x.lane = l ∧ x.guard = true ∧ x.a = 1) ∧
   (∀ (ps : List Arrival) (m : Arrival) (l : Nat), (matchVal ps m).getLsbD l = true ↔ l < 64 ∧ ∃ x ∈ ps, x.lane = l ∧ x.guard = true ∧ x.a = m.a)) ∧
  (∀ (mode : Rnd) (sat : Bool) (x y : Nat), x < 2 ^ 32 → y < 2 ^ 32 →
     let c (op : Nat) : Nat := (combine op false mode sat x y).1
     c 0 = (x + y) % 2 ^ 32 ∧ sgn 32 (c 1) = min (sgn 32 x) (sgn 32 y) ∧ sgn 32 (c 2) = max (sgn 32 x) (sgn 32 y) ∧
     c 3 = min x y ∧ c 4 = max x y ∧
     (∀ i, (c 5).testBit i = (x.testBit i && y.testBit i) ∧ (c 6).testBit i = (x.testBit i || y.testBit i) ∧ (c 7).testBit i = (x.testBit i != y.testBit i)) ∧
     (∀ op < 8, c op < 2 ^ 32 ∧ (combine op false mode sat x y).2 = 0#5) ∧
     combine 0 true mode sat x y = roundOp .fp32 mode sat (Val.add mode (f32 x) (f32 y)) ∧
     combine 1 true mode sat x y = fminmax .fp32 false x y ∧ combine 2 true mode sat x y = fminmax .fp32 true x y) ∧
  ((List.range 8).map (fun op => identity op false) = [0, 0x7FFFFFFF, 0x80000000, 0xFFFFFFFF, 0, 0xFFFFFFFF, 0, 0] ∧
   (List.range 3).map (fun op => identity op true) = [0x80000000, 0x7F800000, 0xFF800000]) ∧
  (∀ (op : Nat) (fp exc : Bool) (mode : Rnd) (sat : Bool) (ps : List Arrival),
     let act := ps.filter (·.guard)
     let given (x : Arrival) : Nat × Flags := if fp then (match f32 x.a with
       | .nan sig => (0x7FC00000, if sig then flInvalid else 0#5)
       | _ => (x.a, 0#5)) else (x.a, 0#5)
     let join (q : Option Nat × Flags) (x : Arrival) : Option Nat × Flags := match q.1 with
       | none => (some (given x).1, q.2 ||| (given x).2)
       | some y => (some (combine op fp mode sat y (given x).1).1, q.2 ||| (given x).2 ||| (combine op fp mode sat y (given x).1).2)
     let upTo (n : Nat) : Option Nat × Flags := (act.take n).foldl join (none, 0#5)
     let r := foldScan op fp exc mode sat ps none 0#5 []
     r.1.length = act.length ∧ r.2.1 = (upTo act.length).1 ∧ r.2.2 = (upTo act.length).2 ∧
     ∀ k m, act[k]? = some m →
       r.1[k]? = some (m.lane, if exc then (upTo k).1.getD (identity op fp) else (upTo (k + 1)).1.getD 0)) ∧
  (∀ (w : Nat) (i : Inst), ((i.parts w).map (·.lane)).Pairwise (· < ·) ∧
     ∀ a, a ∈ i.parts w ↔ a.lane < w ∧ i.arrivals.find? (fun x => x.lane == a.lane) = some a) ∧
  (∀ (g : Group) (f : Fields) (l val : Nat) (x : Lane), g.lanes[l]? = some x →
     (f.d.toNat < 0xC0 → memberWr g f l 1 val = [{ dest := .v (x.w0 + f.d.toNat), val := val % 2 ^ 32 }] ∧
       memberWr g f l 2 val = [{ dest := .v (x.w0 + f.d.toNat), val := val % 2 ^ 32 }, { dest := .v (x.w0 + f.d.toNat + 1), val := val / 2 ^ 32 % 2 ^ 32 }]) ∧
     (f.d = 0xF0#8 → memberWr g f l 1 val = [] ∧ memberWr g f l 2 val = [])) ∧
  (∀ (w : Nat) (g : Group) (i : Inst),
     let ps := i.parts w
     let sub := i.f.sub.toNat
     let each (out : Arrival → List Wr) : List (Nat × List Wr) := (ps.filter (·.guard)).map (fun m => (m.lane, out m))
     let reg (v : Arrival → Nat) := each (fun m => memberWr g i.f m.lane 1 (v m))
     let lanes (v : Arrival → LaneMask) := each (fun m => memberWr g i.f m.lane (if w = 64 then 2 else 1) (v m).toNat)
     let fold := foldScan (sub % 8) (i.f.sub.getLsbD 3) (i.f.sub.getLsbD 4) (Rnd.ofField i.f.rnd) i.f.sat ps none 0#5 []
     (i.opc = 0xA0 → laneResults w g i = (reg (shufVal sub w ps), 0#5)) ∧
     (i.opc = 0xA1 → laneResults w g i = (reg (bcastVal w ps), 0#5)) ∧
     (i.opc = 0xA2 → laneResults w g i = (each (fun _ => wrP i.f.d (voteVal sub ps)), 0#5)) ∧
     (i.opc = 0xA3 → laneResults w g i = (lanes (fun _ => ballotVal ps), 0#5)) ∧
     (i.opc = 0xA4 → laneResults w g i = (reg (fun _ => fold.2.1.getD 0), fold.2.2)) ∧
     (i.opc = 0xA5 → laneResults w g i = (fold.1.map (fun o => (o.1, memberWr g i.f o.1 1 o.2)), fold.2.2)) ∧
     (i.opc = 0xA6 → laneResults w g i = (lanes (matchVal ps), 0#5)) ∧
     (i.opc = 0xA7 → laneResults w g i = ([], 0#5)))

/-! ### Memory -/

/-- R184, R186, R193, R246, R259, R260: the checks of an address, in order: alignment, then the space's bound (or, globally, canonical
form and translation, by the core's TLB where it holds a leaf that permits the access, else by the walk); inside, the place is
the team's scratchpad, or the one of the rank that the upper half names. Addresses that back the registers of the
process's grids are in no space that a program can address; that such an address fails the second check is the model's choice
(log 25). -/
def Obligations.AddressChecks : Prop :=
  (∀ (e : Env) (s : State) (x size : Nat) (k : Acc), 0 < size →
    (∀ sp, x % size ≠ 0 → e.chk s sp x size k = (.fault 0x06 x, s)) ∧
    (x % size = 0 → e.chk s .own x size k =
      if e.grid.kcb.scratch < x + size then (.fault 0x07 x, s) else (.ok (.scr e.team.core (e.team.base + x)), s)) ∧
    (x % size = 0 → e.grid.kcb.cluster ≤ x / 2 ^ 32 → e.chk s .cluster x size k = (.fault 0x07 x, s)) ∧
    (∀ u, x % size = 0 → x / 2 ^ 32 < e.grid.kcb.cluster →
      s.team? e.grid.tag (e.team.idx / e.grid.kcb.cluster * e.grid.kcb.cluster + x / 2 ^ 32) = some u →
      e.chk s .cluster x size k =
        if e.grid.kcb.scratch < x % 2 ^ 32 + size then (.fault 0x07 x, s) else (.ok (.scr u.core (u.base + x % 2 ^ 32)), s)) ∧
    (x % size = 0 → canonicalVa x = false ∨ s.offLimits e.grid.proc x = true → e.chk s .global x size k = (.fault 0x05 x, s)) ∧
    (∀ g ∈ s.grids, g.proc = e.grid.proc → g.backing % 2 ^ 57 ≤ x % 2 ^ 57 → x % 2 ^ 57 < g.backing % 2 ^ 57 + g.backingBytes →
      s.offLimits e.grid.proc x = true) ∧
    (∀ r s1, x % size = 0 → canonicalVa x = true → s.offLimits e.grid.proc x = false → s.translateAt e.team.core e.grid.part e.grid.proc x k = (r, s1) →
      e.chk s .global x size k = (match r with
        | .at_ l => .ok l
        | .miss mig => if (e.grid.proc, x) ∈ s.declined then .fault 0x04 x else .miss x mig
        | .bad c => .fault c x, s1)) ∧
    (∀ sp addr l ls, e.chkAll sp size k addr [] s = ([], s) ∧ e.chkAll sp size k addr (l :: ls) s =
      ((l, (e.chk s sp (addr l) size k).1) :: (e.chkAll sp size k addr ls (e.chk s sp (addr l) size k).2).1,
        (e.chkAll sp size k addr ls (e.chk s sp (addr l) size k).2).2)) ∧
    ((canonicalVa x = true ↔ (x / 2 ^ 56 % 256 = 0 ∨ x / 2 ^ 56 % 256 = 255)))) ∧
  (∀ (s : State) (core part pid x : Nat) (k : Acc),
    (∀ l, s.tlb? core pid x = some l → permits l.entry k = true → (l.entry.testBit 6 = true ∨ k = .rd ∨ k = .ex) →
      let a := bits l.entry 55 8 * 256 + x % pageBytes l.level
      s.translateAt core part pid x k = (.at_ (if bits l.entry 57 56 = 0 then .dram a else .sys a), s)) ∧
    (∀ p, canonicalVa x = true → s.tlb? core pid x = none → s.walkers = [] → s.proc? pid = some p → (s.translateAt core part pid x k).1 =
      match walk s.dram p.root x k with
      | .leaf a loc mig _ _ _ => if mig then .miss true else .at_ (if loc = 0 then .dram a else .sys a)
      | .miss => .miss false
      | .malformed => .bad 0x04
      | .denied => .bad 0x05))

/-- R190 to R193, R187, R49: a load leaves one access for each lane it executes for, a store one for each performing lane
that is not demoted, at the places the checks found; a 16-byte one is two of 8 bytes, and a load's keep the instruction's size as
their datum. Registers wait for the access. A lane whose fault R49 keeps from being reported receives 0 instead, and the others' loads
leave. R186: where an address does not translate the set is held, and where another check fails the lanes fault with code and
address; then nothing leaves in any lane. -/
def Obligations.LoadsAndStoresLeave : Prop :=
  let halves (size : Nat) : List Nat := if size = 16 then [0, 8] else [0]
  let hushed (e : Env) (l : Nat) : Bool := if e.uniform then e.set.all (fun k => (e.lane k).demoted) else (e.lane l).demoted
  let one (size : Nat) : Nat := if size = 16 then 8 else size
  let leaves (i : Fields → Instr) (opc : Nat) (sp : Space) (k : Acc) (lanes : Env → List Nat)
      (new : Env → (Nat → Loc) → Nat → Nat → AccKind × Loc × Nat × Nat × Nat × Dest) : Prop :=
    ∀ s f e s1 (loc : Nat → Loc) (dead : List (Nat × Nat × Nat)), Issues s opc f e →
      (∀ x ∈ dead, k = .rd ∧ hushed e x.1 = true) →
      let gone (l : Nat) : Option (Nat × Nat × Nat) := dead.find? (fun x => x.1 == l)
      let ls := (lanes e).filter (fun l => (gone l).isNone)
      e.chkAll sp (szBytes e.sub) k e.addr (lanes e) s = ((lanes e).map (fun l => (l, match gone l with
        | some x => .fault x.2.1 x.2.2
        | none => .ok (loc l))), s1) →
      Gives (i f) s (fun t => t = { s1 with groups := t.groups, accs := t.accs, nextId := t.nextId, results := t.results } ∧
        e.Lanes t (fun _ x y => e.Falls x y) ∧
        (if ls = lanes e then t.results = s.results else
          ∃ r, t.results = s.results ++ [r] ∧ r.lanes = (if e.uniform then e.mask else maskOf ((lanes e).filter (fun l => (gone l).isSome))) ∧
            r.writes = ((lanes e).filter (fun l => (gone l).isSome)).map (fun l => (l, e.wrD l (szSpan e.sub) 0))) ∧
        ∃ as, t.accs = s.accs ++ as ∧
          as.map (fun a => (a.lane, a.kind, a.loc, a.addr, a.size, a.dat, a.dest)) =
            ls.flatMap (fun l => (halves (szBytes e.sub)).map (fun o => (l, new e loc l o))) ∧
          ∀ a ∈ as, a.tag = e.grid.tag ∧ a.team = e.team.idx ∧ a.grp = e.grp.num ∧ a.pc = e.pc ∧ a.wait = none ∧
            a.lanes = (if e.uniform then e.mask else maskOf [a.lane]) ∧ a.by_ = a.lanes ∧ a.scope = e.f.ctl.toNat % 4 ∧
            a.ord = e.f.ctl.toNat / 4 % 4 ∧ a.ch = (if opc = 0xB0 ∨ opc = 0xB1 then e.sub / 8 else 0))
  let load (e : Env) (loc : Nat → Loc) (l o : Nat) : AccKind × Loc × Nat × Nat × Nat × Dest :=
    (.load (decide (e.sub % 8 = 0 ∨ e.sub % 8 = 2)), (loc l).plus o, e.addr l + o, one (szBytes e.sub), szBytes e.sub, (e.destAt l e.f.d 0).plus (o / 4))
  let store (e : Env) (loc : Nat → Loc) (l o : Nat) : AccKind × Loc × Nat × Nat × Nat × Dest :=
    (.store, (loc l).plus o, e.addr l + o, one (szBytes e.sub),
      e.raw l e.f.b e.f.modb (szSpan e.sub) / 2 ^ (8 * o) % 2 ^ (8 * one (szBytes e.sub)), .none)
  let stores (e : Env) : List Nat := e.perf.filter (fun l => !(e.lane l).demoted)
  leaves .ldg 0xB0 .global .rd Env.exec load ∧ leaves .lds 0xB2 .own .rd Env.exec load ∧ leaves .ldx 0xB4 .cluster .rd Env.exec load ∧
  leaves .stg 0xB1 .global .wr stores store ∧ leaves .sts 0xB3 .own .wr stores store ∧ leaves .stx 0xB5 .cluster .wr stores store ∧
  (let loads (i : Fields → Instr) (opc : Nat) (sp : Space) : Prop :=
     StopsAt i opc (fun _ => sp) (fun e => szBytes e.sub) .rd Env.exec (fun e l => !hushed e l) (fun _ _ => false)
   let writes (i : Fields → Instr) (opc : Nat) (sp : Space) : Prop :=
     StopsAt i opc (fun _ => sp) (fun e => szBytes e.sub) .wr stores (fun _ _ => true) (fun _ _ => false)
   loads .ldg 0xB0 .global ∧ loads .lds 0xB2 .own ∧ loads .ldx 0xB4 .cluster ∧
   writes .stg 0xB1 .global ∧ writes .sts 0xB3 .own ∧ writes .stx 0xB5 .cluster)

/-- R194 to R197, R49: atomics, compare-and-swaps and reductions leave one access for each performing lane that is not
demoted; a demoted lane's returning atomic returns 0. R186: where an address does not translate the set is held, and where another
check fails the lanes fault with code and address; then nothing leaves in any lane. -/
def Obligations.AtomicsLeave : Prop :=
  let span (e : Env) : Nat := if e.sub.testBit 4 then 2 else 1
  let leaves (i : Fields → Instr) (opc : Nat) (sp : Space) (cas ret : Bool) : Prop :=
    ∀ s f e s1 (loc : Nat → Loc), Issues s opc f e → (opc = 0xBA → e.grid.kcb.det = true → e.sub % 16 ≠ 9) →
      let ls := e.perf.filter (fun l => !(e.lane l).demoted)
      e.chkAll sp (4 * span e) .rw e.addr ls s = (ls.map (fun l => (l, .ok (loc l))), s1) →
      Gives (i f) s (fun t => t = { s1 with groups := t.groups, accs := t.accs, nextId := t.nextId, results := t.results } ∧
        e.Lanes t (fun _ x y => e.Falls x y) ∧
        (∃ as, t.accs = s.accs ++ as ∧ as.map (fun a => (a.lane, a.kind, a.loc, a.addr, a.size, a.dat, a.dat2, a.dest)) =
          ls.map (fun l => (l, (if cas then AccKind.cas ret else .atom (e.sub % 16) ret), loc l, e.addr l, 4 * span e,
            e.raw l e.f.b e.f.modb (span e), (if cas then e.raw l e.f.c e.f.modc (span e) else 0),
            (if ret then e.destAt l e.f.d 0 else .none)))) ∧
        (if ret = true ∧ ∃ l ∈ e.perf, (e.lane l).demoted = true then
          ∃ r, t.results = s.results ++ [r] ∧ r.writes = (e.perf.filter (fun l => (e.lane l).demoted)).map (fun l => (l, e.wrD l (span e) 0))
         else t.results = s.results))
  leaves .atomg 0xB8 .global false true ∧ leaves .casg 0xB9 .global true true ∧ leaves .redg 0xBA .global false false ∧
  leaves .atoms 0xBB .own false true ∧ leaves .cass 0xBC .own true true ∧ leaves .reds 0xBD .own false false ∧
  (let stops (i : Fields → Instr) (opc : Nat) (sp : Space) : Prop :=
     StopsAt i opc (fun _ => sp) (fun e => 4 * span e) .rw (fun e => e.perf.filter (fun l => !(e.lane l).demoted)) (fun _ _ => true) (fun _ _ => false)
   stops .atomg 0xB8 .global ∧ stops .casg 0xB9 .global ∧ stops .redg 0xBA .global ∧
   stops .atoms 0xBB .own ∧ stops .cass 0xBC .own ∧ stops .reds 0xBD .own)

/-- R298, R250: in a deterministic grid a floating REDG leaves with its key: team, flat lane and the lane's own sequence; its lines
go from the core's L1. -/
def Obligations.TaggedReductionsLeave : Prop :=
  ∀ s f e s1 (loc : Nat → Loc), Issues s 0xBA f e → e.grid.kcb.det = true → e.sub % 16 = 9 → e.sub.testBit 4 = false →
    let ls := e.perf.filter (fun l => !(e.lane l).demoted)
    e.chkAll .global 4 .rw e.addr ls s = (ls.map (fun l => (l, .ok (loc l))), s1) →
    (∀ l ∈ ls, (loc l).isSys = false ∧ (e.lane l).tseq ≠ 2 ^ 32 - 1) →
    Gives (.redg f) s (fun t => t = { s1 with groups := t.groups, reds := t.reds, nextId := t.nextId, l1 := t.l1, accs := t.accs } ∧
      t.accs.map (fun a => { a with stale := false }) = s1.accs.map (fun a => { a with stale := false }) ∧
      (∀ x, x ∈ t.l1 ↔ x ∈ s1.l1 ∧ ∀ l ∈ ls, ¬(x.core = e.team.core ∧ x.line = (loc l).down 64)) ∧
      (∃ rs, t.reds = s.reds ++ rs ∧ rs.map (fun r => (r.red.team, r.red.lane, r.red.seq, r.red.addr, r.red.val)) =
        ls.map (fun l => (e.team.idx, e.grp.num * e.grid.kcb.width + l, (e.lane l).tseq, (loc l).dramAddr, BitVec.ofNat 32 (e.b32 l)))) ∧
      e.Lanes t (fun l x y => e.Falls { x with tseq := if l ∈ ls then x.tseq + 1 else x.tseq } y))

/-- R198 to R200, R258: a FENCE leaves an ordering point for each performing lane; IFENCE leaves one too, and the lanes drain until it
has been made, which drops the core's code and has what is on its way to the core's octet read again (log 24); a fence that
acquires drops the core's L1 lines. PREF and CCTL change what the caches and the TLB hold, and of memory only the ACC bits that
the walks for their lanes' addresses set; `l1inv` drops its superblock. -/
def Obligations.FencesAndCacheControl : Prop :=
  let points (e : Env) (s t : State) (k : AccKind) : Prop := t = { s with groups := t.groups, accs := t.accs, nextId := t.nextId } ∧
    ∃ as, t.accs = s.accs ++ as ∧ as.map (fun a => (a.lane, a.kind, a.lanes, a.scope, a.ord)) =
      e.perf.map (fun l => (l, k, maskOf [l], e.f.ctl.toNat % 4, e.f.ctl.toNat / 4 % 4))
  (∀ s f e, Issues s 0xC0 f e → Gives (.fence f) s (fun t => points e s t .fence ∧ e.Lanes t (fun _ x y => e.Falls x y))) ∧
  (∀ s f e, Issues s 0xC1 f e → Gives (.ifence f) s (fun t => points e s t .ifence ∧ e.Lanes t (fun l x y =>
    e.Falls x y ∧ (l ∈ e.perf → x.st = .running → y.st = .draining)))) ∧
  (∀ s id a ecc, s.accs.find? (fun x => x.id == id) = some a → s.eligible a = true →
    let core := s.coreOf a.tag a.team
    (a.kind = .fence → Gives (.accessAtHome id ecc) s (fun t => t = { s with l1 := t.l1, accs := t.accs } ∧ t.accs.map (·.id) = (s.accs.filter (fun x => x.id ≠ id)).map (·.id) ∧
      t.l1 = if a.scope ≠ 0 ∧ (a.ord = 1 ∨ a.ord = 3) then s.l1.filter (fun x => decide (x.core ≠ core)) else s.l1)) ∧
    (a.kind = .ifence → Gives (.accessAtHome id ecc) s (fun t =>
      t = { s with groups := t.groups, accs := s.accs.filter (fun x => x.id ≠ id), icache := t.icache, txns := t.txns } ∧
      t.icache = s.icache.filter (fun x => decide (x.core ≠ core)) ∧
      t.txns = s.txns.map (fun x => match x.who with
        | .ifetch n c _ pc => if c / 8 = core / 8 then { x with who := .ifetchOld n pc } else x
        | _ => x)))) ∧
  (let cached (i : Fields → Instr) (opc : Nat) : Prop := ∀ s f e, Issues s opc f e →
      let walked : State := e.perf.foldl (fun s l => (s.chkGlobal e.team.core e.grid.part e.grid.proc (e.addr l) 1 .rd).2) s
      Gives (i f) s (fun t =>
        t = { s with groups := t.groups, dram := walked.dram, l1 := t.l1, l2 := t.l2, tlb := walked.tlb, walkers := walked.walkers, choice := t.choice,
                     accs := t.accs, nextId := t.nextId } ∧
        e.Lanes t (fun _ x y => e.Falls x y) ∧
        (∃ as, t.accs.map (fun a => { a with stale := false }) = (s.accs ++ as).map (fun a => { a with stale := false }) ∧
          ∀ a ∈ as, a.lanes = 0#64 ∧ a.loose = true ∧ a.isLoad = true) ∧
        (∀ l loc, opc = 0xC3 → e.sub = 0 → e.perf = [l] → (s.chkGlobal e.team.core e.grid.part e.grid.proc (e.addr l) 1 .rd).1 = .ok loc →
          t.l1 = s.l1.filter (fun x => !((List.range 4).any (fun i => x.core == e.team.core && x.line == (loc.down 256).plus (64 * i))))))
   cached .pref 0xC2 ∧ cached .cctl 0xC3) ∧
  (∀ (s : State) (core part pid x : Nat), (s.chkGlobal core part pid x 1 .rd).2.dram = s.dram ∨
    ∃ p addr loc mig at_ e level, s.proc? pid = some p ∧ walkGo s.dram (s.walkers.filter (fun w => w.proc == pid)) x .rd 5 0 p.root = .leaf addr loc mig at_ e level ∧
      (s.chkGlobal core part pid x 1 .rd).2.dram = s.dram.writeN at_ 8 (e ||| 32))

/-- R179, R187, R192, R195, R196, R250: a store, an atomic and a compare-and-swap write their bytes at their place and no other
byte; loads and constants write none; what returns is the old value, for a load without acquire, which no copy's ownership made wait,
what the core's L1 holds of it where it holds the line; an acquire drops the core's L1 lines; the access is over. -/
def Obligations.AccessEffects : Prop :=
  ∀ s id a at_, s.accs.find? (fun x => x.id == id) = some a → s.eligible a = true →
    (a.loc = .scr (at_ / Config.scratchBytes) (at_ % Config.scratchBytes) ∨ a.loc = .dram at_) → s.poisoned a.loc a.size = false →
    (∀ x, s.l1? (s.coreOf a.tag a.team) (.dram (at_ / 64 * 64)) = some x → x.spoilt = []) →
    let core := s.coreOf a.tag a.team
    let mem (t : State) : Memory := if a.loc = .dram at_ then t.dram else t.scratch
    let rest (t : State) : Memory := if a.loc = .dram at_ then t.scratch else t.dram
    let old := (mem s).readN at_ a.size
    let wrote (t : State) (v : Nat) : Prop := (mem t).readN at_ a.size = v % 2 ^ (8 * a.size) ∧
      (∀ b, b < at_ ∨ at_ + a.size ≤ b → (mem t).read b = (mem s).read b) ∧ rest t = rest s
    let ended (t : State) : Prop := t.accs.map (fun x => { x with stale := false }) =
      (s.accs.filter (fun x => x.id ≠ id)).map (fun x => { x with stale := false })
    let answers (t : State) (ws : List Wr) : Prop := a.lanes ≠ 0#64 →
      ∃ r, t.results = s.results ++ [r] ∧ r.lanes = a.lanes ∧ r.pc = a.pc ∧ r.issue = a.issue ∧ r.writes = [(a.lane, ws)]
    let value (v : Nat) : List Wr := if a.size = 8 then [⟨a.dest, v % 2 ^ 32⟩, ⟨a.dest.plus 1, v / 2 ^ 32⟩] else [⟨a.dest, v⟩]
    let acquires : Prop := a.scope ≠ 0 ∧ (a.ord = 1 ∨ a.ord = 3)
    let dropped (t : State) : Prop := acquires → ∀ x ∈ t.l1, x.core ≠ core
    (a.kind = .store → Gives (.accessAtHome id .none) s (fun t => wrote t a.dat ∧ ended t ∧ t.results = s.results)) ∧
    (∀ op ret, a.kind = .atom op ret → Gives (.accessAtHome id .none) s (fun t => wrote t (rmw op (8 * a.size) old a.dat) ∧ ended t ∧ dropped t ∧
      (if ret then answers t (value old) else t.results = s.results))) ∧
    (∀ ret, a.kind = .cas ret → Gives (.accessAtHome id .none) s (fun t => wrote t (if old = a.dat then a.dat2 else old) ∧ ended t ∧ dropped t ∧
      (if ret then answers t (value old) else t.results = s.results))) ∧
    (∀ sx, a.kind = .load sx → Gives (.accessAtHome id .none) s (fun t => t.scratch = s.scratch ∧ t.dram = s.dram ∧ ended t ∧ dropped t ∧
      let got := match (if a.loc = .dram at_ ∧ ¬ acquires ∧ a.waited = false then s.l1? core (.dram (at_ / 64 * 64)) else none) with
        | some x => ofLe ((x.bytes.drop (at_ % 64)).take a.size)
        | none => old
      answers t (value (if sx = true ∧ a.size < 4 then sext (8 * a.size) 32 got else got)))) ∧
    (a.kind = .ldk → Gives (.accessAtHome id .none) s (fun t => t.scratch = s.scratch ∧ t.dram = s.dram ∧ ended t ∧ answers t (value old)))

/-- R195, R187, R3: `new` of every read-modify-write, the floating ones rounded to nearest without a flag; a byte written is read back, and every other byte stays; the
canonical form stays. -/
def Obligations.UpdatesAndBytes : Prop :=
  (∀ w old b : Nat, 0 < w → old < 2 ^ w → b < 2 ^ w →
     (rmw 0 w old b : Int) = ((old : Int) + b) % 2 ^ w ∧
     sgn w (rmw 1 w old b) = min (sgn w old) (sgn w b) ∧ sgn w (rmw 2 w old b) = max (sgn w old) (sgn w b) ∧
     rmw 3 w old b = min old b ∧ rmw 4 w old b = max old b ∧
     (∀ i, (rmw 5 w old b).testBit i = (old.testBit i && b.testBit i) ∧ (rmw 6 w old b).testBit i = (old.testBit i || b.testBit i) ∧
       (rmw 7 w old b).testBit i = (old.testBit i != b.testBit i)) ∧
     rmw 8 w old b = b ∧ rmw 12 w old b = (if b ≤ old then 0 else old + 1) ∧
     rmw 13 w old b = (if old = 0 ∨ b < old then b else old - 1) ∧ ∀ op, op ≤ 8 ∨ op = 12 ∨ op = 13 → rmw op w old b < 2 ^ w) ∧
  (∀ (m : Memory) (a n x : Nat), (m.writeN a n x).readN a n = x % 2 ^ (8 * n) ∧
     (∀ b, b < a ∨ a + n ≤ b → (m.writeN a n x).read b = m.read b) ∧ (m.wf = true → (m.writeN a n x).wf = true)) ∧
  (∀ old b : Nat, rmw 9 32 old b = (round .fp32 .rne false (Val.add .rne (Fmt.fp32.val old) (Fmt.fp32.val b)).1).1 ∧
     rmw 10 32 old b = (fminmax .fp32 false old b).1 ∧ rmw 11 32 old b = (fminmax .fp32 true old b).1)

/-! ### Copies, barriers and matrix state -/

/-- R202 to R204, R208 to R210: a copy is posted for every performing lane that is not demoted, with the next sequence
numbers, when all have room; without room the issue does not take place and the group waits for that many entries; a failing
check is a fault: of the shape, the alignment, the multicast's ranks, the scratchpad's bound, the form of a global address, in that
order, with the first offending address of destination, source and barrier. Hints go the same way and
are dropped where there is no room. CPYSTAT returns a count or a sequence number, and the core's L1 lines go. -/
def Obligations.CopiesPosted : Prop :=
  let who (e : Env) : List Nat := e.perf.filter (fun l => !(e.lane l).demoted)
  let chk (e : Env) (l : Nat) : Option (Nat × Nat) :=
    copyChk e.copyDir e.copyMc (e.copyGb && e.copyDir == .s2g) e.copyMask e.grid.kcb.cluster e.grid.kcb.scratch (e.copyOps l)
  let queued (e : Env) (s t : State) (seq : Nat) (new : List Copy → Prop) : Prop :=
    t = { s with groups := t.groups, teams := t.teams, nextId := t.nextId } ∧ e.Lanes t (fun _ x y => e.Falls x y) ∧
    ∃ u cs, t.team? e.grid.tag e.team.idx = some u ∧ u = { e.team with copies := e.team.copies ++ cs, nextSeq := seq } ∧ new cs
  let posts (i : Fields → Instr) (opc : Nat) : Prop := ∀ s f e, Issues s opc f e →
    ((∀ l ∈ who e, chk e l = none) → e.team.copies.length + (who e).length ≤ e.grid.kcb.copyq →
      Gives (i f) s (fun t => queued e s t ((e.team.nextSeq + (who e).length) % 2 ^ 32) (fun cs =>
        cs.map (fun c => (c.hint, c.dir, c.src, c.dst, c.shape, c.bar, c.lane, c.made, c.sigs)) = (who e).map (fun l =>
          (false, e.copyDir, (e.copyOps l).src, (e.copyOps l).dst, (e.copyOps l).shape, (e.copyOps l).bar, e.flat l, 0, 0)) ∧
        cs.map (·.seq) = (List.range (who e).length).map (fun k => (e.team.nextSeq + k) % 2 ^ 32)))) ∧
    ((∀ l ∈ who e, chk e l = none) → e.grid.kcb.copyq < e.team.copies.length + (who e).length → Gives (i f) s (fun t =>
      t = { s with groups := t.groups } ∧ e.grp? t = some { e.grp with blocked := (who e).length } ∧
      ∀ tag team n, (tag, team, n) ≠ (e.grid.tag, e.team.idx, e.grp.num) → t.group? tag team n = s.group? tag team n)) ∧
    ((∃ l ∈ who e, chk e l ≠ none) → Gives (i f) s (fun t => e.Faults s t ((who e).filterMap (fun l =>
      (chk e l).map (fun x => e.record l x.1 x.2)))))
  posts .cpy 0xD0 ∧ posts .cpyg 0xD1 ∧
  (∀ s f e, Issues s 0xD2 f e →
    ((∀ l ∈ who e, shapeOk false false (e.b64 l) = true ∧ e.a64 l % 32 = 0 ∧ firstBad (e.a64 l) (e.b64 l) = none) →
      e.team.copies.length + (who e).length ≤ e.grid.kcb.copyq →
      Gives (.cpyhint f) s (fun t => queued e s t e.team.nextSeq (fun cs =>
        cs.map (fun c => (c.hint, c.src, c.shape)) = (who e).map (fun l => (true, e.a64 l, e.b64 l))))) ∧
    (e.grid.kcb.copyq ≤ e.team.copies.length → Gives (.cpyhint f) s (fun t => e.Moves s t (fun _ x y => e.Falls x y)))) ∧
  (∀ s f e, Issues s 0xD3 f e → Gives (.cpystat f) s (fun t => e.Later (s.dropL1 e.team.core) t (fun l =>
    let cs := e.team.copies.filter (fun c => !c.hint)
    e.gives l 1 ((if e.sub = 0 then cs.length else if e.sub = 1 then e.team.nextSeq else match cs with
      | c :: _ => c.seq
      | [] => e.team.nextSeq) % 2 ^ 32)))) ∧
  (∀ (dir : CopyDir) (mc gb : Bool) (mask cl scr : Nat) (o : CopyOps),
    (shapeOk (decide (dir ≠ .g2g)) (decide (dir = .s2x)) o.shape = false → copyChk dir mc gb mask cl scr o = some (0x02, o.shape % 2 ^ 32)) ∧
    (shapeOk (decide (dir ≠ .g2g)) (decide (dir = .s2x)) o.shape = true →
      let t := o.shape % 2 ^ 16 * (o.shape / 2 ^ 16 % 2 ^ 16) * 32
      let ranks : Prop := dir ≠ .g2g ∧ mc = true ∧ (mask = 0 ∨ 2 ^ cl ≤ mask)
      let inPad : List (Nat × Nat) := (if dir = .g2s ∨ dir = .s2x then [(o.dst, t)] else []) ++ (if dir = .s2g ∨ dir = .s2x then [(o.src, t)] else []) ++
        (match o.bar with
          | some b => if dir ≠ .g2g ∧ gb = false then [(b, 16)] else []
          | none => [])
      let odd : List Nat := (if dir = .s2g ∨ dir = .g2g then (firstBad o.dst o.shape).toList else []) ++
        (if dir = .g2s ∨ dir = .g2g then (firstBad o.src o.shape).toList else []) ++
        (match o.bar with
          | some b => if (dir = .g2g ∨ gb = true) ∧ canonicalVa b = false then [b] else []
          | none => [])
      (o.dst % 32 ≠ 0 → copyChk dir mc gb mask cl scr o = some (0x06, o.dst)) ∧
      (o.dst % 32 = 0 → o.src % 32 ≠ 0 → copyChk dir mc gb mask cl scr o = some (0x06, o.src)) ∧
      (∀ b, o.dst % 32 = 0 → o.src % 32 = 0 → o.bar = some b → b % 16 ≠ 0 → copyChk dir mc gb mask cl scr o = some (0x06, b)) ∧
      (o.dst % 32 = 0 → o.src % 32 = 0 → (∀ b, o.bar = some b → b % 16 = 0) →
        copyChk dir mc gb mask cl scr o = if ranks then some (0x09, mask)
          else match inPad.filter (fun x => decide (scr < x.1 + x.2)) with
            | x :: _ => some (0x08, x.1)
            | [] => odd.head?.map (fun a => (0x05, a))))) ∧
  (∀ base sh a : Nat, 1 ≤ sh % 2 ^ 16 →
    let byte (r b : Nat) : Nat := (base + r * (sh / 2 ^ 32 % 2 ^ 32) + b) % 2 ^ 64
    let n := sh % 2 ^ 16 * 32
    let rows := sh / 2 ^ 16 % 2 ^ 16
    (firstBad base sh = none ↔ ∀ r < rows, ∀ b < n, canonicalVa (byte r b) = true) ∧
    (firstBad base sh = some a ↔ ∃ r b, r < rows ∧ b < n ∧ a = byte r b ∧ canonicalVa a = false ∧
      ∀ q c, q < r ∧ c < n ∨ q = r ∧ c < b → canonicalVa (byte q c) = true)) ∧
  (∀ (cpy s2x : Bool) (sh : Nat), shapeOk cpy s2x sh = true ↔
    let spr := sh % 2 ^ 16
    let rows := sh / 2 ^ 16 % 2 ^ 16
    let pitch := sh / 2 ^ 32 % 2 ^ 32
    1 ≤ spr ∧ 1 ≤ rows ∧ pitch % 32 = 0 ∧ (if s2x then pitch = 0 else rows = 1 ∨ spr * 32 ≤ pitch) ∧ (cpy = true → spr * rows ≤ 12288)) ∧
  (∀ (e : Env) (l : Nat),
    e.copyDir = (if e.opc = 0xD1 then .g2g else if e.sub % 4 = 0 then .g2s else if e.sub % 4 = 1 then .s2g else .s2x) ∧
    (let pair (b : Bool) : Nat := if b then 2 else 1
     let wideD := decide (e.copyDir = .s2g ∨ e.copyDir = .g2g)
     let wideC := decide (e.copyDir = .g2g) || (decide (e.copyDir = .s2g) && e.sub.testBit 3)
     (e.copyOps l).dst = e.raw l e.f.d 0#10 (pair wideD) ∧
     (e.copyOps l).src = (if e.copyDir = .g2s ∨ e.copyDir = .g2g then e.a64 l else e.a32 l) ∧ (e.copyOps l).shape = e.b64 l ∧
     (e.copyOps l).bar = if e.f.c = 0xF0#8 then none else some (e.raw l e.f.c e.f.modc (pair wideC))))

/-- R214 to R218, R296: XBINIT leaves a write of a whole object, and a global one joins the roll, for which there is room or a page that
may first have to be served; XBEXPECT and XBARRIVE leave one signal
of each performing lane; XBWAIT parks its lanes on an observation, XBTEST leaves one. A count out of range is an ILLEGAL_OPERAND, an
address that fails its checks faults, one that does not translate holds the set, and then nothing is done in any lane (R186). What a signal
does to a barrier object; and BARRIER_SIGNAL applies one at its place, where it is over, no other byte changes and the waiters whose
phase is done run, or faults its sender. What an observation finds: BARRIER_UNINIT; for XBTEST both predicates; for XBWAIT the lane runs
with its poison predicate, or stays parked; and it acquires when it finds the phase done without poison. -/
def Obligations.BarrierObjects : Prop :=
  (let found (e : Env) (s s1 : State) (k : Acc) (loc : Nat → Loc) : Prop :=
     e.chkAll (if e.sub.testBit 0 then .global else .own) 16 k e.addr e.perf s = (e.perf.map (fun l => (l, .ok (loc l))), s1)
   let space (e : Env) : Space := if e.sub.testBit 0 then .global else .own
   let stops (i : Fields → Instr) (opc : Nat) (k : Acc) (bad : Env → Nat → Bool) : Prop :=
     StopsAt i opc space (fun _ => 16) k Env.perf (fun _ _ => true) bad
   let signals (i : Fields → Instr) (opc : Nat) (n da ds : Env → Nat → Nat) (lo hi : Nat) : Prop :=
     stops i opc .rw (fun e l => decide (n e l < lo ∨ hi ≤ n e l)) ∧
     ∀ s f e s1 loc, Issues s opc f e → found e s s1 .rw loc →
       (∀ l ∈ e.perf, lo ≤ n e l ∧ n e l < hi) → Gives (i f) s (fun t =>
         t = { s1 with groups := t.groups, sigs := t.sigs, nextId := t.nextId } ∧ e.Lanes t (fun _ x y => e.Falls x y) ∧
         ∃ xs, t.sigs = s.sigs ++ xs ∧ xs.map (fun x => (x.lane, x.loc, x.addr, x.da, x.ds, x.copy)) =
           e.perf.map (fun l => (l, loc l, e.addr l, (da e l : Int), (ds e l : Int), none)))
   let count (e : Env) (l : Nat) : Nat := if e.f.b = 0xF0#8 then 1 else e.b32 l
   (∀ s f e s1 s2 loc p, Issues s 0xD4 f e → found e s s1 .wr loc → (∀ l ∈ e.perf, 0 < e.b32 l ∧ e.b32 l < 2 ^ 23) →
     let new : List Nat := if e.sub.testBit 0 then e.perf.map e.addr else []
     let roll := e.grid.roll ++ (new.filter (fun a => !e.grid.roll.contains a)).eraseDups
     e.rollRoom s1 roll.length = (.ok p, s2) → Gives (.xbinit f) s (fun t =>
       t = { s2 with groups := t.groups, grids := t.grids, accs := t.accs, nextId := t.nextId } ∧ e.Lanes t (fun _ x y => e.Falls x y) ∧
       (∃ as, t.accs = s2.accs ++ as ∧ as.map (fun a => (a.lane, a.kind, a.loc, a.addr, a.size, a.dat)) = e.perf.map (fun l =>
         (l, .xbinit, loc l, e.addr l, 16, 2 ^ 4 + f.ctl.toNat % 4 * 2 ^ 6 + e.b32 l * 2 ^ 8 + e.b32 l * 2 ^ 64 + e.grid.tag * 2 ^ 88))) ∧
       ∃ g cap, t.grid? e.grid.tag = some g ∧ g = { e.grid with roll := roll, rollCap := cap } ∧ (roll.length ≤ e.grid.rollCap → cap = e.grid.rollCap) ∧
         ∀ a, a ∈ g.roll ↔ a ∈ e.grid.roll ∨ (e.sub.testBit 0 = true ∧ ∃ l ∈ e.perf, a = e.addr l))) ∧
   (∀ s f e s1 s2 loc l rest, Issues s 0xD4 f e → found e s s1 .wr loc → (∀ l ∈ e.perf, 0 < e.b32 l ∧ e.b32 l < 2 ^ 23) → e.perf = l :: rest →
     let new : List Nat := if e.sub.testBit 0 then e.perf.map e.addr else []
     let n := (e.grid.roll ++ (new.filter (fun a => !e.grid.roll.contains a)).eraseDups).length
     (∀ c a, e.rollRoom s1 n = (.fault c a, s2) → Gives (.xbinit f) s (fun t => e.Faults s2 t [e.record l c a])) ∧
     (∀ va mig, e.rollRoom s1 n = (.miss va mig, s2) → Gives (.xbinit f) s (fun t => e.Held s2 t .rw [(l, va, mig)]))) ∧
   (∀ (e : Env) (s : State) (n : Nat), (n ≤ e.grid.rollCap → ∃ p, e.rollRoom s n = (.ok p, s)) ∧
     (e.grid.rollCap < n → let a := e.grid.backing + 8 * e.grid.rollCap
       e.rollRoom s n = s.chkVa e.team.core e.grid.part e.grid.proc a a .rw)) ∧
   stops .xbinit 0xD4 .wr (fun e l => decide (e.b32 l = 0 ∨ 2 ^ 23 ≤ e.b32 l)) ∧
   stops .xbwait 0xD7 .rd (fun _ _ => false) ∧ stops .xbtest 0xD8 .rd (fun _ _ => false) ∧
   signals .xbexpect 0xD5 (fun e l => e.b32 l) (fun e _ => if e.sub.testBit 1 then 1 else 0) (fun e l => e.b32 l) 0 (2 ^ 31) ∧
   signals .xbarrive 0xD6 count count (fun _ _ => 0) 1 (2 ^ 23) ∧
   (∀ s f e s1 loc, Issues s 0xD7 f e → found e s s1 .rd loc → Gives (.xbwait f) s (fun t =>
     t = { s1 with groups := t.groups, accs := t.accs, nextId := t.nextId } ∧
     (∃ as, t.accs = s.accs ++ as ∧ as.map (fun a => (a.lane, a.kind, a.loc, a.size)) = e.perf.map (fun l => (l, .xbwait, loc l, 16))) ∧
     e.Lanes t (fun l x y => if l ∈ e.perf then
         y.st = .atXbar { loc := loc l, addr := e.addr l, phase := e.b32 l % 16, pd := if f.d.toNat < 96 then some f.d.toNat else none, armed := false } ∧
         e.Falls x { y with st := x.st }
       else e.Falls x y))) ∧
   (∀ s f e s1 loc, Issues s 0xD8 f e → found e s s1 .rd loc →
     let pdest (x : BitVec 8) : Dest := if x.toNat < 96 then .p x.toNat else .none
     Gives (.xbtest f) s (fun t =>
       t = { s1 with groups := t.groups, accs := t.accs, nextId := t.nextId } ∧ e.Lanes t (fun _ x y => e.Falls x y) ∧
       ∃ as, t.accs = s.accs ++ as ∧ as.map (fun a => (a.lane, a.kind, a.loc, a.dat, a.dest, a.dest2)) =
         e.perf.map (fun l => (l, .xbtest, loc l, e.b32 l % 16, pdest f.d, pdest f.c))))) ∧
  ((∀ (o : Nat) (da ds : Int), o < 2 ^ 128 →
     let a := xbApend o - da
     let d := xbSpend o + ds
     let n := (signalObj o da ds).1
     (xbValid o = false → signalObj o da ds = (o, some 0x0A)) ∧
     (xbValid o = true → xbPoison o = true → signalObj o da ds = (o, none)) ∧
     (xbValid o = true → xbPoison o = false →
       ((a < -(2 ^ 23) ∨ 2 ^ 23 ≤ a ∨ d < -(2 ^ 31) ∨ 2 ^ 31 ≤ d) → (signalObj o da ds).2 = some 0x02 ∧ xbPoison n = true ∧ n / 2 ^ 6 = o / 2 ^ 6) ∧
       (-(2 ^ 23) ≤ a → a < 2 ^ 23 → -(2 ^ 31) ≤ d → d < 2 ^ 31 → (signalObj o da ds).2 = none ∧ xbValid n = true ∧ xbPoison n = false ∧
         xbScope n = xbScope o ∧ xbReload n = xbReload o ∧ xbTag n = xbTag o ∧
         (a = 0 → d = 0 → xbPhase n = (xbPhase o + 1) % 16 ∧ xbApend n = sgn 24 (xbReload o) ∧ xbSpend n = 0) ∧
         (a ≠ 0 ∨ d ≠ 0 → xbPhase n = xbPhase o ∧ xbApend n = a ∧ xbSpend n = d)))) ∧
   (∀ s id x at_, s.sigs.find? (fun y => y.id == id) = some x → s.sigReady x = true → s.poisoned x.loc 16 = false → x.copy = none →
     (x.loc = .scr (at_ / Config.scratchBytes) (at_ % Config.scratchBytes) ∨ x.loc = .dram at_) →
     let mem (t : State) : Memory := if x.loc = .dram at_ then t.dram else t.scratch
     let rest (t : State) : Memory := if x.loc = .dram at_ then t.scratch else t.dram
     let r := signalObj ((mem s).readN at_ 16) x.da x.ds
     let fresh (l : List Access) : List Access := l.map (fun a => { a with stale := false })
     Gives (.barrierSignal id) s (fun t => (mem t).readN at_ 16 = r.1 % 2 ^ 128 ∧
       (∀ b, b < at_ ∨ at_ + 16 ≤ b → (mem t).read b = (mem s).read b) ∧ rest t = rest s ∧
       t.sigs = s.sigs.filter (fun y => y.id ≠ id) ∧ fresh t.accs = fresh s.accs ∧ t.results = s.results ∧
       (r.2 = none → t.grids = s.grids ∧ t.log = s.log) ∧
       (∀ tag team n (g : Group) (l : Nat) (y : Lane) (w : XWait), s.group? tag team n = some g → g.lanes[l]? = some y →
         y.st = .atXbar w → w.armed = true → w.loc = x.loc → xbPhase r.1 ≠ w.phase ∨ xbPoison r.1 = true →
         ∃ (h : Group) (z : Lane), t.group? tag team n = some h ∧ h.lanes[l]? = some z ∧ z.st = .running) ∧
       (∀ c gr g, r.2 = some c → s.grid? x.tag = some gr → s.group? x.tag x.team x.grp = some g →
         t.log = s.log ++ [{ addr := x.addr, code := c, val := 0 }] ∧
         (∃ h, t.grid? x.tag = some h ∧ h.faults = gr.faults ++ [faultRec g x.lane c x.pc x.addr]) ∧
         ∃ h, t.group? x.tag x.team x.grp = some h ∧ h.stopped = true))) ∧
   (∀ s id a at_ gr g x, s.accs.find? (fun y => y.id == id) = some a → s.eligible a = true → s.poisoned a.loc a.size = false →
     (a.loc = .scr (at_ / Config.scratchBytes) (at_ % Config.scratchBytes) ∨ a.loc = .dram at_) →
     s.grid? a.tag = some gr → s.group? a.tag a.team a.grp = some g → g.lanes[a.lane]? = some x →
     let core := s.coreOf a.tag a.team
     let o := (if a.loc = .dram at_ then s.dram else s.scratch).readN at_ 16
     let done (p : Nat) : Bool := decide (xbPhase o ≠ p) || xbPoison o
     let fresh (l : List Access) : List Access := l.map (fun a => { a with stale := false })
     let leaves (t : State) : Prop := t.dram = s.dram ∧ t.scratch = s.scratch ∧ fresh t.accs = fresh (s.accs.filter (fun y => y.id ≠ id))
     let acquired (t : State) (p : Nat) : Prop := done p = true → xbPoison o = false → ∀ y ∈ t.l1, y.core ≠ core
     let lane? (t : State) : Option Lane := (t.group? a.tag a.team a.grp).bind (fun h => h.lanes[a.lane]?)
     (a.kind = .xbtest ∨ a.kind = .xbwait → xbValid o = false → Gives (.accessAtHome id .none) s (fun t => leaves t ∧
       (∃ h, t.grid? a.tag = some h ∧ h.faults = gr.faults ++ [faultRec g a.lane 0x0A a.pc a.addr]) ∧
       ∃ h, t.group? a.tag a.team a.grp = some h ∧ h.stopped = true)) ∧
     (a.kind = .xbtest → xbValid o = true → a.lanes ≠ 0#64 → Gives (.accessAtHome id .none) s (fun t => leaves t ∧ acquired t a.dat ∧ t.groups = s.groups ∧
       ∃ r, t.results = s.results ++ [r] ∧ r.lanes = a.lanes ∧
         r.writes = [(a.lane, [{ dest := a.dest, val := b2n (done a.dat) }, { dest := a.dest2, val := b2n (xbPoison o) }])])) ∧
     (∀ w, a.kind = .xbwait → xbValid o = true → x.st = .atXbar w → Gives (.accessAtHome id .none) s (fun t => leaves t ∧ acquired t w.phase ∧ t.results = s.results ∧
       (done w.phase = false → lane? t = some { x with st := .atXbar { w with armed := true } }) ∧
       (done w.phase = true → ∃ y, lane? t = some y ∧ y = { x with st := .running, p := y.p } ∧
         ∀ i, y.p.getLsbD i = if w.pd = some i ∧ i < 96 then xbPoison o else x.p.getLsbD i)))))

/-- R219 to R221: the performing lanes arrive at a team's or the cluster's barrier, all with one expected count; short of it the
count grows and the lanes of the waiting forms park; at it every parked lane runs again, behind one list of what the release
orders before it, and the barrier is at its start; a count beyond the limit is an ILLEGAL_OPERAND. That a lane which parked with
an explicit switch marker drains at the release is the model's choice (log 75). (No lane that has exited stands in an issue set:
`Obligations.IssueSets`.) -/
def Obligations.TeamAndClusterBarriers : Prop :=
  let d : Bar := { n := 0, e := none }
  let agrees (e : Env) (b : Bar) (limit c : Nat) : Prop := (∀ l ∈ e.perf, e.a32 l = c ∧ (e.lane l).st ≠ .exited) ∧ e.perf ≠ [] ∧ c ≤ limit ∧ (b.n = 0 ∨ b.e = some c)
  let who (e : Env) (b : Bar) : List (Nat × Nat × Nat) := (if b.n = 0 then [] else b.who) ++ e.perf.map (fun l => (e.team.idx, e.grp.num, l))
  let arrived (e : Env) (t : State) (wait : Bool) (st : LaneSt) : Prop := e.Lanes t (fun l (x y : Lane) =>
    if l ∈ e.perf ∧ wait = true then y.st = st ∧ y.owed = e.f.sw ∧ e.Falls x { y with st := x.st, owed := x.owed } else e.Falls x y)
  let runs (s : State) (tag team num l : Nat) (owed : Bool) : LaneSt :=
    if owed = true ∧ s.outstanding tag team num l = true then .draining else .running
  let freed (e : Env) (s t : State) (wait : Bool) (st : LaneSt) (teams : List Nat) : Prop := ∃ before : List Nat,
    (∀ (team num : Nat) (g : Group) (l : Nat) (x : Lane), (team, num) ≠ (e.team.idx, e.grp.num) →
      s.group? e.grid.tag team num = some g → g.lanes[l]? = some x →
      ∃ h y, t.group? e.grid.tag team num = some h ∧ h.lanes[l]? = some y ∧
        (x.st = st → team ∈ teams →
          y = { x with st := runs s e.grid.tag team num l x.owed, owed := false, after := x.after ++ before }) ∧
        ((x.st ≠ st ∨ team ∉ teams) → y = x ∨ (x.st = .draining ∧ y = { x with st := .running }))) ∧
    ∀ l x, e.grp.lanes[l]? = some x → ∃ h y, e.grp? t = some h ∧ h.lanes[l]? = some y ∧ y.v = x.v ∧ y.p = x.p ∧
      (e.mask.getLsbD l = true → e.Falls x { y with st := x.st, owed := x.owed, after := x.after }) ∧
      (l ∈ e.perf → wait = true → y.st = runs s e.grid.tag e.team.idx e.grp.num l e.f.sw ∧ y.after = x.after ++ before) ∧
      (e.mask.getLsbD l = false →
        (x.st = st → y = { x with st := runs s e.grid.tag e.team.idx e.grp.num l x.owed, owed := false, after := x.after ++ before }) ∧
        (x.st ≠ st → y = x ∨ (x.st = .draining ∧ y = { x with st := .running })))
  let team (i : Fields → Instr) (opc : Nat) (wait : Bool) : Prop :=
    (∀ s f e b c, Issues s opc f e → e.team.tb[f.d.toNat]? = some b → agrees e b e.grid.kcb.lanes c →
      let target := if c = 0 then s.liveCount e.grid.tag e.team.idx else c
      (b.n + e.perf.length < target → Gives (i f) s (fun t => t = { s with groups := t.groups, teams := t.teams } ∧
        (∃ before, t.team? e.grid.tag e.team.idx =
          some { e.team with tb := updAt (fun _ => { n := b.n + e.perf.length, e := some c, before := before, who := who e b }) f.d.toNat e.team.tb }) ∧
        arrived e t wait (.atTeamBar f.d.toNat))) ∧
      (b.n + e.perf.length = target → Gives (i f) s (fun t => t = { s with groups := t.groups, teams := t.teams } ∧
        t.team? e.grid.tag e.team.idx = some { e.team with tb := updAt (fun _ => d) f.d.toNat e.team.tb } ∧
        freed e s t wait (.atTeamBar f.d.toNat) [e.team.idx]))) ∧
    (∀ s f e b, Issues s opc f e → e.team.tb[f.d.toNat]? = some b → e.perf ≠ [] → (∀ l ∈ e.perf, e.grid.kcb.lanes < e.a32 l) →
      Gives (i f) s (fun t => e.Faults s t (e.perf.map (fun l => e.record l 0x02 0))))
  let cluster (i : Fields → Instr) (opc : Nat) (wait : Bool) : Prop :=
    (∀ s f e b c, Issues s opc f e → Sparse.get d e.grid.cbars (e.grid.clusterOf e.team.idx) = b →
      agrees e b (e.grid.kcb.lanes * e.grid.kcb.cluster) c →
      let teams := s.clusterTeams e.grid (e.grid.clusterOf e.team.idx)
      let target := if c = 0 then (teams.map (s.liveCount e.grid.tag)).sum else c
      let holds (t : State) (b : Bar) : Prop := ∃ g, t.grid? e.grid.tag = some g ∧ g = { e.grid with cbars := g.cbars } ∧
        ∀ k, Sparse.get d g.cbars k = if k = e.grid.clusterOf e.team.idx then b else Sparse.get d e.grid.cbars k
      (b.n + e.perf.length < target → Gives (i f) s (fun t => t = { s with groups := t.groups, grids := t.grids } ∧
        (∃ before, holds t { n := b.n + e.perf.length, e := some c, before := before, who := who e b }) ∧ arrived e t wait .atClusterBar)) ∧
      (b.n + e.perf.length = target → Gives (i f) s (fun t =>
        t = { s with groups := t.groups, grids := t.grids, l1 := t.l1, accs := t.accs, sigs := t.sigs, teams := t.teams } ∧
        t.accs.map (fun a => { a with stale := false, spread := false }) = s.accs.map (fun a => { a with stale := false, spread := false }) ∧
        t.sigs.map (fun x => { x with spread := false }) = s.sigs.map (fun x => { x with spread := false }) ∧
        t.teams.map (fun u => { u with setups := [] }) = s.teams.map (fun u => { u with setups := [] }) ∧
        holds t d ∧ freed e s t wait .atClusterBar teams ∧
        ∀ u ∈ s.teams, u.tag = e.grid.tag → e.grid.clusterOf u.idx = e.grid.clusterOf e.team.idx → ∀ x ∈ t.l1, x.core ≠ u.core))) ∧
    (∀ s f e, Issues s opc f e → e.perf ≠ [] → (∀ l ∈ e.perf, e.grid.kcb.lanes * e.grid.kcb.cluster < e.a32 l) →
      Gives (i f) s (fun t => e.Faults s t (e.perf.map (fun l => e.record l 0x02 0))))
  team .barw 0xD9 true ∧ team .bara 0xDA false ∧ cluster .cbarw 0xDB true ∧ cluster .cbara 0xDC false

/-- R225, R231, R233 to R236, R239 to R243, R245: at the head of the matrix order an instance acts on its tile, and nothing else
changes but who waits: AZERO, ACFG and AMERGE change it, a commit marker its shadow; MMA and MMAG add to each output the group
values in order, of the operands read then or, under a reuse mark, by the preceding instance, with a tile of steering operands
for each row block; ALOAD replaces the elements, ADRAIN writes them out and answers a status. The checks of MMA fail in
order with the lane and the address of the table. ACFG of a tile that is not exact, or with an E out of range, faults with E as its
address; an AMERGE of tiles that differ stops as it issues. An exact tile adds exactly. MXQ leaves its reads; at the scratchpad it
writes the block, unless its lane is demoted, and answers the scale: of a block that is not finite 0xFF, with zeros; of zeros 0, with
zeros of their signs; else the scale of the largest magnitude, with every element scaled and rounded once, saturating. The model's choices: an instance takes its words from the lowest participant whose guard
is true (log 63), what ends an element's poison (log 16), and that it reads its operands at one instant (log 8). -/
def Obligations.MatrixEffects : Prop :=
  let takes (s : State) (gr : Grid) (tag team id : Nat) (u : Team) (i : MatInst) (opc : Nat) : Prop :=
    s.grid? tag = some gr ∧ matReady s gr u i = true ∧ s.matHeld gr u i = false ∧ s.team? tag team = some u ∧ (∃ rest, u.matq = i :: rest) ∧ i.id = id ∧ i.opc = opc
  let leaves (s t : State) (tag team : Nat) (u : Team) (id : Nat) (tiles shadows : List Tile) : Prop :=
    t = { s with teams := t.teams, groups := t.groups } ∧
    t.team? tag team = some { u with tiles := tiles, shadows := shadows, matq := u.matq.filter (fun x => x.id ≠ id), lastMat := none }
  let fails (s t : State) (gr : Grid) (tag team : Nat) (u : Team) (i : MatInst) (lane code addr extra : Nat) : Prop :=
    ∀ g, s.group? tag team i.grp = some g → t = { s with teams := t.teams, groups := t.groups, grids := t.grids } ∧
      t.grid? tag = some { gr with faults := gr.faults ++ [{ faultRec g lane code i.pc addr with extra := extra }] } ∧
      t.team? tag team = some { u with stopped := true, matq := [] }
  let tile (u : Team) (n : Nat) : Tile := u.tiles.getD n default
  let put (u : Team) (n : Nat) (x : Tile) : List Tile := updAt (fun _ => x) n u.tiles
  let byteAt (s : State) (u : Team) (base d row b : Nat) : Byte := s.scratch.read (scrKey u.core (u.base + dAddr base d row b))
  let agree (i : MatInst) : Prop := ∀ a ∈ i.act, a.c = i.lead.c
  let steers (u : Team) (s : State) (r : MatReq) (i : MatInst) (x row b : Nat) : Prop := wFb r.w = 7 ∧ reuseB u.lastMat i r (s.tabOf u r) = none ∧
    x ∈ (if r.mmag then (s.tabOf u r).filter (fun y => y ≠ 0xFFFF) else [0]) ∧ row < r.rowsB ∧ b < r.lenB
  (∀ s gr tag team id u i, takes s gr tag team id u i 0xE2 → Gives (.matrixInstanceEffect tag team id) s (fun t =>
    leaves s t tag team u id (put u i.f.d.toNat { tile u i.f.d.toNat with elem := [], nan := [], flag := false, spoilt := [] }) u.shadows)) ∧
  (∀ s gr tag team id u i, takes s gr tag team id u i 0xE7 → (tile u i.f.d.toNat).exact = true → -2048 ≤ sgn 32 i.lead.a → sgn 32 i.lead.a ≤ 2047 →
    Gives (.matrixInstanceEffect tag team id) s (fun t =>
      leaves s t tag team u id (put u i.f.d.toNat { tile u i.f.d.toNat with e := sgn 32 i.lead.a }) u.shadows)) ∧
  (∀ s gr tag team id u i, takes s gr tag team id u i 0xE7 → (s.group? tag team i.grp).isSome = true →
    (tile u i.f.d.toNat).exact = false ∨ sgn 32 i.lead.a < -2048 ∨ 2047 < sgn 32 i.lead.a →
    Gives (.matrixInstanceEffect tag team id) s (fun t => fails s t gr tag team u i i.lead.lane 0x02 (wrap 64 (sgn 32 i.lead.a)) 0)) ∧
  (∀ s f e, drainFirst s 0xE6 f = s → envOf s 0xE6 f (Form.len f.form) = some e → e.mask ≠ 0#64 → e.perf ≠ [] →
    e.grid.kcb.tiles.getD f.d.toNat (0, 0, false) ≠ e.grid.kcb.tiles.getD f.a.toNat (0, 0, false) →
    Gives (.amerge f) s (fun t => e.Faults s t (e.perf.map (fun l => e.record l 0x02 0)))) ∧
  (∀ s gr tag team id u i, takes s gr tag team id u i 0xE6 → (tile u i.f.d.toNat).spoilt = [] → (tile u i.f.a.toNat).spoilt = [] → Gives (.matrixInstanceEffect tag team id) s (fun t =>
    leaves s t tag team u id (put u i.f.d.toNat ((tile u i.f.d.toNat).merge (tile u i.f.a.toNat))) u.shadows)) ∧
  (∀ s gr tag team id u i, takes s gr tag team id u i 0xE3 → Gives (.commitMarkerRetire tag team id) s (fun t =>
    leaves s t tag team u id u.tiles (updAt (fun _ => tile u i.f.d.toNat) i.f.d.toNat u.shadows))) ∧
  (∀ s gr tag team id u i opc r, takes s gr tag team id u i opc → opc = 0xE0 ∨ opc = 0xE1 → agree i →
    matCheck s u gr.kcb.scratch i (tile u i.f.d.toNat) = .ok r → s.poison = [] → (tile u i.f.d.toNat).spoilt = [] →
    (∀ x row b, steers u s r i x row b → t5Illegal (byteAt s u (r.baseB x) r.db row b).toNat = false) →
    let tab := s.tabOf u r
    let aRows := (reuseA u.lastMat i r).getD ((List.range r.rowsA).map (fun row => (List.range r.lenA).map (byteAt s u (dBase r.da) r.da row)))
    let bRows := (reuseB u.lastMat i r tab).getD ((if r.mmag then tab else [0]).map (fun x => if r.mmag = true ∧ x = 0xFFFF then []
      else (List.range r.rowsB).map (fun row => (List.range r.lenB).map (byteAt s u (r.baseB x) r.db row))))
    let ng := wNg r.w
    let scale (off : Nat) : Option Int := if r.mx then e8m0 (s.teamByte u off) else some 0
    let steer (row : Nat) : Nat := if r.mmag then tab.getD (row / 16) 0xFFFF else 0
    let value (row col g : Nat) : Val := groupValue (wFa r.w) (wFb r.w) r.wa r.wb
      (((vecAt (wFa r.w) (wTa r.w) aRows r.k row).drop (g * r.g)).take r.g)
      ((((bRows.map (fun rows => (List.range r.n).map (vecAt (wFb r.w) (wTb r.w) rows r.k))).getD (if r.mmag then row / 16 else 0) []).getD col []).drop
        (g * r.g) |>.take r.g)
      (scale (r.sa + row * ng + g)) (scale (r.sb + steer row * r.n * ng + col * ng + g))
    let start : Tile := if bits r.w 11 10 = 1 then (tile u i.f.d.toNat).zero else tile u i.f.d.toNat
    Gives (.matrixInstanceEffect tag team id) s (fun t => t = { s with teams := t.teams, groups := t.groups } ∧
      ∃ use, use.grp = i.grp ∧ use.fmt = r.w ∧ use.da = r.da ∧ use.db = r.db ∧ use.table = tab ∧ use.aRows = aRows ∧ use.bRows = bRows ∧
      t.team? tag team = some { u with
        tiles := put u i.f.d.toNat ((List.range r.m).foldl (fun x row => if r.mmag = true ∧ steer row = 0xFFFF then x
          else (List.range r.n).foldl (fun x col => (List.range ng).foldl (fun x g => x.add (row * r.n + col) (value row col g)) x) x) start),
        matq := u.matq.filter (fun x => x.id ≠ id), lastMat := some use })) ∧
  (∀ s gr tag team id u i opc, takes s gr tag team id u i opc → opc = 0xE0 ∨ opc = 0xE1 → (s.group? tag team i.grp).isSome = true →
    (∀ a rest, i.act.filter (fun x => x.c ≠ i.lead.c) = a :: rest →
      Gives (.matrixInstanceEffect tag team id) s (fun t => fails s t gr tag team u i a.lane 0x0D a.c rest.length)) ∧
    (agree i → matReq i (tile u i.f.d.toNat) = none →
      Gives (.matrixInstanceEffect tag team id) s (fun t => fails s t gr tag team u i i.lead.lane 0x02 i.lead.c 0)) ∧
    (∀ x, agree i → matCheck s u gr.kcb.scratch i (tile u i.f.d.toNat) = .error x →
      Gives (.matrixInstanceEffect tag team id) s (fun t => fails s t gr tag team u i x.lane x.code x.addr x.extra)) ∧
    (∀ r x row b, agree i → matCheck s u gr.kcb.scratch i (tile u i.f.d.toNat) = .ok r → s.poison = [] → (tile u i.f.d.toNat).spoilt = [] →
      let at_ (x row b : Nat) : Nat := dAddr (r.baseB x) r.db row b
      steers u s r i x row b → t5Illegal (byteAt s u (r.baseB x) r.db row b).toNat = true →
      (∀ y q c, steers u s r i y q c → t5Illegal (byteAt s u (r.baseB y) r.db q c).toNat = true → at_ x row b ≤ at_ y q c) →
      Gives (.matrixInstanceEffect tag team id) s (fun t => fails s t gr tag team u i i.lead.lane 0x0C (at_ x row b) 0))) ∧
  (∀ s gr tag team id u i, takes s gr tag team id u i 0xE5 →
    let x := tile u i.f.d.toNat
    let d := i.lead.a
    descCheck gr.kcb.scratch x.rows (x.cols * 4) d none = none → s.poison = [] →
    let word (k : Nat) : Nat := ofLe ((List.range 4).map (fun b => byteAt s u (dBase d) d (k / x.cols) (4 * (k % x.cols) + b)))
    let load (y : Tile) (k : Nat) : Tile :=
      if x.exact = false then y.put k (BitVec.ofNat 128 (match f32 (word k) with
        | .nan _ => 0x7FC00000
        | _ => word k))
      else
        let z : Tile := { y.put k 0#128 with nan := Sparse.set false y.nan k false }
        match f32 (word k) with
        | .nan _ => z.mark k
        | .inf _ => { z.mark k with flag := true }
        | v => z.addExact k v
    Gives (.matrixInstanceEffect tag team id) s (fun t =>
      leaves s t tag team u id (put u i.f.d.toNat ((List.range (x.rows * x.cols)).foldl load x)) u.shadows)) ∧
  (∀ s gr tag team id u i, takes s gr tag team id u i 0xE4 →
    let n := i.f.sub.toNat % 16
    let x := tile u n
    let d := i.lead.a
    let fmt := i.f.c.toNat % 8
    let size := drainSize fmt
    let scaled : Bool := decide (i.f.b ≠ 0xF0#8)
    descCheck gr.kcb.scratch x.rows (x.cols * size) d (if scaled then some (i.lead.b, x.cols * 4) else none) = none → s.poison = [] → x.spoilt = [] →
    let factor (col : Nat) : Val := f32 (if scaled then s.scratch.readN (scrKey u.core (u.base + i.lead.b + 4 * col)) 4 else 0x3F800000)
    let out (k : Nat) : Nat × Bool := drainVal x fmt (Rnd.ofField i.f.rnd) i.f.sat k (factor (k % x.cols))
    let status := b2n (x.exact && x.flag) + 2 * b2n ((List.range (x.rows * x.cols)).any (fun k => (out k).2))
    Gives (.matrixInstanceEffect tag team id) s (fun t =>
      t = { s with teams := t.teams, groups := t.groups, scratch := t.scratch, results := t.results, nextId := t.nextId, l1 := t.l1, accs := t.accs } ∧
      t.scratch = (List.range (x.rows * x.cols)).foldl (fun m k => (List.range size).foldl (fun m b =>
        m.writeN (scrKey u.core (u.base + dAddr (dBase d) d (k / x.cols) (k % x.cols * size + b))) 1 ((out k).1 / 256 ^ b % 256)) m) s.scratch ∧
      t.accs.map (fun a => { a with stale := false }) = s.accs.map (fun a => { a with stale := false }) ∧
      t.team? tag team = some { u with tiles := (if i.f.sub.toNat.testBit 4 then put u n x.zero else u.tiles),
                                       matq := u.matq.filter (fun y => y.id ≠ id), lastMat := none } ∧
      (∀ k, Operand.ofField i.f.d = .v k → i.act ≠ [] → ∃ r, t.results = s.results ++ [r] ∧ r.lanes = maskOf (i.act.map (·.lane)) ∧ r.pc = i.pc ∧
        r.writes = i.act.map (fun a => (a.lane, [⟨.v (a.c + k), status⟩]))) ∧
      ((∀ k, Operand.ofField i.f.d ≠ .v k) → t.results = s.results))) ∧
  (∀ (x : Tile) (k : Nat) (r : Rl), x.exact = true → x.e ≤ r.exp →
    let m : Int := r.mant * 2 ^ (r.exp - x.e).toNat
    let v := (x.at k).toInt + (if r.neg then -m else m)
    v < 2 ^ 127 → -(2 ^ 127) ≤ v →
    ((x.add k (.fin r)).at k).toInt = v ∧ (x.add k (.fin r)).flag = x.flag ∧ (x.add k (.fin r)).e = x.e ∧
    ∀ j, j ≠ k → (x.add k (.fin r)).at j = x.at j) ∧
  (∀ s f e, Issues s 0xEB f e → (∀ l ∈ e.exec, e.mxqChk l = none) →
    Gives (.mxq f) s (fun t => t = { s with groups := t.groups, accs := t.accs, nextId := t.nextId } ∧ e.Lanes t (fun _ x y => e.Falls x y) ∧
      ∃ as, t.accs = s.accs ++ as ∧ as.map (fun a => (a.lane, a.kind, a.loc, a.size, a.dat, a.dat2, a.dest)) = e.exec.map (fun l =>
        (l, .mxq (e.sub.testBit 0) (e.sub.testBit 1) f.rnd, .scr e.team.core (e.team.base + e.a32 l), if e.sub.testBit 0 then 64 else 128,
          e.b32 l, b2n (e.hushed l), e.destAt l f.d 0)))) ∧
  (∀ (fp8 : Bool) (mode : Rnd) (src : List Byte), (∃ i < 32, ∀ r, Fmt.fp32.val (ofLe ((src.drop (4 * i)).take 4)) ≠ .fin r) →
    mxqVal false fp8 mode src = (0xFF, 0)) ∧
  (∀ (bf16 fp8 : Bool) (mode : Rnd) (src : List Byte),
    let v (i : Nat) : Val := if bf16 then Fmt.bf16.val (ofLe ((src.drop (2 * i)).take 2)) else Fmt.fp32.val (ofLe ((src.drop (4 * i)).take 4))
    let f : Fmt := if fp8 then .e4m3 else .e2m1
    let r := mxqVal bf16 fp8 mode src
    let element (i : Nat) : Nat := r.2 / 2 ^ (f.width * i) % 2 ^ f.width
    ((∃ i < 32, ∀ x, v i ≠ .fin x) → r = (0xFF, 0)) ∧
    (∀ x : Nat → Rl, (∀ i < 32, v i = .fin (x i)) → r.2 < 2 ^ (32 * f.width) ∧
      ((∀ i < 32, (x i).mant = 0) → r.1 = 0 ∧ ∀ i < 32, element i = if (x i).neg then 2 ^ (f.width - 1) else 0) ∧
      (∀ top : Int, (∃ i < 32, (x i).mant ≠ 0 ∧ top = ((x i).mant.log2 : Int) + (x i).exp) →
        (∀ i < 32, (x i).mant ≠ 0 → ((x i).mant.log2 : Int) + (x i).exp ≤ top) →
        (r.1 : Int) = min (max (top - (if fp8 then 8 else 2) + 127) 0) 254 ∧
        ∀ i < 32, element i = (round f mode true (.fin { x i with exp := (x i).exp + 127 - r.1 })).1))) ∧
  (∀ s id a src dst rnd u at_, s.accs.find? (fun x => x.id == id) = some a → s.eligible a = true → a.kind = .mxq src dst rnd →
    a.loc = .scr (at_ / Config.scratchBytes) (at_ % Config.scratchBytes) → s.poisoned a.loc a.size = false → s.team? a.tag a.team = some u → a.lanes ≠ 0#64 →
    let r := mxqVal src dst (Rnd.ofField rnd) ((List.range a.size).map (fun i => s.scratch.read (at_ + i)))
    Gives (.accessAtHome id .none) s (fun t => t.dram = s.dram ∧
      t.scratch = (if a.dat2 = 1 then s.scratch else s.scratch.writeN (scrKey u.core (u.base + a.dat)) (if dst then 32 else 16) r.2) ∧
      ∃ q, t.results = s.results ++ [q] ∧ q.lanes = a.lanes ∧ q.writes = [(a.lane, [{ dest := a.dest, val := r.1 }])]))

/-- R205, R209, R299, R300: a delivery of a copy reads one sector, of the poster's scratchpad or through the grid's table, writes it,
no other byte, at its place in the scratchpad of a team of the cluster, or through the table, counts it, and sends its barrier's
signal; to a rank that has no team, none is written and none signalled; a hint changes no state but the caches, the TLB, the ACC
bits of the entries it walks and its queue; a tagged reduction is held in key order, and without room faults, with its virtual
address in the record, which is the model's choice (log 62); those of retired teams are applied in that order. -/
def Obligations.DeliveriesAndReductions : Prop :=
  let scrPlace (u : Team) (off : Nat) : Loc := .scr u.core (u.base + off)
  let through (s : State) (gr : Grid) (u : Team) (va : Nat) (k : Acc) (l : Loc) (t : State) : Prop :=
    s.offLimits gr.proc va = false ∧ s.translateAt u.core gr.part gr.proc va k = (.at_ l, t)
  let sectorOf (c : Copy) : Nat := if c.mc then c.made / ((List.range 8).filter (fun r => c.mask.testBit r)).length else c.made
  let rankOf (c : Copy) : Option Nat :=
    if c.mc then ((List.range 8).filter (fun r => c.mask.testBit r))[c.made % ((List.range 8).filter (fun r => c.mask.testBit r)).length]? else none
  let rankTeam (s : State) (gr : Grid) (u : Team) (r : Nat) (v : Option Team) : Prop :=
    v = if r < gr.kcb.cluster then s.team? gr.tag (u.idx / gr.kcb.cluster * gr.kcb.cluster + r) else none
  let reads (s : State) (gr : Grid) (u : Team) (c : Copy) (l : Loc) (t : State) : Prop :=
    if c.dir = .s2g ∨ c.dir = .s2x then l = scrPlace u (c.src + 32 * sectorOf c) ∧ t = s
    else ∃ s0, through s gr u ((c.src + globOff c.shape (sectorOf c)) % 2 ^ 64) .rd l s0 ∧ t = s0.touch l gr.tag false 0
  let receiver (s : State) (gr : Grid) (u : Team) (c : Copy) (v : Option Team) : Prop :=
    (c.dir = .g2s ∧ rankOf c = none ∧ v = some u) ∨ (c.dir = .g2s ∧ ∃ r, rankOf c = some r ∧ rankTeam s gr u r v) ∨
    (c.dir = .s2x ∧ rankTeam s gr u ((rankOf c).getD 0) v)
  let writes (s : State) (gr : Grid) (u : Team) (c : Copy) (l : Loc) (t : State) : Prop :=
    (∃ v, receiver s gr u c (some v) ∧ l = scrPlace v (c.dst + 32 * sectorOf c) ∧ t = s) ∨
    ((c.dir = .s2g ∨ c.dir = .g2g) ∧ through s gr u ((c.dst + globOff c.shape (sectorOf c)) % 2 ^ 64) .wr l t)
  let signals (s : State) (gr : Grid) (u : Team) (c : Copy) (b : Option (Loc × Nat)) (t : State) : Prop :=
    (c.bar = none ∧ b = none ∧ t = s) ∨
    (∃ x l, c.bar = some x ∧ c.gb = true ∧ through s gr u x .rw l t ∧ b = some (l, x)) ∨
    (∃ x, c.bar = some x ∧ c.gb = false ∧ t = s ∧ ((rankOf c = none ∧ b = some (scrPlace u x, x)) ∨
      ∃ r v, rankOf c = some r ∧ rankTeam s gr u r (some v) ∧ b = some (scrPlace v x, r * 2 ^ 32 + x)))
  let counted (t : State) (tag team : Nat) (u : Team) (c : Copy) (signalled : Bool) : Prop :=
    ∃ v, t.team? tag team = some v ∧ v.tiles = u.tiles ∧ v.tb = u.tb ∧
      (c.made + 1 < deliveries c → ∃ x ∈ v.copies, x.seq = c.seq ∧ x.made = c.made + 1) ∧
      (c.made + 1 = deliveries c → signalled = false → c.sigs = 0 → ∀ x ∈ v.copies, x ≠ { c with made := c.made + 1 })
  (∀ s tag team seq gr u c src s1, s.grid? tag = some gr → s.team? tag team = some u → u.copies.find? (fun x => !x.hint && x.seq == seq) = some c →
    c.buf = none → s.copyReady gr u c = true → reads s gr u c src s1 → src.isSys = false → s1.poisoned src 32 = false →
    (∀ dst s2 bar s3, writes s1 gr u c dst s2 → dst.isSys = false → signals s2 gr u c bar s3 → Gives (.copyDelivery tag team seq .none) s (fun t =>
      t.dram = (match dst with
        | .dram a => s3.dram.writeBytes a (s1.readAt src 32)
        | _ => s3.dram) ∧
      t.scratch = (match dst with
        | .scr core o => s3.scratch.writeBytes (scrKey core o) (s1.readAt src 32)
        | _ => s3.scratch) ∧
      t.grids = s.grids ∧
      t.accs.map (fun a => { a with stale := false, waited := false }) = s.accs.map (fun a => { a with stale := false, waited := false }) ∧
      (match bar with
        | none => t.sigs = s.sigs
        | some b => ∃ x, t.sigs = s.sigs ++ [x] ∧ x.loc = b.1 ∧ x.addr = b.2 ∧ x.da = 0 ∧ x.ds = -1 ∧ x.copy = some seq) ∧
      counted t tag team u c bar.isSome)) ∧
    (receiver s1 gr u c none → Gives (.copyDelivery tag team seq .none) s (fun t =>
      t.dram = s1.dram ∧ t.scratch = s.scratch ∧ t.grids = s.grids ∧ t.sigs = s.sigs ∧ t.accs = s.accs ∧ counted t tag team u c false))) ∧
  (∀ s tag team id gr u c, s.grid? tag = some gr → s.team? tag team = some u → u.copies.find? (fun x => x.hint && x.seq == id) = some c →
    let goes : Prop := u.resident = true ∧ (gr.tick = true ∨ s.tickHint u.core = false)
    let walked : State := (List.range (shSpr c.shape * shRows c.shape)).foldl (fun s i =>
      if s.offLimits gr.proc (c.src + globOff c.shape i) then s
      else (s.translateAt u.core gr.part gr.proc (c.src + globOff c.shape i) .rd).2) s
    (goes → Gives (.cpyhintFill tag team id) s (fun t =>
      t = { s with teams := t.teams, dram := walked.dram, l2 := t.l2, tlb := walked.tlb, walkers := walked.walkers, choice := t.choice } ∧
      t.team? tag team = some { u with copies := u.copies.filter (fun x => !(x.hint && x.seq == id)) })) ∧
    (¬ goes → Gives (.cpyhintFill tag team id) s (fun t => t = s))) ∧
  (∀ s id p g, s.reds.find? (fun r => r.id == id) = some p → s.grid? p.tag = some g →
    let rest := s.reds.filter (fun r => r.id ≠ id)
    ((s.buffered p.red.slice).length < 16 → Gives (.taggedReductionHold id) s (fun t => t = { s with reds := rest, grids := t.grids } ∧
      t.grid? p.tag = some { g with held := insertRed p.red g.held })) ∧
    (∀ gp, 16 ≤ (s.buffered p.red.slice).length → p.red.spilled = none → (∀ h ∈ s.grids, h.freeSpill = none) →
      s.group? p.tag p.red.team p.grp = some gp → Gives (.taggedReductionHold id) s (fun t => t = { s with reds := rest, grids := t.grids } ∧
        t.grid? p.tag = some { g with faults := g.faults ++ [faultRec gp (p.red.lane % g.kcb.width) 0x18 p.pc p.va] }))) ∧
  (∀ (x : TagRed) (l : List TagRed), l.Pairwise (fun a b => b.lt a = false) → (insertRed x l).Pairwise (fun a b => b.lt a = false)) ∧
  (∀ (x : TagRed) (l : List TagRed), (insertRed x l).Perm (x :: l)) ∧
  (∀ s tag slice g, s.grid? tag = some g →
    let go (x : TagRed) : Bool := x.slice == slice && decide (x.team < s.frontier g)
    (∀ x ∈ g.held, go x = true → s.owner? (.dram x.addr) = none ∧ s.poisoned (.dram x.addr) 4 = false) →
    (∀ x ∈ g.held, x.slice = slice → go x = false → x.spilled = none) →
    (g.stays = true → Gives (.promenadeApply tag slice) s (fun t => t = s)) ∧
    (g.stays = false → Gives (.promenadeApply tag slice) s (fun t =>
      t = { s with dram := t.dram, l1 := t.l1, l2 := t.l2, choice := t.choice, groups := t.groups, grids := t.grids, accs := t.accs, jobs := t.jobs } ∧
      t.dram = (g.held.filter go).foldl (fun m x => m.writeN x.addr 4 (rmw 9 32 (m.readN x.addr 4) x.val.toNat)) s.dram ∧
      t.grid? tag = some { g with held := g.held.filter (fun x => !go x) })))

/-! ### Teams, grids and queues -/

/-- R26, R27, R30, R269, R294 to R296, R276, R332: placing starts the grid's next teams, each group at its role's entry with nothing
in its registers, or reinstates a waiting team, on a core whose caches hold nothing older; which lanes' slots the physical register
store then has room for is the model's choice (log 70), so lanes are compared without that mark. Retiring removes what a finished team
holds; completing removes the grid and counts its signal; a fault or a kill stops its groups, and at the window's end removes the grid and
all its agents, puts the report into its signal, ends its life and lets its queue go. What is reported is the least of the faults. -/
def Obligations.TeamsAndGrids : Prop :=
  let warm (x : Group) : Group := { x with lanes := x.lanes.map (fun l => { l with cold := false }) }
  (∀ s tag g places, s.grid? tag = some g → s.placeable g places = true → (∀ i ∈ s.nextTeams g, s.team? tag i = none) →
    Gives (.teamPlacement tag places) s (fun t =>
      t = { s with teams := t.teams, groups := t.groups, grids := t.grids, l1 := t.l1, icache := t.icache, accs := t.accs, txns := t.txns,
                   choice := t.choice } ∧
      t.teams = s.teams ++ ((s.nextTeams g).zip places).map (fun x => teamStart g x.1 x.2.core x.2.base) ∧
      t.grid? tag = some { g with started := g.started + g.kcb.cluster } ∧ (∀ p ∈ places, (∀ x ∈ t.l1, x.core ≠ p.core) ∧ ∀ x ∈ t.icache, x.core ≠ p.core) ∧
      ∃ gs, t.groups.map warm = (s.groups ++ gs).map warm ∧
        gs.map (fun x => (x.team, x.num, x.sched)) = ((s.nextTeams g).zip places).flatMap (fun x =>
          (List.range g.kcb.groupCount).map (fun n => (x.1, n, x.2.scheds.getD n 0))) ∧
        ∀ x ∈ gs, x.tag = tag ∧ x.s = [] ∧ x.cv = [] ∧ x.insts = [] ∧ x.hold = none ∧ x.stopped = false ∧ x.lanes.length = g.kcb.width ∧
          ∀ l ∈ x.lanes, l.st = .running ∧ l.v = [] ∧ l.p = 0#96 ∧ l.frames = [] ∧ l.loops = [] ∧ l.fstat = 0#5 ∧
            l.yielded = false ∧ l.demoted = false ∧
            ∀ o, s.object? g.handle = some o → l.pc = BitVec.ofNat 64 (o.text + (g.kcb.role x.role).entry))) ∧
  (∀ s tag g places i p u, s.grid? tag = some g → s.placeable g places = true → (i, p) ∈ (s.nextTeams g).zip places → s.team? tag i = some u →
    Gives (.teamPlacement tag places) s (fun t => t.dram = s.dram ∧
      t.team? tag i = some { u with core := p.core, base := p.base, resident := true, image := [] })) ∧
  (∀ s tag team g u, s.grid? tag = some g → s.team? tag team = some u →
    (s.mayRetire g u = false ∨ g.stays = true → Gives (.teamRetire tag team) s (fun t => t = s)) ∧
    (s.mayRetire g u = true → g.stays = false → (∀ x ∈ s.groups, x.tag = tag → x.team = team → ∀ l ∈ x.lanes, l.st = .exited) ∧
      Gives (.teamRetire tag team) s (fun t =>
        t = { s with teams := t.teams, groups := t.groups, results := t.results, grids := t.grids, l1 := t.l1, accs := t.accs, sigs := t.sigs } ∧
        t.teams.map (fun x => { x with setups := [] }) =
          (s.teams.filter (fun x => !(x.tag == tag && x.idx == team))).map (fun x => { x with setups := [] }) ∧ (∀ x ∈ t.groups, ¬(x.tag = tag ∧ x.team = team)) ∧
        t.results = s.results.filter (fun r => !(r.tag == tag && r.team == team)) ∧
        ∃ h, t.grid? tag = some h ∧ h = { g with claims := g.claims.filter (fun c => decide (c.team ≠ team)), cbars := h.cbars }))) ∧
  (∀ s tag g a u, s.grid? tag = some g → s.mayComplete g = true → g.ser = none → g.sig ≠ 0 → s.fw = [] →
    s.translate g.proc g.sig .rw = (.at_ (.dram a), u) → s.owner? (.dram a) = none →
    Gives (.gridCompletion tag) s (fun t => t.fw = [] ∧ t.grids = s.grids.filter (fun x => decide (x.tag ≠ tag)) ∧
      t.queues = (s.updQueue g.proc g.queue (fun q => { q with undone := q.undone.filter (fun x => decide (x ≠ tag)) })).queues ∧
      t.dram = (if (u.dram.readN a 8).testBit 63 = true then u.dram else u.dram.writeN a 8 ((u.dram.readN a 8 + 1) % 2 ^ 63)))) ∧
  (∀ s tag g, s.grid? tag = some g → s.mayComplete g = false → Gives (.gridCompletion tag) s (fun t => t = s)) ∧
  (∀ s tag g, s.grid? tag = some g → (g.killed = true ∨ g.faults ≠ []) →
    (s.windowOver tag = false → Gives (.gridFault tag) s (fun t => t = { s with groups := t.groups } ∧ ∀ x ∈ t.groups, x.tag = tag → x.stopped = true)) ∧
    (s.windowOver tag = true → (∀ x ∈ s.groups, x.tag = tag → x.stopped = true) ∧
      Gives (.gridFault tag) s (fun t => (∀ x ∈ t.grids, x.tag ≠ tag) ∧ (∀ u ∈ t.teams, u.tag ≠ tag) ∧
        (∀ x ∈ t.groups, x.tag ≠ tag) ∧ (∀ r ∈ t.results, r.tag ≠ tag) ∧ (∀ r ∈ t.reds, r.tag ≠ tag) ∧ t.scratch = s.scratch ∧
        ∃ r n, t = s.stopGrid g r n ∧ (g.killed = true → r = killRec ∧ n = 0) ∧ (g.killed = false → windowReport g.faults = some (r, n))))) ∧
  (∀ (s : State) (g : Grid) (r : FaultRec) (n a : Nat) (u : State), s.fw = [] → g.roll = [] → g.ser = none → g.sig ≠ 0 →
    s.translate g.proc g.sig .rw = (.at_ (.dram a), u) → s.owner? (.dram a) = none → (s.proc? g.proc).bind (·.log) = none →
    s.queues.find? (QueueSt.is g.proc g.queue) = none →
    (s.stopGrid g r n).dram = u.dram.writeN a 8 (r.code + g.tag * 256 + 2 ^ 63)) ∧
  (∀ (s : State) (g : Grid) (r : FaultRec) (n : Nat), (r.code = 0x15 ∨ r.code = 0x16) → (∃ j ∈ s.jobs, j.proc = g.proc ∧ j.complete ≠ none) →
    ∃ k ∈ (s.stopGrid g r n).kept, k.tag = g.tag ∧ k.part = g.part ∧ k.tick = g.tick ∧ k.dbg = g.dbg) ∧
  (∀ (s : State) (g : Grid) (r : FaultRec) (n : Nat), s.stopOps g r n =
    g.roll.map (fun a => fwOp g.proc a (.poison g.tag)) ++ s.logOps g.proc (faultRecord g.tag r n) ++
    g.lastOps (.put (r.code + g.tag * 256 + 2 ^ 63)) (r.code + g.tag * 256 + 2 ^ 63) ++
    fwOp g.proc g.queue (.cancel g.queue r.code g.tag) :: fwOp g.proc g.queue (.close g.tag g.queue) ::
    (match s.jobs.find? (fun j => (r.code == 0x15 || r.code == 0x16) && j.proc == g.proc && j.complete.isSome) with
      | none => []
      | some j => [fwOp g.proc 0 (.job (.recover j.id none [] 0))])) ∧
  (∀ (g : Grid) (op : SigOp) (w : Nat), g.lastOps op w =
    (if g.sig = 0 then [] else [fwOp g.proc g.sig (.sig op)]) ++ fwOp g.proc g.sig (.ended g.tag g.handle) ::
    (match g.ser with
      | none => []
      | some x => x.reqs.map (fun (q : Nat × Nat) => fwOp q.2 q.1 (.sig (.put w))))) ∧
  (∀ (s : State) (tag : Nat), s.alive tag = true ↔ (∃ g ∈ s.grids, g.tag = tag) ∨ ∃ x ∈ s.fw, ∃ h, x.what = .ended tag h) ∧
  (∀ (l : List FaultRec) (r : FaultRec) (n : Nat), windowReport l = some (r, n) → r ∈ l ∧ ∀ x ∈ l, x.key r = false)

/-- R271, R274, R275, R277 to R279: a queue's next command starts: a launch is accepted as a grid with the next free tag, refused with
an error record or cancelled; a WAITSIG, a BARRIER or a TICK holds the queue until its condition, its earlier commands or its
edge; a SIGNAL stores or adds. A signal's update is one of its word, and F forbids an addition. The model's choices: how a grid's memory is
laid out (logs 14, 25), a TICK exactly at its edge (log 65), an unknown TYPE met by the LAUNCH row (log 66), a held TICK that is released by
cancelling (log 26), and a LAUNCH that meets the cancelling state unchecked (log 104). -/
def Obligations.QueueCommands : Prop :=
  let next (s : State) (n ty state : Nat) (q : QueueSt) (d : Desc) (c : Nat) (u : State) : Prop :=
    s.nextCmd n = .ok (q, d, c, u) ∧ cmdType c = ty ∧ d.state = state
  let free (s : State) (q : QueueSt) : State := s.qset q (fun q => { q with held := none })
  let here (s : State) (pid va : Nat) (k : Acc) (a : Nat) (u : State) : Prop :=
    s.fw = [] ∧ s.translate pid va k = (.at_ (.dram a), u) ∧ s.owner? (.dram a) = none
  (∀ s n q d c u p k o ps v, next s n 1 1 q d c u → u.part? d.part = some p → u.checkLaunch q.proc d.part d.tickq c = (.ok k o ps, v) →
    let held := (v.grids.filter (fun g => g.part == d.part && g.proc == q.proc)).length
    (64 ≤ held → Gives (.launch n) s (fun t => t = v.useLines)) ∧
    (held < 64 → Gives (.launch n) s (fun t => ∃ g : Grid,
      let base : State := { v with grids := v.grids ++ [g], nextTag := if v.freeTag = 65535 then 1 else v.freeTag + 1, nextId := v.nextId + 1,
                                   devLines := [] }
      let w : State := if k.det = true then base.giveRegion q.proc g.spillad (32 * k.spill) else base
      t = (w.advance q d).qset q (fun q => { q with undone := q.undone ++ [g.tag] }) ∧
      g.tag = v.tagOf v.freeTag ∧ g.proc = q.proc ∧ g.queue = q.desc ∧ g.handle = o.handle ∧ g.koff = bits c 63 32 ∧ g.kcb = k ∧ g.params = ps ∧
      g.x = bits c 223 192 ∧ g.y = bits c 255 224 ∧ g.z = bits c 287 256 ∧ g.n = bits c 335 288 ∧ g.sig = bits c 415 352 ∧
      g.spillad = (if k.det = true then spillVa g.tag else 0) ∧ g.backing = backingVa g.tag ∧ g.order = v.nextId ∧
      g.part = d.part ∧ g.tick = d.tickq ∧ g.started = 0 ∧ g.next = 0 ∧ g.faults = [] ∧ g.killed = false ∧ g.ser = none))) ∧
  (∀ s n q d c u p r x v, next s n 1 1 q d c u → u.part? d.part = some p → u.checkLaunch q.proc d.part d.tickq c = (.bad r x, v) →
    Gives (.launch n) s (fun t => t = v.queueError q d r x)) ∧
  (∀ s n q d c u, next s n 1 2 q d c u → Gives (.launch n) s (fun t => t = (u.advance q d).signalPut q.proc (bits c 415 352) q.cancelWord)) ∧
  (∀ s n q d c u, s.nextCmd n = .ok (q, d, c, u) → cmdType c = 0 ∨ 5 < cmdType c →
    Gives (.launch n) s (fun t => t = u.queueError q d 0x01 (bits c 15 0))) ∧
  (∀ s n q d c u, next s n 2 1 q d c u → cmdBad true true true c = none → ∀ v,
    (u.reachVa q.proc (bits c 127 64) .rd = (.ok, v) → Gives (.waitsig n) s (fun t => t = (v.advance q d).qset q (fun q =>
      { q with held := some (.waitsig (bits c 127 64) (bits c 191 128) (bits c 17 16) (c.testBit 9)) }))) ∧
    (u.reachVa q.proc (bits c 127 64) .rd = (.bad, v) → Gives (.waitsig n) s (fun t => t = v.queueError q d 0x09 (bits c 127 64)))) ∧
  (∀ s n q sig x cond ack bs u, s.queues[n]? = some q → q.held = some (.waitsig sig x cond ack) → s.devRead q.proc sig 8 = (.ok bs, u) →
    ∀ z v, u.useLines.cancelling q = (z, v) →
    let w := ofLe bs
    let ok : Prop := if cond = 0 then x ≤ w % 2 ^ 63 else if cond = 1 then w % 2 ^ 63 = x else w % 2 ^ 63 ≠ x
    (z = true → Gives (.waitsigSatisfied n) s (fun t => t = free v q)) ∧
    (z = false → w.testBit 63 = false → ok → Gives (.waitsigSatisfied n) s (fun t => t = free v q)) ∧
    (z = false → w.testBit 63 = false → ¬ok → Gives (.waitsigSatisfied n) s (fun t => t = v)) ∧
    (z = false → w.testBit 63 = true → ack = true → Gives (.waitsigSatisfied n) s (fun t => t = free v q)) ∧
    (z = false → w.testBit 63 = true → ack = false → Gives (.waitsigSatisfied n) s (fun t =>
      t = (free v q).cancelQueue q.proc q.desc (bits w 7 0) (bits w 31 8)))) ∧
  (∀ s n q d c u v, next s n 3 1 q d c u → cmdBad false true true c = none → u.reachVa q.proc (bits c 127 64) .rw = (.ok, v) →
    (bits c 17 16 = 0 → Gives (.signalWrite n) s (fun t => t = (v.advance q d).signalOp q.proc (bits c 127 64) (.put (bits c 191 128)))) ∧
    (bits c 17 16 = 1 → Gives (.signalAdd n) s (fun t => t = (v.advance q d).signalOp q.proc (bits c 127 64) (.add (bits c 191 128))))) ∧
  (∀ (s : State) (pid sig : Nat) (op : SigOp) (a : Nat) (u : State), here s pid sig .rw a u →
    let w := u.dram.readN a 8
    (s.signalOp pid sig op).fw = [] ∧ (s.signalOp pid sig op).dram = match op with
      | .put x => u.dram.writeN a 8 x
      | .add x => if w.testBit 63 = true then u.dram else u.dram.writeN a 8 ((w + x) % 2 ^ 63)
      | .done => if w.testBit 63 = true then u.dram else u.dram.writeN a 8 ((w + 1) % 2 ^ 63)) ∧
  (∀ (s : State) (q : QueueSt) (d : Desc) (a : Nat) (u : State), here s q.proc (q.desc + 12) .wr a u → q.desc % 64 = 0 →
    (s.advance q d).fw = [] ∧ (s.advance q d).dram = u.dram.writeN a 4 ((d.rd + 1) % 2 ^ 32)) ∧
  (∀ s n q d c u, next s n 4 1 q d c u → cmdBad true false false c = none →
    Gives (.barrier n) s (fun t => t = (u.advance q d).qset q (fun q => { q with held := some (.barrier (c.testBit 9)) }))) ∧
  (∀ s n q reset, s.queues[n]? = some q → q.held = some (.barrier reset) →
    let v := s.qset q (fun q => { q with held := none, cause := none })
    (q.undone ≠ [] ∨ s.fw ≠ [] → Gives (.barrierCommandComplete n) s (fun t => t = s)) ∧
    (q.undone = [] → s.fw = [] → reset = false → Gives (.barrierCommandComplete n) s (fun t => t = free s q)) ∧
    (q.undone = [] → s.fw = [] → reset = true → Gives (.barrierCommandComplete n) s (fun t =>
      t = if (v.readVaN q.proc (q.desc + 11) 1).1 = some 2 then (v.readVaN q.proc (q.desc + 11) 1).2.setState q 1
          else (v.readVaN q.proc (q.desc + 11) 1).2))) ∧
  (∀ s n q d c u, next s n 5 1 q d c u →
    let edge := nextEdge d.period d.phase (q.lastRelease.getD q.activeAt)
    (d.tickq = false → Gives (.tick n) s (fun t => t = u.queueError q d 0x0A (bits c 15 0))) ∧
    (d.tickq = true → cmdBad false false false c = none →
      (s.time < edge → Gives (.tick n) s (fun t => t = (u.advance q d).qset q (fun q => { q with held := some (.tick edge) }))) ∧
      (s.time = edge → Gives (.tick n) s (fun t => t = (u.advance q d).qset q (fun q => { q with lastRelease := some s.time }))) ∧
      (edge < s.time → Gives (.tick n) s (fun t =>
        t = ((u.advance q d).qset q (fun q => { q with lastRelease := some s.time })).setField q 28 4 ((d.overrun + 1) % 2 ^ 32))))) ∧
  (∀ s n q edge, s.queues[n]? = some q → q.held = some (.tick edge) → ∀ z v, s.cancelling q = (z, v) →
    (z = true → Gives (.tickEdge n) s (fun t => t = v.qset q (fun q => { q with held := none }))) ∧
    (z = false → edge ≤ s.time → Gives (.tickEdge n) s (fun t => t = v.qset q (fun q => { q with held := none, lastRelease := some edge }))) ∧
    (z = false → s.time < edge → Gives (.tickEdge n) s (fun t => t = v))) ∧
  (∀ p f x : Nat, 0 < p → (∃ k, nextEdge p f x = f + k * p) ∧ x < nextEdge p f x ∧ ∀ k, x < f + k * p → nextEdge p f x ≤ f + k * p)

/-- R19, R286 to R288: a turn ends at its quantum or when its process is idle, and the next entry's begins; the clock moves by
13 MHz between its floor and its top, down while power is above 3.2 kW and up when it is below; after 100 ms above it at the floor the
limit stops every grid by a serialise of cause 2; the event's clearing lets dispatch go on, and the stopped contexts resume as the firmware's
next work; a process that ends takes its tick queues away. The run list is an address of the process that formed the partition, by the
model's choice (log 56). -/
def Obligations.TurnsAndPower : Prop :=
  let turned (s t : State) (p : Part) : Prop := (s.fw ≠ [] → t = s) ∧ (s.fw = [] → s.kept = [] → 0 < p.nproc → ∀ bs u,
    let i := (p.turn + 1) % p.nproc
    let e := ofLe bs
    s.devRead p.owner (p.runlist + 16 * i) 16 = (.ok bs, u) → bits e 127 64 % 8 = 0 → bits e 31 16 = 0 → bits e 15 0 ≠ 0 → 10000 ≤ bits e 63 32 →
    t = { u with devLines := [], parts := t.parts } ∧ t.part? p.pid = some
      { p with turn := i, turnStart := s.time, proc := bits e 15 0, quantum := bits e 63 32, qlist := bits e 127 64 })
  let stops (s t : State) (cause : Nat) (which : Grid → Prop) : Prop := ∀ tag g, s.grid? tag = some g → g.ser = none → which g →
    t.grid? tag = some { g with ser := some (ownSerial cause s.time g.proc) } ∧ ∀ x ∈ t.groups, x.tag = tag → x.stopped = true
  (∀ s pid p, s.part? pid = some p → 1 < p.nproc → p.turnStart + p.quantum ≤ s.time →
    ((∀ g ∈ s.grids, s.mustStop p g = false) → Gives (.turnEndQuantum pid) s (fun t => turned s t p)) ∧
    ((∃ g ∈ s.grids, s.mustStop p g = true) → (s.grids.map (·.tag)).Nodup → Gives (.turnEndQuantum pid) s (fun t =>
      t = { s with grids := t.grids, groups := t.groups } ∧ stops s t 1 (fun g => s.mustStop p g = true)))) ∧
  (∀ s pid p, s.part? pid = some p → (p.nproc ≤ 1 ∨ s.time < p.turnStart + p.quantum) → Gives (.turnEndQuantum pid) s (fun t => t = s)) ∧
  (∀ s pid p l u b v, s.part? pid = some p → s.qlist p = (some l, u) → u.idle p l = (b, v) →
    (b = true → Gives (.turnEndIdle pid) s (fun t => turned v.useLines t p)) ∧
    (b = false → Gives (.turnEndIdle pid) s (fun t => t = v.useLines))) ∧
  (∀ s : State, let clocked (t : State) (mhz : Nat) : Prop := (mhz = s.mgmt.clock → t = s) ∧ (mhz ≠ s.mgmt.clock → t = { s with mgmt :=
      { s.mgmt with clock := mhz, clockAt := s.time, refreshed := s.time, msgs := s.mgmt.msgs ++ [.clock mhz] } })
    (s.mgmt.power ≤ 3200 → Gives .clockStepDown s (fun t => t = s)) ∧
    (3200 < s.mgmt.power → Gives .clockStepDown s (fun t => clocked t (max 650 (s.mgmt.clock - 13)))) ∧
    (3200 ≤ s.mgmt.power → Gives .clockStepUp s (fun t => t = s)) ∧
    (s.mgmt.power < 3200 → Gives .clockStepUp s (fun t => clocked t (min 1300 (s.mgmt.clock + 13))))) ∧
  (∀ s, s.mgmt.powerStopped = false →
    (s.mgmt.clock ≠ 650 ∨ s.mgmt.overAt = none → Gives .powerLimitStop s (fun t => t = s)) ∧
    (∀ o, s.mgmt.overAt = some o → s.mgmt.clock = 650 →
      (s.time < max o s.mgmt.clockAt + 10000000 → Gives .powerLimitStop s (fun t => t = s)) ∧
      (max o s.mgmt.clockAt + 10000000 ≤ s.time → (s.grids.map (·.tag)).Nodup → Gives .powerLimitStop s (fun t =>
        t = { s with mgmt := t.mgmt, grids := t.grids, groups := t.groups } ∧
        t.mgmt = { s.mgmt with powerStopped := true, refreshed := s.time, msgs := s.mgmt.msgs ++ [.powerStop] } ∧
        stops s t 2 (fun g => g.faults = [] ∧ g.killed = false))))) ∧
  (∀ s, s.mgmt.powerStopped = true → Gives .powerLimitStop s (fun t => t = s)) ∧
  (∀ s, (s.mgmt.powerStopped = false → Gives .powerEventClear s (fun t => t = s)) ∧
    (s.mgmt.powerStopped = true →
      let m : Mgmt := { s.mgmt with powerStopped := false, refreshed := s.time, msgs := s.mgmt.msgs ++ [.powerDispatch] }
      (s.fw = [] → Gives .powerEventClear s (fun t => t = { s with mgmt := m, agenda := s.agenda ++ [.job .resumeAll] })) ∧
      (s.fw ≠ [] → Gives .powerEventClear s (fun t => t = { s with mgmt := m, fw := s.fw ++ [fwOp 0 0 (.job .resumeAll)] })))) ∧
  (∀ s proc, Gives (.processEnd proc) s (fun t => t = { s with queues := t.queues } ∧
    ∀ q, q ∈ t.queues ↔ q ∈ s.queues ∧ ¬(q.proc = proc ∧ q.tickq = true)))

/-- R311 to R316, R328: a serialise stops the grid's groups and records the request, joined to one under way; once results have
returned the decision sets are chosen and the forward groups issue; the image, once every set stands, leaves the grid's tag to
it, or the grid resumes after a snapshot; one that does not fit its capacity leaves its whole header and the grid stopped; a limit passed is a
SERIALISE_TIMEOUT; a replant plants the image or is refused with its reason. A lane that stands at a SAMPLE site meanwhile has arrived
there (log 32), and an entry of the spill region outside its Values refuses the image with 0x11: the model's choices (log 113). -/
def Obligations.Serialising : Prop :=
  let asked (i : Req → Nat → Nat → Nat → Nat → Instr) (snap : Bool) : Prop := ∀ s r tag image cap cause,
    (s.grid? tag = none → Gives (i r tag image cap cause) s (fun t => t = s.refuse r 0x18)) ∧
    (∀ g, s.grid? tag = some g → g.faults ≠ [] ∨ g.killed = true → Gives (i r tag image cap cause) s (fun t => t = s.refuse r 0x18)) ∧
    (∀ g, s.grid? tag = some g → g.faults = [] → g.killed = false → image % 64 = 0 →
      let x : Serial := { image := image, cap := cap, named := true, proc := r.proc, own := false, snapshot := snap, byDbg := false, byPower := false, byTurn := false,
                          cause := cause, reqs := [(r.sig, r.proc)], started := s.time, decided := false, forward := [], held := false }
      ((g.ser = none ∨ ∃ y, g.ser = some y ∧ y.held = true) → Gives (i r tag image cap cause) s (fun t => t = { s with grids := t.grids, groups := t.groups } ∧
        t.grid? tag = some { g with ser := some x } ∧
        ∀ y ∈ t.groups, y.tag = tag → y.stopped = true)) ∧
      (∀ y, g.ser = some y → y.held = false →
        (cause = 3 → Gives (i r tag image cap cause) s (fun t => t = s.refuse r 0x18)) ∧
        (cause ≠ 3 → Gives (i r tag image cap cause) s (fun t => t = { s with grids := t.grids } ∧
          t.grid? tag = some { g with ser := some { y with reqs := y.reqs ++ [(r.sig, r.proc)], snapshot := y.snapshot && snap } }))))
  asked .serialiseStop false ∧ asked .serialiseSnapshot true ∧
  (∀ s tag g x, s.grid? tag = some g → g.ser = some x → x.held = false → g.faults = [] → g.killed = false →
    (x.decided = false → s.quiet tag = true → Gives (.serialiseImageWrite tag) s (fun t => t = { s with grids := t.grids, groups := t.groups } ∧
      t.grid? tag = some { g with ser := some { x with decided := true, forward := s.forwardOf g } } ∧
      ∀ y ∈ t.groups, y.tag = tag → (y.team, y.num) ∈ s.forwardOf g → y.stopped = false)) ∧
    (x.decided = true → s.mayImage g x = false → Gives (.serialiseImageWrite tag) s (fun t => t = s)) ∧
    (x.decided = true → s.mayImage g x = true → s.atBreak g = false → x.cause ≠ 4 →
      let left (t : State) : Prop := t.grid? tag = none ∧ tag ∈ t.imageTags ∧ (∀ y ∈ t.groups, y.tag ≠ tag) ∧ ∀ u ∈ t.teams, u.tag ≠ tag
      let samples : Prop := ∃ d, g.dbg = some d ∧ ∃ z ∈ d.sites, ∃ n, z.kind = .sample n
      let met (t : State) (z : Option Serial) : Prop := ∃ d, t.grid? tag = some { g with ser := z, dbg := d } ∧ d.map (·.sites) = g.dbg.map (·.sites) ∧
        (¬ samples → d = g.dbg)
      let holds (t : State) : Prop := ∃ own sample, met t (some { x with held := true, reqs := [], own := own, sample := sample }) ∧
        (¬ samples → own = x.own ∧ sample = x.sample)
      let resumed (t : State) : Prop := met t none ∧ ∀ y ∈ t.groups, y.tag = tag → y.stopped = false
      (x.named = false → x.snapshot = false → Gives (.serialiseImageWrite tag) s (fun t => left t ∧ (x.own = true → ∃ i ∈ t.images, i.1 = tag))) ∧
      (x.named = false → x.snapshot = true → Gives (.serialiseImageWrite tag) s resumed) ∧
      (x.named = true → Gives (.serialiseImageWrite tag) s (fun t => holds t ∨ if x.snapshot = true then resumed t else left t)))) ∧
  (∀ s tag g x, s.grid? tag = some g → g.ser = some x → x.held = false →
    (s.time < x.started + s.serLimit → Gives (.serialiseTimeout tag) s (fun t => t = s)) ∧
    (x.started + s.serLimit ≤ s.time → Gives (.serialiseTimeout tag) s (fun t => t = { s with grids := t.grids } ∧
      ∃ r, r.code = 0x17 ∧ t.grid? tag = some { g with faults := g.faults ++ [r] }))) ∧
  (∀ s r image part hd bs u v, image % 64 = 0 → s.devRead r.proc image 256 = (.ok hd, u) →
    u.devRead r.proc image (max 256 (bits (ofLe hd) 127 64)) = (.ok bs, v) →
    (∀ tag w y, v.replantWhole bs part = (some (.ok (tag, w)), y) → Gives (.replant r image part) s (fun t => t = w.useLines.served r)) ∧
    (∀ y, v.replantWhole bs part = (none, y) → Gives (.replant r image part) s (fun t => t = { y with ringWait := true })) ∧
    (∀ c y, v.replantWhole bs part = (some (.error c), y) → Gives (.replant r image part) s (fun t => t = y.useLines.refuse r c))) ∧
  (∀ (s : State) (bs : List Byte) (part : Nat), (∀ c, s.replantBytes bs part = .error c → s.replantWhole bs part = (some (.error c), s)) ∧
    ∀ x g l rs u, s.replantBytes bs part = .ok x → parseGrid (bs.drop (dirAt (ofLe (bs.take 256)) 0).1) = some (g, l) →
      s.devRead g.proc g.spillad (32 * g.held) = (.ok rs, u) →
      let good (i : Nat) : Prop := let e := ofLe ((rs.drop (32 * i)).take 32)
        bits e 191 186 = 0 ∧ bits e 255 224 = 0 ∧ bits e 63 0 % 4 = 0 ∧ bits e 63 0 < Config.dramBytes ∧ bits e 127 96 ≠ 2 ^ 32 - 1 ∧
        (bits e 223 192 < 2 ^ 24 ∨ bits e 223 192 = 2 ^ 32 - 1)
      ((∀ i < g.held, good i) → s.replantWhole bs part = (some (.ok x), u)) ∧
      ((∃ i < g.held, ¬ good i) → s.replantWhole bs part = (some (.error 0x11), u))) ∧
  (∀ (s : State) (bs : List Byte) (part : Nat), bits (ofLe (bs.take 256)) 31 0 ≠ 0x47454D49 → s.replantBytes bs part = .error 0x10)

/-- R259, R261, R297: a translation fault is served by mapping its page, by bringing a migrating page home, or by its host's reply,
and what waited replays; declined or not answered in time it is recorded so, and what waited replays to its fault. A table that was
written leaves no entry of its process in a TLB or a walker. Where a new table or page lies in local memory is the model's choice
(log 14). -/
def Obligations.TranslationFaults : Prop :=
  let freed (id : Nat) (t : Team) : Team := { t with copies := t.copies.map (fun c => if c.hold = some id then { c with hold := none } else c) }
  let replays (t : State) (id : Nat) (s : State) : Prop := t.tfaults = s.tfaults.filter (fun x => decide (x.id ≠ id)) ∧
    t.groups = s.groups.map (fun g => if g.hold = some id then { g with hold := none } else g) ∧ t.teams = s.teams.map (freed id)
  let fresh (t : State) (pid : Nat) : Prop := (∀ e ∈ t.tlb, e.proc ≠ pid) ∧ (∀ w ∈ t.walkers, w.proc ≠ pid) ∧ ∀ x ∈ t.declined, x.1 ≠ pid
  (∀ s id leaf x, s.tfault? id = some x → leaf.testBit 0 = true → malformed 4 leaf = false → x.mig = false →
    Gives (.translationFaultService id leaf) s (fun t => replays t id s ∧ fresh t x.proc ∧
      let given : State := if bits leaf 57 56 = 0 then { s with freePa := max s.freePa (bits leaf 55 8 * 256 + 65536) } else s
      t = { (given.mapPages x.proc (bits x.va 56 16 * 65536) 4 leaf 0 1).remapped x.proc with
            tfaults := t.tfaults, groups := t.groups, teams := t.teams })) ∧
  (∀ s id pa data x a l at_ e level, s.tfault? id = some x → walk s.dram (s.rootOf x.proc) x.va x.k = .leaf a l true at_ e level →
    pa % pageBytes level = 0 → pa + pageBytes level ≤ Config.dramBytes → Gives (.pageMigration id pa data) s (fun t => fresh t x.proc ∧
      t = { s with dram := t.dram, freePa := max s.freePa (pa + pageBytes level), l1 := t.l1, l2 := t.l2, choice := t.choice, icache := t.icache, tlb := t.tlb,
                   walkers := t.walkers, declined := t.declined, tfaults := t.tfaults, groups := t.groups, teams := t.teams } ∧
      t.dram.readN at_ 8 = (e % 128 + pa) % 2 ^ 64 ∧
      (∀ y ∈ t.tfaults, ¬(y.proc = x.proc ∧ y.va % 2 ^ 57 / pageBytes level = x.va % 2 ^ 57 / pageBytes level)) ∧
      (∀ g ∈ t.groups, g.hold ≠ some id) ∧ ∀ u ∈ t.teams, ∀ c ∈ u.copies, c.hold ≠ some id)) ∧
  (∀ s id x, s.tfault? id = some x → x.device = false →
    (s.time < x.since + s.faultLimit → Gives (.faultReplyTimeout id) s (fun t => t = s)) ∧
    (x.since + s.faultLimit ≤ s.time → Gives (.faultReplyTimeout id) s (fun t => replays t id s ∧ (x.proc, x.va) ∈ t.declined ∧
      t = { s with declined := t.declined, tfaults := t.tfaults, groups := t.groups, teams := t.teams }))) ∧
  (∀ s r id x, s.tfault? id = some x → x.device = false →
    Gives (.freply r id true) s (fun t => t = (s.replay id).served r) ∧
    Gives (.freply r id false) s (fun t => ∃ v : State, t = v.served r ∧ replays v id s ∧ (x.proc, x.va) ∈ v.declined))

/-! ### Host services -/

/-- R74, R87 to R89, R259, R261, R271, R285, R286, R297, R307, R334: the host's services, each answered by its signal, or refused with
its reason. The model's choices: the REASON of a refused LOAD (log 29), the level of MAP's leaves (log 31), the table through which QCREATE reads a descriptor
(log 47), that UNLOAD unmaps what the load mapped (log 48), when a KILL is answered (log 49), and the process by whose table a run list is
read (log 56). -/
def Obligations.HostServices : Prop :=
  (∀ (s : State) (r : Req) (a : Nat) (u : State), s.fw = [] → s.translate r.proc r.sig .rw = (.at_ (.dram a), u) → s.owner? (.dram a) = none →
    (u.dram.readN a 8 < 2 ^ 63 → (s.served r).dram = u.dram.writeN a 8 ((u.dram.readN a 8 + 1) % 2 ^ 63)) ∧
    ∀ c, (s.refuse r c).dram = u.dram.writeN a 8 (0x80 + c + 2 ^ 63)) ∧
  (∀ s r addr len at_ bs u, s.devRead r.proc addr len = (.ok bs, u) →
    (∀ p, parseObject bs = .ok p → Gives (.load r addr len at_) s (fun t => ∃ (v : State) (o : CodeObj), t = (v.putVa r.proc at_ (leBytes 8 u.nextId)).served r ∧
      v = { u with devLines := [], procs := v.procs, dram := v.dram, freePa := v.freePa, l2 := v.l2, choice := v.choice, icache := [], txns := v.txns, tlb := v.tlb,
                   walkers := v.walkers, declined := v.declined, objects := u.objects ++ [o], nextId := u.nextId + 1 } ∧
      (∀ e ∈ v.tlb, e.proc ≠ r.proc) ∧ (∀ w ∈ v.walkers, w.proc ≠ r.proc) ∧
      o.handle = u.nextId ∧ o.proc = r.proc ∧ o.text = p.text.addr ∧ o.textLen = p.text.bytes.length ∧ o.starts = p.is.map (·.off) ∧
      o.canon = p.canon ∧ o.kcbs = p.kcbs ∧ o.digest = sha384 bs)) ∧
    (∀ off c, parseObject bs = .error (off, c) → Gives (.load r addr len at_) s (fun t =>
      t = ({ u with devLines := [], loadErrs := u.loadErrs ++ [{ sig := r.sig, proc := r.proc, code := c, off := off }] } : State).refuse r (openReason 7)))) ∧
  (∀ s r h, (s.objects.find? (fun o => o.handle == h && o.proc == r.proc) = none → Gives (.unload r h) s (fun t => t = s.refuse r 0x04)) ∧
    (∀ o, s.objects.find? (fun o => o.handle == h && o.proc == r.proc) = some o → s.inUse h = false →
      Gives (.unload r h) s (fun t => ∃ v : State, t = v.served r ∧ (∀ e ∈ v.tlb, e.proc ≠ o.proc) ∧ (∀ w ∈ v.walkers, w.proc ≠ o.proc) ∧
        v = { s with dram := v.dram, freePa := v.freePa, l2 := v.l2, choice := v.choice, tlb := v.tlb, walkers := v.walkers, declined := v.declined,
                     objects := s.objects.filter (fun x => decide (x.handle ≠ h)) }))) ∧
  (∀ s r desc bs u, desc % 64 = 0 → s.devRead r.proc desc 64 = (.ok bs, u) →
    let d := descOf (ofLe bs)
    (∀ c x, descBad d = some (c, x) → Gives (.qcreate r desc) s (fun t => t = u.useLines.refuse r c)) ∧
    (descBad d = none → Gives (.qcreate r desc) s (fun t => ∃ q : QueueSt,
      q = { desc := desc, proc := d.proc, part := d.part, tickq := d.tickq, held := none, undone := [], cause := none,
            activeAt := u.time, lastRelease := none } ∧
      t = (({ u.useLines with queues := u.queues.filter (fun y => !(QueueSt.is d.proc desc y)) ++ [q] } : State).setState q 1).served r))) ∧
  (∀ s r desc, desc % 64 = 0 → ((∀ q ∈ s.queues, q.desc ≠ desc) → Gives (.qreset r desc) s (fun t => t = s.refuse r 0x0C)) ∧
    (∀ q, s.queues.find? (QueueSt.is r.proc desc) = some q → Gives (.qreset r desc) s (fun t =>
      t = (((s.setField q 32 16 0).setState q 1).qset q (fun q => { q with cause := none, activeAt := s.time, lastRelease := none })).served r))) ∧
  (∀ s r pid va len leaf, va % 65536 = 0 → len % 65536 = 0 → len ≠ 0 →
    let lv := leafLevel va len (bits leaf 55 8 * 256)
    ((leaf.testBit 0 = false ∨ malformed lv leaf = true) → Gives (.map r pid va len leaf) s (fun t => t = s.refuse r 0x0B)) ∧
    (leaf.testBit 0 = true → malformed lv leaf = false → Gives (.map r pid va len leaf) s (fun t =>
      t = (((s.ensureProc pid).mapPages pid (bits va 56 0) lv leaf (pageBytes lv) (len / pageBytes lv)).remapped pid).served r))) ∧
  (∀ s r pid va len leaf, (va % 65536 ≠ 0 ∨ len % 65536 ≠ 0 ∨ len = 0) →
    Gives (.map r pid va len leaf) s (fun t => t = s.refuse r 0x03) ∧ Gives (.unmap r pid va len) s (fun t => t = s.refuse r 0x03)) ∧
  (∀ s r pid va len p, va % 65536 = 0 → len % 65536 = 0 → len ≠ 0 → s.proc? pid = some p →
    (coverGo s.dram p.root (len / 65536) (bits va 56 0) (bits va 56 0 + len) = none → Gives (.unmap r pid va len) s (fun t => t = s.refuse r 0x03)) ∧
    (∀ l, coverGo s.dram p.root (len / 65536) (bits va 56 0) (bits va 56 0 + len) = some l → Gives (.unmap r pid va len) s (fun t =>
      t = ((l.foldl (fun (s : State) x => s.mapPages pid x.1 x.2 0 0 1) s).remapped pid).served r))) ∧
  (∀ s r pid va len table n bs u es, va % 65536 = 0 → len % 65536 = 0 → len ≠ 0 → table % 8 = 0 →
    s.devRead pid table (56 * n) = (.ok bs, u) →
    let ent (i : Nat) : Nat := fld bs (56 * i) 56
    let resv (i : Nat) : Prop := bits (ent i) 63 34 ≠ 0 ∨ bits (ent i) 95 80 ≠ 0 ∨ bits (ent i) 255 243 ≠ 0
    ((∃ i < n, resv i) → Gives (.regcode r pid va len table n) s (fun t => t = u.useLines.refuse r 0x02)) ∧
    ((∀ i < n, ¬ resv i) → (∃ i < n, bits (ent i) 31 0 % 4 ≠ 0) → Gives (.regcode r pid va len table n) s (fun t => t = u.useLines.refuse r 0x0B)) ∧
    ((List.range n).mapM (fun i => canonEntOf (ent i)) = some es →
    Gives (.regcode r pid va len table n) s (fun t =>
      t = ({ u with devLines := [], runcode := u.runcode ++ [{ proc := pid, va := va, len := len, base := u.ordinalBase pid, canon := es }] } : State).served r))) ∧
  (∀ s r tag, (∀ g, s.grid? tag = some g → Gives (.kill r tag) s (fun t => t = (s.updGrid tag (fun g => { g with killed := true })).served r)) ∧
    (s.grid? tag = none → s.alive tag = true → Gives (.kill r tag) s (fun t => t = s.served r)) ∧
    (s.alive tag = false → tag ∈ s.imageTags → Gives (.kill r tag) s (fun t =>
      t = ({ s with imageTags := s.imageTags.filter (fun x => decide (x ≠ tag)), images := s.images.filter (fun x => decide (x.1 ≠ tag)),
                    kept := s.kept.filter (fun x => decide (x.tag ≠ tag)),
                    areas := s.areas.filter (fun x => decide (x.tag ≠ tag) || x.slot.isSome) } : State).served r)) ∧
    (s.alive tag = false → tag ∉ s.imageTags → Gives (.kill r tag) s (fun t => t = s.refuse r 0x18))) ∧
  (∀ s r rec, rec < 2 ^ 256 →
    ((bits rec 7 3 ≠ 0 ∨ bits rec 15 15 ≠ 0 ∨ bits rec 23 23 ≠ 0 ∨ bits rec 31 31 ≠ 0 ∨ bits rec 63 48 ≠ 0 ∨ bits rec 255 144 ≠ 0) →
      partBad s rec = some 0x02) ∧
    (∀ c, partBad s rec = some c → Gives (.partition r rec) s (fun t => t = s.refuse r c)) ∧
    (partBad s rec = none → ∀ es u, s.devRead r.proc (bits rec 127 64) (16 * bits rec 143 128) = (.ok es, u) →
      let entry (i : Nat) : Nat := fld es (16 * i) 16
      let bad (i : Nat) : Option Nat := if bits (entry i) 31 16 ≠ 0 then some 0x02 else if bits (entry i) 127 64 % 8 ≠ 0 then some 0x03
        else if bits (entry i) 15 0 = 0 ∨ bits (entry i) 63 32 < 10000 then some 0x0B else none
      (∀ i c, i < bits rec 143 128 → bad i = some c → (∀ k < i, bad k = none) → Gives (.partition r rec) s (fun t => t = u.useLines.refuse r c)) ∧
      ((∀ i < bits rec 143 128, bad i = none) →
        Gives (.partition r rec) s (fun t => ∃ (v : State) (p : Part), t = v.served r ∧
          v = { u with devLines := [], parts := v.parts, ways := v.ways } ∧ v.part? (bits rec 2 0) = some p ∧
          p.first = bits rec 14 8 ∧ p.count = bits rec 22 16 ∧ p.ticko = bits rec 30 24 ∧ p.mask = bits rec 47 32 ∧
          p.nproc = bits rec 143 128 ∧ p.turn = 0 ∧ p.turnStart = u.time ∧ p.proc = bits (entry 0) 15 0 ∧ p.quantum = bits (entry 0) 63 32 ∧
          p.qlist = bits (entry 0) 127 64 ∧
          ∀ die slice, die < Config.dies → slice < Config.slicesPerDie →
            Sparse.get 0xFFFF v.ways (wayKey die slice (bits rec 2 0)) = bits rec 47 32)))) ∧
  (∀ s r addr cap, (addr % 64 ≠ 0 → Gives (.faultlog r addr cap) s (fun t => t = s.refuse r 0x03)) ∧
    (addr % 64 = 0 → (cap = 0 ∨ 65536 < cap) → Gives (.faultlog r addr cap) s (fun t => t = s.refuse r 0x0B)) ∧
    (addr % 64 = 0 → 1 ≤ cap → cap ≤ 65536 → Gives (.faultlog r addr cap) s (fun t =>
      t = (((s.ensureProc r.proc).updProc r.proc (fun p => { p with log := some (addr, cap), written := 0 })).putVaN r.proc addr 64 (cap * 2 ^ 64)).served r)))

/-- R344, R355 to R357: the attestation report; a lane-cycle record starts with its counters clear and stops with its time; the
wait-for sampler begins and reports within its capacity; a debugger's sites are set, are gone after a detach with its stopped
teams running unless the grid has faulted, and its held image is replanted. The model's choices: an open REASON (log 29), a slot of 64
positions (log 37), a capacity counted in bytes (log 50), teams stopped at a BRK that run on at a detach (log 52), and the image that a
resume asks of a live grid stopped at a BRK (log 101). -/
def Obligations.Instruments : Prop :=
  (∀ s r nonce addr, Gives (.attest r nonce addr) s (fun t => t = (s.putVa r.proc addr (attestReport s nonce)).served r) ∧
    (attestReport s nonce).length = 448 ∧ ofLe ((attestReport s nonce).take 48) = nonce % 2 ^ 384) ∧
  (∀ s r tag table rec, (s.grid? tag = none → Gives (.lcrecStart r tag table rec) s (fun t => t = s.refuse r (openReason 5))) ∧
    (∀ g bs u, s.grid? tag = some g → s.devRead r.proc table 256 = (.ok bs, u) → Gives (.lcrecStart r tag table rec) s (fun t => ∃ x : LcRec,
      x.recAddr = rec ∧ x.counts = List.replicate 80 0 ∧ x.issues = 0 ∧ x.tstart = u.time ∧ x.run = true ∧ x.bins.length = 16 ∧
      t = ((u.useLines.updGrid tag (fun g => { g with lcrec := some x })).putVa r.proc rec (lcBytes tag x 0)).served r))) ∧
  (∀ s r tag g x, s.grid? tag = some g → g.lcrec = some x → s.kept = [] → (∀ y ∈ s.slots, y.tag ≠ tag) → Gives (.lcrecStop r tag) s (fun t =>
    t = ((s.updGrid tag (fun g => { g with lcrec := some { x with run := false } })).putVa r.proc x.recAddr (lcBytes tag { x with run := false } s.time)).served r)) ∧
  (∀ s r addr cap period, Gives (.waitgraph r addr cap period) s (fun t => ∃ w : WaitG, t = ({ s with waitg := some w } : State).served r ∧
    w.addr = addr ∧ w.proc = r.proc ∧ w.cap = cap ∧ w.period = period ∧ w.last = s.time ∧
    w.samples = s.groups.map (fun g => ((g.tag, g.team, g.num), g.issues)))) ∧
  (∀ s w, s.waitg = some w → (s.time < w.last + w.period → Gives .waitgraphSample s (fun t => t = s)) ∧
    (w.last + w.period ≤ s.time → Gives .waitgraphSample s (fun t => ∃ bs : List Byte, bs.length ≤ w.cap ∧
      t = ({ s with waitg := some { w with last := s.time, samples := s.groups.map (fun g => ((g.tag, g.team, g.num), g.issues)) } } : State).putVa w.proc w.addr bs))) ∧
  (∀ s r tag sites, (8 < sites.length → Gives (.debugAttach r tag sites) s (fun t => t = s.refuse r 0x0B)) ∧
    (∀ g, sites.length ≤ 8 → s.grid? tag = some g → Gives (.debugAttach r tag sites) s (fun t => ∃ (v : State) (d : Dbg), t = v.served r ∧
      v = { s with grids := v.grids, groups := v.groups } ∧ v.grid? tag = some { g with dbg := some d } ∧ d.sites = sites ∧ d.arrivals = []))) ∧
  (∀ s r tag g, s.grid? tag = some g → Gives (.debugDetach r tag) s (fun t => ∃ v : State, t = v.served r ∧
    v = { s with grids := v.grids, teams := v.teams, groups := v.groups, kept := v.kept } ∧ v.grid? tag = some { g with dbg := none } ∧
    (g.faults = [] → v.teams = s.teams.map (fun u => if u.tag = tag then { u with stopped := false } else u)) ∧
    ((∀ x ∈ s.grids, x.tag = tag → x.faults ≠ []) → v.teams = s.teams) ∧ ∀ x ∈ v.groups, x.tag = tag → x.stepping = false)) ∧
  (∀ s r tag i k bs, s.images.find? (fun i => i.1 == tag) = some i → s.kept.find? (fun k => k.tag == tag && k.cause == 5) = some k →
    ∀ u, s.fw = [] → s.imageBytes k.proc i = (some bs, u) →
    (∀ c y, u.replantWhole bs k.part = (some (.error c), y) → Gives (.debugResume r tag) s (fun t => t = y.refuse r c)) ∧
    (∀ y, u.replantWhole bs k.part = (none, y) → Gives (.debugResume r tag) s (fun t => t = { y with ringWait := true })) ∧
    (∀ h w y, u.replantWhole bs k.part = (some (.ok (h, w)), y) → Gives (.debugResume r tag) s (fun t => ∃ v : State, t = v.served r ∧
      v = { w with images := w.images.filter (fun j => decide (j.1 ≠ tag)), grids := v.grids, groups := v.groups }))) ∧
  (∀ s r tag g, s.grid? tag = some g → s.images.find? (fun i => i.1 == tag) = none →
    (g.dbg ≠ none → g.faults = [] → g.killed = false → g.ser = none → (∃ u ∈ s.teams, u.tag = tag ∧ u.stopped = true) →
      Gives (.debugResume r tag) s (fun t => t = { s with grids := t.grids, groups := t.groups } ∧
        (∃ x : Serial, t.grid? tag = some { g with ser := some x } ∧ x.reqs = [(r.sig, r.proc)] ∧ x.own = true ∧ x.byDbg = true ∧ x.snapshot = false ∧
          x.named = false ∧ x.started = s.time ∧ x.decided = false) ∧
        ∀ y ∈ t.groups, y.tag = tag → y.stopped = true)) ∧
    ((g.dbg = none ∨ ∀ u ∈ s.teams, u.tag = tag → u.stopped = false) → Gives (.debugResume r tag) s (fun t => t = s.refuse r (openReason 6))))

/-! ### The management processor, links and jobs -/

/-- R4, R253, R342 to R346: way masks and link PIDs are written, and a write outside their values is recorded; the management
messages are answered in the running phase, firmware update always; the scan port; and a reset ends in the running phase with
everything at its start when all is verified, and in recovery state otherwise. The model's choices: the replies' bodies (log 6), that a served
message refreshes the watchdog (log 35), and what the scan port holds at TRST and captures (log 7). -/
def Obligations.Management : Prop :=
  let tells (i : Instr) (always : Bool) (m : State → MgmtMsg) : Prop := ∀ s,
    (s.mgmt.phase = .running ∨ always = true → Gives i s (fun t =>
      t = { s with mgmt := { s.mgmt with refreshed := s.time, msgs := s.mgmt.msgs ++ [m s] } })) ∧
    (s.mgmt.phase ≠ .running → always = false → Gives i s (fun t => t = s))
  let logged (s t : State) (a v : Nat) : Prop := t = { s with log := s.log ++ [{ addr := a, code := 0x0B, val := v }] }
  (∀ s die slice pid v, die < Config.dies → slice < Config.slicesPerDie → pid < 8 →
    let off := 0x400000 + 64 * slice + 4 * pid
    (1 ≤ v → v ≤ 0xFFFF → Gives (.l2WayMaskWrite die off v) s (fun t => t = { s with ways := t.ways } ∧
      ∀ k, Sparse.get 0xFFFF t.ways k = if k = wayKey die slice pid then v else Sparse.get 0xFFFF s.ways k)) ∧
    ((v = 0 ∨ 0xFFFF < v) → Gives (.l2WayMaskWrite die off v) s (fun t => logged s t off v))) ∧
  (∀ s die pid v, die < Config.dies → pid < 8 → 1 ≤ v → v ≤ 0xFFFF → Gives (.l2WayMaskAll die pid v) s (fun t => t = { s with ways := t.ways } ∧
    (∀ slice < Config.slicesPerDie, Sparse.get 0xFFFF t.ways (wayKey die slice pid) = v) ∧
    ∀ k, (∀ slice < Config.slicesPerDie, k ≠ wayKey die slice pid) → Sparse.get 0xFFFF t.ways k = Sparse.get 0xFFFF s.ways k)) ∧
  (∀ s n v l, s.links[n]? = some l → (n < 18 → v < 8 → Gives (.registerWrite (.linkPid n) v) s (fun t => t = { s with links := t.links } ∧
      t.links[n]? = some { l with pid := v } ∧ ∀ k, k ≠ n → t.links[k]? = s.links[k]?)) ∧
    (8 ≤ v → Gives (.registerWrite (.linkPid n) v) s (fun t => logged s t n v))) ∧
  (∀ s die o v, Gives (.registerWrite (.l2Window die o) v) s (fun t => logged s t o v)) ∧
  (∀ msg, tells (.mctpControl msg) false (fun _ => .reply (Config.mgmtReply 0 msg)) ∧ tells (.pldmBase msg) false (fun _ => .reply (Config.mgmtReply 1 msg)) ∧
    tells (.pldmFirmwareUpdate msg) true (fun _ => .reply (Config.mgmtReply 5 msg)) ∧ ∀ k, tells (.mctpUnsupported k msg) false (fun _ => .unsupported k)) ∧
  (∀ q, tells (.pldmPlatform q) false (fun s => .sensor q (s.sensor q))) ∧ (∀ s : State, s.sensor .power = s.mgmt.power ∧ s.sensor .clock = s.mgmt.clock ∧ s.sensor .eccCount = s.mgmt.eccCount) ∧
  (∀ s, Gives .trst s (fun t => t = { s with scan := { s.scan with ir := .idcode, dr := 0x5B40E6A5 } }) ∧
    Gives .idcode s (fun t => t = { s with scan := { s.scan with ir := .idcode, dr := 0x5B40E6A5 } }) ∧
    Gives .bypass s (fun t => t = { s with scan := { s.scan with ir := .bypass, dr := 0 } }) ∧
    (∀ x, Gives (.samplePreload x) s (fun t => t = { s with scan := t.scan, choice := s.choice + 1 } ∧ t.scan.ir = .sample ∧ t.scan.boundary = x)) ∧
    (s.mgmt.phase = .boot → Gives .extest s (fun t => t = { s with scan := { s.scan with ir := .extest, dr := t.scan.dr }, choice := s.choice + 1 })) ∧
    (s.mgmt.phase ≠ .boot → Gives .extest s (fun t => t = { s with scan := { s.scan with ir := .bypass, dr := 0 } }))) ∧
  (∀ s b, Gives (.reset b) s (fun t => t.grids = [] ∧ t.groups = [] ∧ t.procs = [] ∧ t.dram = [] ∧ t.scratch = [] ∧ t.jobs = [] ∧ t.time = s.time ∧
    t.mgmt.clock = 1300 ∧ t.links.length = 18 ∧ (∀ l ∈ t.links, l.up = false) ∧
    (configOk b.record.toNat = true → Machine.Boot.verified b = true → t.mgmt.phase = .running ∧ t.mgmt.record = b.record) ∧
    ((configOk b.record.toNat = false ∨ Machine.Boot.verified b = false) → t.mgmt.phase = .recovery ∧ MgmtMsg.recovery ∈ t.mgmt.msgs)))

/-- R335 to R340, R347: requests that end here are performed at their home and answered, others sent on, given to the adapter or
refused with their code; responses and errors end this device's own transactions, and one with a reserved value is refused; links come
up, go down and are lost, a loss being reported over MCTP and to the host and joined to a recovery in progress. A request for a device that
no route reaches is dropped, and one whose address lies elsewhere gets code 1, by the model's reading (log 94); which neighbours an expiry
finds lost, and that a neighbour's own loss is told by a step, is its choice too (log 95). -/
def Obligations.Links : Prop :=
  let answer (s : State) (x type opa code data : Nat) : List Flit :=
    s.outbox ++ [{ header := answerHeader s.fabric (headerOf x) type opa code, data := data }]
  let routed (i : Nat → Nat → Instr) (ty data : Nat) : Prop := ∀ s link x,
    (s.route link ty x = .drop → Gives (i link x) s (fun t => t = s)) ∧
    (s.route link ty x = .forward → Gives (i link x) s (fun t => t = { s with outbox := s.outbox ++ [{ header := x, data := data }] })) ∧
    (s.route link ty x = .adapter → Gives (i link x) s (fun t => t = { s with adapter := s.adapter ++ [((headerOf x).tid, { header := x, data := data })] })) ∧
    (∀ c, s.route link ty x = .fail c → Gives (i link x) s (fun t => t = { s with outbox := answer s x 9 0 c 0 }))
  let stays (m m' : Memory) (a n : Nat) : Prop := ∀ b, b < a ∨ a + n ≤ b → m'.read b = m.read b
  let lose (s : State) (d : Nat) : State := (s.markLost d).fwAdd
    ((s.jobs.filter (fun j => j.recovering && ((!(j.lost.contains d) && (j.members.any (fun m => m.dev == d) || j.fills.any (fun f => f.src == d))) ||
      j.carriers.any (fun c => c.1 == d)))).map (fun j =>
      fwOp j.proc 0 (.job (.recover j.id none [d] j.absorb))))
  routed .birnisRd 1 0 ∧ (∀ data, routed (fun l x => .birnisWr l x data) 2 data) ∧ routed .birnisAt 3 0 ∧ routed .birnisSig 4 0 ∧
  (∀ (s : State) (link ty x : Nat), let h := headerOf x
    (s.carries link = false → s.route link ty x = .drop) ∧
    (s.carries link = true → h.dst ≠ s.fabric → h.dst ∈ s.reach → s.route link ty x = .forward) ∧
    (s.carries link = true → h.dst = s.fabric → (7 < h.pid ∨ h.type ≠ ty ∨ h.addr.testBit 55 = true ∨ bits x 511 304 ≠ 0) → s.route link ty x = .fail 6) ∧
    (s.carries link = true → h.dst = s.fabric → requestOk ty x = true →
      (s.admits h.src = false → s.route link ty x = .fail 5) ∧
      (s.admits h.src = true → sysDev h.addr ≠ s.fabric → s.route link ty x = .fail 1) ∧
      (s.admits h.src = true → sysDev h.addr = s.fabric →
        (sysHost h.addr = true → (∃ l ∈ s.links, l.role = 2) → s.route link ty x = .adapter) ∧
        (sysHost h.addr = true → (∀ l ∈ s.links, l.role ≠ 2) → s.route link ty x = .fail 1) ∧
        (sysHost h.addr = false → s.route link ty x = .here (sysOffset h.addr))))) ∧
  (∀ s link x a, s.route link 1 x = .here a → s.owner? (.dram a) = none →
    (s.poisoned (.dram a) 64 = false → Gives (.birnisRd link x) s (fun t =>
      t = { s with l2 := t.l2, choice := t.choice, outbox := answer s x 8 0 0 (s.dram.readN a 64) })) ∧
    (s.poisoned (.dram a) 64 = true → Gives (.birnisRd link x) s (fun t => t = { s with outbox := answer s x 9 0 2 0 }))) ∧
  (∀ s link x data a, s.route link 2 x = .here a → s.owner? (.dram a) = none → s.jobs = [] → Gives (.birnisWr link x data) s (fun t =>
    t = { s with dram := t.dram, poison := t.poison, l1 := t.l1, l2 := t.l2, choice := t.choice, groups := t.groups, accs := t.accs,
                 outbox := answer s x 8 0 0 0 } ∧
    stays s.dram t.dram a 64 ∧ ∀ k < 64, t.dram.read (a + k) =
      if (headerOf x).mask.testBit k then BitVec.ofNat 8 (data / 2 ^ (8 * k) % 256) else s.dram.read (a + k))) ∧
  (∀ s link x a, s.route link 3 x = .here a → s.owner? (.dram a) = none → s.jobs = [] →
    let h := headerOf x
    let n := if h.w then 8 else 4
    let old := s.dram.readN a n
    s.poisoned (.dram a) n = false → Gives (.birnisAt link x) s (fun t =>
      t = { s with dram := t.dram, l1 := t.l1, l2 := t.l2, choice := t.choice, groups := t.groups, accs := t.accs,
                   outbox := answer s x 8 (if h.ret then old else 0) 0 0 } ∧
      stays s.dram t.dram a n ∧ t.dram.readN a n = (if h.cas then (if old = h.opa % 2 ^ (8 * n) then h.opb else old)
        else rmw h.op (8 * n) old (h.opa % 2 ^ (8 * n))) % 2 ^ (8 * n))) ∧
  (∀ s link x a, s.route link 4 x = .here a → s.owner? (.dram a) = none → s.jobs = [] →
    let r := signalObj (s.dram.readN a 16) (sgn 64 (headerOf x).opa) (sgn 64 (headerOf x).opb)
    Gives (.birnisSig link x) s (fun t =>
      t = { s with dram := t.dram, l1 := t.l1, l2 := t.l2, choice := t.choice, groups := t.groups, accs := t.accs, log := t.log,
                   outbox := (match r.2 with
                     | none => answer s x 8 0 0 0
                     | some c => answer s x 9 0 (if c = 0x0A then 3 else 4) 0) } ∧
      t.log = (match r.2 with
        | none => s.log
        | some c => s.log ++ [{ addr := (headerOf x).addr, code := c, val := 0 }]) ∧
      stays s.dram t.dram a 16 ∧ t.dram.readN a 16 = r.1 % 2 ^ 128)) ∧
  (∀ s link x data, s.carries link = true →
    (bits x 511 312 ≠ 0 ∨ 7 < (headerOf x).pid ∨ (headerOf x).code ≠ 0 → Gives (.birnisRsp link x data) s (fun t =>
      t = { s with log := s.log ++ [{ addr := (headerOf x).addr, code := 6, val := x % 2 ^ 64 }] })) ∧
    (bits x 511 312 ≠ 0 ∨ 7 < (headerOf x).pid ∨ (headerOf x).code = 0 ∨ 6 < (headerOf x).code → Gives (.birnisErr link x) s (fun t =>
      t = { s with log := s.log ++ [{ addr := (headerOf x).addr, code := 6, val := x % 2 ^ 64 }] }))) ∧
  (∀ s link x data y, s.carries link = true → (headerOf x).dst = s.fabric → (headerOf x).host = false →
    s.txns.find? (fun t => t.tid == (headerOf x).tid) = some y →
    let gone := s.txns.filter (fun t => decide (t.tid ≠ y.tid))
    (∀ job id, answerOk 8 x = true → y.who = .fill job id → s.job? job = none → Gives (.birnisRsp link x data) s (fun t => t = { s with txns := gone })) ∧
    (∀ a, answerOk 8 x = true → s.fw = [] → y.who = .line a → Gives (.birnisRsp link x data) s (fun t =>
      t = { s with txns := gone, devLines := (a, leBytes 64 data) :: s.devLines.filter (fun z => decide (z.1 ≠ a)) })) ∧
    (∀ job id, answerOk 9 x = true → y.who = .fill job id → Gives (.birnisErr link x) s (fun t =>
      t = { s with txns := gone, mgmt := { s.mgmt with msgs := s.mgmt.msgs ++ [.linkError (headerOf x).code y.addr] } })) ∧
    (∀ id a g gr, answerOk 9 x = true → y.who = .access id → s.accs.find? (fun a => a.id == id) = some a → a.kind = .store → s.grid? a.tag = some gr →
      s.group? a.tag a.team a.grp = some g → Gives (.birnisErr link x) s (fun t =>
        t.txns = gone ∧ t.accs = s.accs.filter (fun b => decide (b.id ≠ id)) ∧ t.dram = s.dram ∧
        t.grid? a.tag = some { gr with faults := gr.faults ++ [faultRec g a.lane (errFault (headerOf x).code) a.pc a.loc.sysOf] }))) ∧
  [1, 2, 3, 4, 5, 6].map errFault = [0x05, 0x15, 0x0A, 0x02, 0x05, 0x16] ∧
  (∀ s tid y, s.txns.find? (fun t => t.tid == tid) = some y → (s.time < y.sentAt + s.linkLimit → Gives (.linkTimeout tid) s (fun t => t = s)) ∧
    (∀ job id, y.sentAt + s.linkLimit ≤ s.time → y.who = .fill job id → Gives (.linkTimeout tid) s (fun t =>
      t = { s with txns := s.txns.filter (fun t => decide (t.tid ≠ tid)), mgmt := { s.mgmt with msgs := s.mgmt.msgs ++ [.linkError 0 y.addr] } }))) ∧
  (∀ s tid data fl, s.adapter.find? (fun x => x.1 == tid) = some (tid, fl) → ((headerOf fl.header).src ≠ s.fabric ∨ (headerOf fl.header).host = true) →
    let h := headerOf fl.header
    Gives (.adapterAccessComplete tid data) s (fun t => t = ({ s with
      adapter := s.adapter.erase (tid, fl)
      outbox := answer s fl.header 8 (if h.type = 3 ∧ h.ret = true then data % 2 ^ 64 else 0) 0 (if h.type = 1 then data else 0) } : State))) ∧
  (∀ s n peer l, s.links[n]? = some l → s.mgmt.phase = .running →
    ((l.role = 2 ∨ (l.role = 1 ∧ peer = l.peer)) → Gives (.linkTraining n peer) s (fun t => t = { s with links := t.links, reach := t.reach } ∧
      t.links[n]? = some { l with up := true } ∧ (∀ k, k ≠ n → t.links[k]? = s.links[k]?) ∧
      (l.role = 1 → peer ∉ s.mgmt.lost → peer ∈ t.reach) ∧ (peer ∈ s.mgmt.lost → t.reach = s.reach))) ∧
    (l.role = 1 → peer ≠ l.peer → Gives (.linkTraining n peer) s (fun t => t = s))) ∧
  (∀ s n l, s.links[n]? = some l → l.up = true → Gives (.linkDown n) s (fun t => t = { s with links := t.links, reach := t.reach } ∧
    t.links[n]? = some { l with up := false, downAt := s.time } ∧
    (l.role = 1 → (∀ m ∈ t.links, m.up = true → m.role = 1 → m.peer ≠ l.peer) → l.peer ∉ t.reach))) ∧
  (∀ (s : State) (d : Nat), s.markLost d = if d ∈ s.mgmt.lost then s else { s with reach := s.reach.filter (fun x => decide (x ≠ d)), mgmt :=
    { s.mgmt with lost := d :: s.mgmt.lost, msgs := s.mgmt.msgs ++ [.deviceLost d] ++ [.hostLost d] } }) ∧
  (∀ s, (s.mgmt.phase ≠ .running → Gives .linksLostExpiry s (fun t => t = s)) ∧
    (s.mgmt.phase = .running → (∃ l ∈ s.links, (l.role = 1 ∨ l.role = 2) ∧ (l.up = true ∨ s.time < l.downAt + s.linkLimit)) →
      Gives .linksLostExpiry s (fun t => t = s.deadPeers.foldl lose s)) ∧
    (s.mgmt.phase = .running → (∃ l ∈ s.links, l.role = 1 ∨ l.role = 2) →
      (∀ l ∈ s.links, (l.role = 1 ∨ l.role = 2) → l.up = false ∧ l.downAt + s.linkLimit ≤ s.time) →
      Gives .linksLostExpiry s (fun t => t = lose s s.fabric))) ∧
  (∀ (s : State) (d : Nat), d ∈ s.deadPeers ↔ d ∉ s.reach ∧ (∃ l ∈ s.links, l.role = 1 ∧ l.peer = d) ∧
    ∀ l ∈ s.links, l.role = 1 → l.peer = d → l.up = false ∧ l.downAt + s.linkLimit ≤ s.time) ∧
  (∀ (s : State) (d : Nat), s.neighbourLost d = if s.mgmt.phase = .running ∧ ∃ l ∈ s.links, l.role = 1 ∧ l.peer = d then lose s d else s) ∧
  (∀ s, s.mgmt.phase = .running → (s.time < s.mgmt.refreshed + s.wdLimit → Gives .watchdogExpiry s (fun t => t = s)) ∧
    (s.mgmt.refreshed + s.wdLimit ≤ s.time → Gives .watchdogExpiry s (fun t => t = lose s s.fabric)))

/-- R348 to R352: a job is registered or refused; a recovery point serialises its grids and completes when every member is done;
a rollback discards them and reports what the job wrote outside; a spare
takes over one lost number, and none that is lost itself does; a fill that is complete is counted, and the last ends the recovery. The
model's choices: the refusals of an unknown job and of a job without a complete point (log 29), the packing of a point (log 92), and that a
job is named by its PROC and keeps its report (log 97). -/
def Obligations.Jobs : Prop :=
  (∀ s r addr hd u, s.devRead r.proc addr 32 = (.ok hd, u) →
    let h := ofLe hd
    let nd := bits h 15 0
    let nt := bits h 31 16
    let resv : Prop := bits h 63 49 ≠ 0 ∨ bits h 255 192 ≠ 0
    let crooked : Prop := bits h 127 64 % 64 ≠ 0 ∨ bits h 191 128 % 64 ≠ 0
    let outside : Prop := nd < 2 ∨ 256 < nd ∨ bits h 47 32 = 0 ∨ bits h 191 128 < 256
    (resv → Gives (.job r addr) s (fun t => t = u.useLines.refuse r 0x02)) ∧
    (¬ resv → crooked → Gives (.job r addr) s (fun t => t = u.useLines.refuse r 0x03)) ∧
    (¬ resv → ¬ crooked → outside → Gives (.job r addr) s (fun t => t = u.useLines.refuse r 0x0B)) ∧
    (∀ bs v, ¬ resv → ¬ crooked → ¬ outside → u.devRead r.proc (addr + 32) (4 * nd + 32 * nt) = (.ok bs, v) →
      let devs := (List.range nd).map (fun i => fld bs (4 * i) 4)
      let tens := (List.range nt).map (fun i => fld bs (4 * nd + 32 * i) 32)
      let resvIn : Prop := (∃ x ∈ devs, bits x 31 17 ≠ 0) ∨ ∃ x ∈ tens, bits x 137 130 ≠ 0 ∨ bits x 255 154 ≠ 0
      let crookedIn : Prop := ∃ x ∈ tens, bits x 63 0 % 65536 ≠ 0
      (resvIn → Gives (.job r addr) s (fun t => t = v.useLines.refuse r 0x02)) ∧
      (¬ resvIn → crookedIn → Gives (.job r addr) s (fun t => t = v.useLines.refuse r 0x03)) ∧
      (¬ resvIn → ¬ crookedIn → tens.any tensorBad = true → Gives (.job r addr) s (fun t => t = v.useLines.refuse r 0x0B)) ∧
      (¬ resvIn → ¬ crookedIn → tens.any tensorBad = false →
        (partnersOk (devs.map memberOf) = false → Gives (.job r addr) s (fun t => t = v.useLines.refuse r 0x1A)) ∧
        (partnersOk (devs.map memberOf) = true → v.useLines.pdomsOk (h.testBit 48) (devs.map memberOf) = true →
          let old := v.jobs.find? (fun x => x.proc == bits h 47 32)
          (∀ x, old = some x → x.taking ≠ none ∨ x.recovering = true → Gives (.job r addr) s (fun t => t = { v.useLines with ringWait := true })) ∧
          ((∀ x, old = some x → x.taking = none ∧ x.recovering = false) → Gives (.job r addr) s (fun t => ∃ j,
            t = ({ v with devLines := [], jobs := v.jobs.filter (fun x => decide (x.proc ≠ j.proc)) ++ [j] } : State).served r ∧
            j.id = bits h 47 32 ∧ j.proc = bits h 47 32 ∧ j.members = devs.map memberOf ∧ j.tensors = tens.map tensorOf ∧ j.taking = none ∧
            (old = none → j.complete = none ∧ j.lost = [] ∧ j.dirty = []) ∧
            ∀ x, old = some x → j.complete = x.complete ∧ j.places = x.places ∧ j.lost = x.lost ∧ ∀ a ∈ x.dirty, a ∈ j.dirty)))))) ∧
  (∀ s r id k, s.job? id = none → Gives (.rpoint r id k) s (fun t => t = s.refuse r (openReason 3))) ∧
  (∀ s r id k j, s.job? id = some j → (j.taking ≠ none ∨ j.recovering = true ∨ s.fw ≠ []) →
    Gives (.rpoint r id k) s (fun t => t = { s with ringWait := true })) ∧
  (∀ s r id k j, s.job? id = some j → j.taking = none → j.fills = [] → s.fw = [] → s.isSpare j = false → j.recovering = false →
    s.heldImages j.proc = ([], s) → (s.grids.map (·.tag)).Nodup →
    (∃ g ∈ s.grids, g.proc = j.proc) → (∀ g ∈ s.grids, g.proc = j.proc → g.faults = [] ∧ g.killed = false ∧ g.ser = none) →
    Gives (.rpoint r id k) s (fun t =>
      t = { s with jobs := t.jobs, grids := t.grids, groups := t.groups, areas := s.areas.filter (fun a => decide (a.slot ≠ some (id, k % 2))) } ∧
      (∃ j', t.job? id = some j' ∧ j'.taking = some k ∧ j'.pending = (s.grids.filter (fun g => g.proc == j.proc)).map (·.tag)) ∧
      ∀ tag g, s.grid? tag = some g → g.proc = j.proc → t.grid? tag = some { g with ser := some (ownSerial 4 s.time g.proc) })) ∧
  (∀ s id k j, s.job? id = some j → (j.taking ≠ some k ∨ j.finished = false → Gives (.rpointComplete id k) s (fun t => t = s)) ∧
    (j.taking = some k → j.finished = true → Gives (.rpointComplete id k) s (fun t => ∃ v : State, t = v.signalOp j.takingReq.2 j.takingReq.1 .done ∧
      v = { s with jobs := v.jobs } ∧ v.job? id = some { j with complete := some k, taking := none, places := (k, j.area + k % 2 * j.slot, j.slot) :: j.places.take 1 }))) ∧
  (∀ s r id lost part, (s.job? id).bind (·.complete) = none → Gives (.recover r id lost part) s (fun t =>
    t = ((((s.job? id).map (·.recReqs)).getD []) ++ [(r.sig, r.proc)]).foldl
      (fun (v : State) q => v.signalOp q.2 q.1 (.put (faultWord (0x80 + openReason 4) 0 false))) (s.updJob id (fun j => { j with recReqs := [] })))) ∧
  (∀ s r id lost part j, s.job? id = some j → j.complete ≠ none → s.txns ≠ [] → Gives (.recover r id lost part) s (fun t => t = { s with ringWait := true })) ∧
  (∀ s r id part j p, s.job? id = some j → j.complete = some p → j.lost = [] → j.carriers = [] → j.fills = [] → j.recovering = false → s.txns = [] →
    (s.grids.map (·.tag)).Nodup →
    Gives (.recover r id [] part) s (fun t => t.grids = s.grids.filter (fun g => decide (g.proc ≠ j.proc)) ∧
      (∀ g ∈ s.grids, g.proc = j.proc → (∀ u ∈ t.teams, u.tag ≠ g.tag) ∧ ∀ x ∈ t.groups, x.tag ≠ g.tag) ∧
      ∃ j', t.job? id = some j' ∧ j'.lost = [] ∧ j'.report = j.rollback s.fabric ∧ j'.taking = none ∧ j'.complete = some p ∧ j'.fills = [] ∧
        j'.recovering = true ∧ j'.recReqs = j.recReqs ++ [(r.sig, r.proc)])) ∧
  (∀ (j : Job) (lost : List Nat), j.carry false lost = [] ∧
    (∀ c ∈ j.carry true lost, c ∈ j.carriers ∨ (c.1 ∈ lost ∧ ∃ m ∈ j.members, m.dev = c.2 ∧ m.spare = true)) ∧
    (∀ c ∈ j.carry true lost, c.2 ∉ lost) ∧ ((j.carriers.map (·.2)).Nodup → ((j.carry true lost).map (·.2)).Nodup)) ∧
  (∀ (j : Job) (own : Nat), j.members.filter (fun m => decide (m.dev ≠ own)) = [] →
    j.rollback own = leBytes 16 (put 0 (min j.extCount (2 ^ 32 - 1)) + put 32 j.extRanges.length) ++
      j.extRanges.flatMap (fun r => leBytes 16 (put 0 (r.1 % 2 ^ 56) + put 56 (r.2 % 2 ^ 40)))) ∧
  (∀ s id fill len j f, s.job? id = some j → j.fills.find? (fun f => f.id == fill) = some f →
    ((len ≠ f.tensor.len ∨ (f.mine = true ∧ (f.done < f.tensor.len ∨ s.fw ≠ []))) → Gives (.fillComplete id fill len) s (fun t => t = s)) ∧
    (len = f.tensor.len → (f.mine = false ∨ (f.tensor.len ≤ f.done ∧ s.fw = [])) → Gives (.fillComplete id fill len) s (fun t =>
      let rest := j.fills.filter (fun g => decide (g.id ≠ fill))
      let v := s.updJob id (fun j => { j with fills := rest, filled := if f.mine = true then f.tensor :: j.filled else j.filled })
      t = if rest = [] then v.fwAdd [fwOp j.proc 0 (.job (.recovered id))] else v)))

/-! ### Queue processors -/

/-- R280 to R284: RFETCH, BFXT, SWAIT with its wake and DISP, each with rd and pc as they leave them, and the exception of each;
an exception that is not delegated saves the pc, the cause, the value and the status, and enters machine mode at the handler; x0 is 0
and takes no write. The model's choices: the trap entry (log 18) and the delegation (log 72), the table of an operand's address (log 20), the
value of DISP's exception for a partition that is not formed (log 73), that DISP waits while the power limit has stopped the part (log 102),
the subcode of an SWAIT on uncorrectable data (log 103), and where a grid's memory lies (logs 14, 25). -/
def Obligations.QueueProcessors : Prop :=
  let runs (s : State) (h : HFields) (f3 : Nat) (x : Hart) : Prop := s.hart? s.hartNum = some x ∧ checkHart f3 h = true
  let only (s t : State) (y : Hart) : Prop := t = { s with harts := t.harts } ∧ t.hart? s.hartNum = some y ∧ ∀ n, n ≠ s.hartNum → t.hart? n = s.hart? n
  let ends (x : Hart) (rd : BitVec 5) (v : Nat) : Hart :=
    { x.setX rd.toNat (BitVec.ofNat 64 v) with pc := x.pc + 4#64, mcycle := x.mcycle + 1#64, minstret := x.minstret + 1#64 }
  let traps (i : HFields → Instr) (f3 : Nat) (cause : Nat) (val : State → HFields → Hart → Option Nat) : Prop :=
    ∀ s h x v, runs s h f3 x → val s h x = some v → Gives (i h) s (fun t => only s t (x.trap cause v))
  let rs (x : Hart) (r : BitVec 5) : Nat := (x.getX r.toNat).toNat
  (∀ (x : Hart) (c v : Nat), x.delegated false c = false → let y := x.trap c v
    y.mepc = x.pc ∧ y.mcause = BitVec.ofNat 64 c ∧ y.mtval = BitVec.ofNat 64 v ∧ y.mode = 3 ∧ y.pc = x.mtvec &&& ~~~(3#64) ∧
    y.mstatus.getLsbD 3 = false ∧ y.mstatus.getLsbD 7 = x.mstatus.getLsbD 3 ∧ (x.mode < 4 → (y.mstatus.extractLsb' 11 2).toNat = x.mode) ∧
    y.x = x.x ∧ y.buf = x.buf ∧ y.mtvec = x.mtvec) ∧
  (∀ (x : Hart) (c v : Nat), x.delegated false c = true → let y := x.trap c v
    y.sepc = x.pc ∧ y.scause = BitVec.ofNat 64 c ∧ y.stval = BitVec.ofNat 64 v ∧ y.mode = 1 ∧ y.pc = x.stvec &&& ~~~(3#64) ∧ y.x = x.x ∧ y.buf = x.buf) ∧
  (∀ (x : Hart) (v : DWord) (n : Nat), x.getX 0 = 0#64 ∧ x.setX 0 v = x ∧ (n ≠ 0 → (x.setX n v).getX n = v ∧ ∀ k, k ≠ n → (x.setX n v).getX k = x.getX k)) ∧
  (∀ (i : HFields → Instr) (f3 : BitVec 3), (i, f3) ∈ [(Instr.rfetch, 0#3), (.bfxt, 1#3), (.swait, 2#3), (.disp, 3#3)] →
    ∀ s h x, s.hart? s.hartNum = some x → checkHart f3.toNat h = false → Gives (i h) s (fun t => only s t
      (x.trap 2 (h.f7 ++ h.rs2 ++ h.rs1 ++ f3 ++ h.rd ++ 0b0001011#7 : BitVec 32).toNat))) ∧
  (∀ s h x, runs s h 1 x →
    let pos := rs x h.rs2 % 64
    let len := bits (rs x h.rs2) 14 8
    let l := min len (64 - pos)
    let f := rs x h.rs1 / 2 ^ pos % 2 ^ l
    len ≤ 64 → Gives (.bfxt h) s (fun t => only s t (ends x h.rd (if h.f7 = 1#7 ∧ 0 < l ∧ 2 ^ (l - 1) ≤ f then 2 ^ 64 - 2 ^ l + f else f)))) ∧
  traps .bfxt 1 25 (fun _ h x => if 64 < bits (rs x h.rs2) 14 8 then some 1 else none) ∧
  traps .rfetch 0 24 (fun _ h x => if rs x h.rs1 % 64 ≠ 0 then some 1 else none) ∧
  (∀ s h x, runs s h 0 x → rs x h.rs1 % 64 = 0 → s.fw = [] →
    (∀ va u, s.devRead x.proc (rs x h.rs1) 64 = (.bad va, u) → Gives (.rfetch h) s (fun t => only u.useLines t (x.trap 24 2))) ∧
    (∀ va u, s.devRead x.proc (rs x h.rs1) 64 = (.ecc va, u) → Gives (.rfetch h) s (fun t => only u.useLines t (x.trap 24 4))) ∧
    (∀ qb u, s.devRead x.proc (rs x h.rs1) 64 = (.ok qb, u) →
      let d := descOf (ofLe qb)
      let k := (d.wr + 2 ^ 32 - d.rd) % 2 ^ 32
      let slot := rs x h.rs2 % 16
      (k = 0 → Gives (.rfetch h) s (fun t => only u.useLines t (ends x h.rd 0))) ∧
      (2 ^ d.log2 < k → Gives (.rfetch h) s (fun t => only u.useLines t (x.trap 24 3))) ∧
      (∀ va v, 0 < k → k ≤ 2 ^ d.log2 → u.devRead d.proc (d.slot d.rd) 64 = (.bad va, v) → Gives (.rfetch h) s (fun t => only v.useLines t (x.trap 24 2))) ∧
      (∀ va v, 0 < k → k ≤ 2 ^ d.log2 → u.devRead d.proc (d.slot d.rd) 64 = (.ecc va, v) → Gives (.rfetch h) s (fun t => only v.useLines t (x.trap 24 4))) ∧
      (∀ bs v, 0 < k → k ≤ 2 ^ d.log2 → u.devRead d.proc (d.slot d.rd) 64 = (.ok bs, v) →
        let filled (y : Hart) : Hart := { y with buf := y.buf.writeBytes (64 * slot) bs, slotProc := Sparse.set 0 y.slotProc slot d.proc,
                                                 slotDesc := Sparse.set 0 y.slotDesc slot (rs x h.rs1) }
        Gives (.rfetch h) s (fun t => only ((v.useLines.updHart s.hartNum filled).putVaN x.proc (rs x h.rs1 + 12) 4 ((d.rd + 1) % 2 ^ 32)) t
          (ends (filled x) h.rd (d.rd * 2 ^ 32 + cmdType (ofLe bs))))))) ∧
  traps .swait 2 26 (fun _ h x => if rs x h.rs1 % 8 ≠ 0 then some 1 else none) ∧
  (∀ s h x, runs s h 2 x → rs x h.rs1 % 8 = 0 →
    (∀ va u, s.devRead x.proc (rs x h.rs1) 8 = (.bad va, u) ∨ s.devRead x.proc (rs x h.rs1) 8 = (.ecc va, u) →
      Gives (.swait h) s (fun t => only u.useLines t (x.trap 26 2))) ∧
    (∀ bs u, s.devRead x.proc (rs x h.rs1) 8 = (.ok bs, u) →
      let woken : Bool := x.pending != 0#64 || stallOver h.f7.toNat (ofLe bs) (rs x h.rs2)
      (woken = true → Gives (.swait h) s (fun t => only u.useLines t (ends x h.rd (ofLe bs)))) ∧
      (woken = false → Gives (.swait h) s (fun t => only u.useLines t
        { x with stall := some { rd := h.rd.toNat, addr := rs x h.rs1, cond := h.f7.toNat, val := rs x h.rs2 } })))) ∧
  (∀ s n x w bs u, s.hart? n = some x → x.stall = some w → s.devRead x.proc w.addr 8 = (.ok bs, u) →
    let woken : Bool := x.pending != 0#64 || stallOver w.cond (ofLe bs) w.val
    (woken = false → Gives (.swaitWake n) s (fun t => t = u.useLines)) ∧
    (woken = true → Gives (.swaitWake n) s (fun t => t = { u.useLines with harts := t.harts } ∧
      t.hart? n = some { ({ x with stall := none } : Hart).setX w.rd (BitVec.ofNat 64 (ofLe bs)) with
                           pc := x.pc + 4#64, mcycle := x.mcycle + 1#64, minstret := x.minstret + 1#64 }))) ∧
  (∀ cond w v, stallOver cond w v = true ↔ w.testBit 63 = true ∨ (if cond = 0 then v ≤ w % 2 ^ 63 else if cond = 1 then w % 2 ^ 63 = v else w % 2 ^ 63 ≠ v)) ∧
  (∀ s h x, runs s h 3 x →
    let slot := rs x h.rs1 % 16
    let pt := rs x h.rs2 % 8
    let pid := Sparse.get 0 x.slotProc slot
    let desc := Sparse.get 0 x.slotDesc slot
    let c := x.buf.readN (64 * slot) 64
    let tick : Bool := match s.queues.find? (QueueSt.is pid desc) with
      | some q => q.tickq
      | none => false
    (s.mgmt.powerStopped = true → Gives (.disp h) s (fun t => t = s)) ∧
    (s.mgmt.powerStopped = false →
      (cmdType c ≠ 1 → Gives (.disp h) s (fun t => only s t (x.trap 27 (2 ^ 56 + bits c 15 0 % 2 ^ 56)))) ∧
      (∀ r y v, cmdType c = 1 → s.checkLaunch pid pt tick c = (.bad r y, v) →
        Gives (.disp h) s (fun t => only v t (x.trap 27 (r * 2 ^ 56 + y % 2 ^ 56)))) ∧
      (∀ k o ps v, cmdType c = 1 → s.checkLaunch pid pt tick c = (.ok k o ps, v) →
        (v.part? pt = none → Gives (.disp h) s (fun t => only v.useLines t (x.trap 27 2))) ∧
        (∀ p, v.part? pt = some p →
          let n := (v.grids.filter (fun g => g.part == pt && g.proc == pid)).length
          (64 ≤ n → Gives (.disp h) s (fun t => only v.useLines t (ends x h.rd 0))) ∧
          (n < 64 → Gives (.disp h) s (fun t => ∃ g : Grid,
            let base : State := { v with grids := v.grids ++ [g], nextTag := if v.freeTag = 65535 then 1 else v.freeTag + 1, nextId := v.nextId + 1,
                                         devLines := [] }
            let w : State := if k.det = true then base.giveRegion pid g.spillad (32 * k.spill) else base
            t = (w.updQueue pid desc (fun q => { q with undone := q.undone ++ [g.tag] })).updHart s.hartNum (fun y => ends y h.rd g.tag) ∧
            g.tag = v.tagOf v.freeTag ∧ g.kcb = k ∧ g.handle = o.handle ∧ g.params = ps ∧ g.proc = pid ∧ g.queue = desc ∧ g.part = pt ∧ g.tick = tick ∧
            g.x = bits c 223 192 ∧ g.y = bits c 255 224 ∧ g.z = bits c 287 256 ∧ g.n = bits c 335 288 ∧ g.sig = bits c 415 352 ∧
            g.started = 0 ∧ g.next = 0 ∧ g.faults = [] ∧ g.killed = false ∧ g.ser = none ∧
            g.spillad = if k.det = true then spillVa g.tag else 0))))))

/-! ### The machine as a whole -/

/-- R36, R37: the primary issue set is every lane that may issue and has the least key (yielded, depth downwards, pc); the second
is every unyielded one of the next key, when the primary's is unyielded. That a lane at rest at a canonical point has no key meanwhile is
the model's choice (log 71). What stops an issue before the instruction's own effect: the implied markers, and a read or write of
`sr_fstat`, first let the lanes of the set with results outstanding drain (R78, R79, R154); a check of R358 that fails faults in every
performing lane with its code, and a poisoned source register with ECC_UNCORRECTABLE in every lane that reads it (R255), but in no lane
whose fault R49 keeps from being reported. -/
def Obligations.IssueSets : Prop :=
  let may (s : State) (gr : Grid) (g : Group) (i : Nat) (x : Lane) : Prop :=
    i < 64 ∧ g.lanes[i]? = some x ∧ x.st = .running ∧ s.rests gr g i x = false
  let first (x y : Lane) : Prop := (x.yielded = false ∧ y.yielded = true) ∨ (x.yielded = y.yielded ∧
    (y.frames.length < x.frames.length ∨ (x.frames.length = y.frames.length ∧ x.pc.toNat < y.pc.toNat)))
  let same (x y : Lane) : Prop := x.yielded = y.yielded ∧ x.frames.length = y.frames.length ∧ x.pc = y.pc
  (∀ s gr g,
    (∀ m k, s.primary gr g = some (m, k) →
      (∃ i, m.getLsbD i = true ∧ may s gr g i k) ∧ (∀ i x, may s gr g i x → ¬ first x k) ∧
      (∀ i, m.getLsbD i = true ↔ ∃ x, may s gr g i x ∧ same x k) ∧
      (∀ m2 k2, s.secondSet gr g k = some (m2, k2) → k.yielded = false ∧ k2.yielded = false ∧ first k k2 ∧
        (∀ i x, may s gr g i x → x.yielded = false → ¬ same x k → ¬ first x k2) ∧
        (∀ i, m2.getLsbD i = true ↔ ∃ x, may s gr g i x ∧ same x k2)) ∧
      (s.secondSet gr g k = none → k.yielded = true ∨ ∀ i x, may s gr g i x → x.yielded = false → same x k)) ∧
    (s.primary gr g = none → ∀ i x, ¬ may s gr g i x)) ∧
  (∀ (s : State) (opc : Nat) (f : Fields),
    let v := drainFirst s opc f
    let out (l : Nat) : Bool := s.outstanding s.cur.tag s.cur.team s.cur.grp l
    let waits : Prop := opc ∈ [0x02, 0x03, 0x04, 0x05, 0x0A, 0xC1, 0xD7] ∨ (opc = 0xF0 ∧ f.a = 0x10#8) ∨ (opc = 0xF1 ∧ f.d = 0x10#8)
    (¬ waits → v = s) ∧
    (waits → v = { s with groups := v.groups, cur := { s.cur with mask := v.cur.mask } } ∧
      (∀ l, v.cur.mask.getLsbD l = (s.cur.mask.getLsbD l && !out l)) ∧
      (∀ tag team n, (tag, team, n) ≠ (s.cur.tag, s.cur.team, s.cur.grp) → v.group? tag team n = s.group? tag team n) ∧
      ∀ g, s.group? s.cur.tag s.cur.team s.cur.grp = some g → ∃ h, v.group? s.cur.tag s.cur.team s.cur.grp = some h ∧
        h = { g with lanes := h.lanes } ∧ h.lanes.length = g.lanes.length ∧
        ∀ l x, g.lanes[l]? = some x → h.lanes[l]? = some (if s.cur.mask.getLsbD l && out l then { x with st := .draining } else x))) ∧
  (∀ (i : Instr) (s : State) (opc : Nat) (f : Fields) (len : Nat),
    (match rawOf i with
      | some (.b o g) => opc = o.toNat ∧ f = Fields.ofB o.toNat g ∧ len = 4
      | some (.w o g) => opc = o.toNat ∧ f = g ∧ len = Form.len g.form
      | _ => False) →
    exec i s = exec i (drainFirst s opc f) ∧
    (drainFirst s opc f = s → s.cur.mask = 0#64 → exec i s = .next s) ∧
    ∀ e, drainFirst s opc f = s → envOf s opc f len = some e → e.mask ≠ 0#64 →
      (∀ code, e.kernelCheck = some code → e.faultable e.perf ≠ [] →
        Gives i s (fun t => e.Faults s t ((e.faultable e.perf).map (fun l => e.record l code 0)))) ∧
      (e.kernelCheck = none → (e.faultable e.exec).filter e.spoilt ≠ [] →
        Gives i s (fun t => e.Faults s t (((e.faultable e.exec).filter e.spoilt).map (fun l => e.record l 0x15 0))))) ∧
  (∀ e : Env,
    let quiet (l : Nat) : Prop :=
      (e.opc ∈ [0xB1, 0xB3, 0xB5, 0xB8, 0xB9, 0xBA, 0xBB, 0xBC, 0xBD, 0xD0, 0xD1, 0xD2] ∧ (e.lane l).demoted = true) ∨
      (e.opc ∈ [0xB0, 0xB2, 0xB4, 0xEB, 0xF2] ∧ if e.uniform then ∀ k ∈ e.set, (e.lane k).demoted = true else (e.lane l).demoted = true)
    (∀ ls l, l ∈ e.faultable ls ↔ l ∈ ls ∧ ¬ quiet l) ∧
    (∀ l span v s x (m : BitVec 10), e.srcSpoilt l (.src span v s) x m = true ↔
      let src := figLane e.w l (m.toNat / 8 % 8) (m.toNat % 8)
      ∃ k < span, (x.toNat < 0xC0 ∧ (m.toNat / 8 % 8 = 0 ∨ e.mask.getLsbD src = true) ∧ (e.lane src).w0 + x.toNat + k ∈ (e.lane src).spoilt) ∨
        (0xC0 ≤ x.toNat ∧ x.toNat < 0xF0 ∧ x.toNat - 0xC0 + k ∈ e.grp.spoilt)) ∧
    (∀ l n, entry e.opc = some n → (e.spoilt l = true ↔
      e.srcSpoilt l (n.roles e.f.sub.toNat).1 e.f.d 0#10 = true ∨ e.srcSpoilt l (n.roles e.f.sub.toNat).2.1 e.f.a e.f.moda = true ∨
      e.srcSpoilt l (n.roles e.f.sub.toNat).2.2.1 e.f.b e.f.modb = true ∨ e.srcSpoilt l (n.roles e.f.sub.toNat).2.2.2 e.f.c e.f.modc = true))) ∧
  (∀ (k : Kcb) (opc : Nat) (f : Fields),
    let tile (n : Nat) : Prop := n < 16 ∧ (k.tiles.getD n (0, 0, false)).1 ≠ 0
    let figures : Prop := ∀ m ∈ [f.moda, f.modb, f.modc], m.toNat / 8 % 8 = 5 → 2 ^ (m.toNat % 8) < k.width
    let op := f.sub.toNat % 16
    let ordered : Prop := k.det = true ∧ (opc ∈ [0xB8, 0xB9, 0xBB, 0xBC] ∨ (opc = 0xBA ∧ op ∈ [8, 12, 13]) ∨ (opc = 0xBD ∧ 8 ≤ op ∧ op ≤ 13))
    let absent : Prop := (opc = 0xD4 ∧ f.sub.getLsbD 0 = false ∧ f.ctl.toNat % 4 = 1 ∧ k.cluster = 1) ∨ (opc = 0xF4 ∧ k.disp = false)
    let wrong : Prop := (opc = 0xA1 ∧ f.b = 0xF2#8 ∧ k.width ≤ f.lit.toNat) ∨
      ((opc = 0xA3 ∨ opc = 0xA6) ∧ k.width = 64 ∧ f.d ≠ 0xF0#8 ∧ f.d.toNat % 2 = 1) ∨
      (opc ∈ [0xE0, 0xE1, 0xE2, 0xE3, 0xE5, 0xE6, 0xE7] ∧ ¬ tile f.d.toNat) ∨ (opc = 0xE4 ∧ ¬ tile op) ∨
      (opc = 0xE6 ∧ (¬ tile f.a.toNat ∨ k.tiles.getD f.d.toNat (0, 0, false) ≠ k.tiles.getD f.a.toNat (0, 0, false)))
    (¬ figures → k.check opc f = some 0x02) ∧ (figures → ordered → k.check opc f = some 0x0F) ∧ (figures → absent → k.check opc f = some 0x01) ∧
    (figures → wrong → k.check opc f = some 0x02) ∧ (figures → ¬ ordered → ¬ absent → ¬ wrong → k.check opc f = none))

/-- R38 holds after every step, whatever the state before: where a group has a runnable lane, it has one whose yielded flag is
clear. -/
def Obligations.YieldInvariant : Prop := ∀ s t, step s = .next t → t.YieldOk

/-- The state after reset: no process, no grid, no queue, nothing in memory (in its one form), in the caches or on a link, the harts in
machine mode, the rights of every link at PID 0, grid tags from 1, the scan port at IDCODE; R38 holds. That the harts' other registers
are 0, memory lists nothing, and the port holds IDCODE is the model's choice (logs 2, 15, 18, 7). -/
def Obligations.ResetState : Prop :=
  State.reset.YieldOk ∧ State.reset.memWf = true ∧ State.reset.grids = [] ∧ State.reset.procs = [] ∧ State.reset.queues = [] ∧
  State.reset.l1 = [] ∧ State.reset.icache = [] ∧ State.reset.tlb = [] ∧ State.reset.walkers = [] ∧ State.reset.txns = [] ∧ State.reset.fw = [] ∧
  State.reset.time = 0 ∧ State.reset.nextTag = 1 ∧ State.reset.harts.length = 4 ∧
  (∀ h ∈ State.reset.harts, h.mode = 3 ∧ h.pc = 0#64 ∧ h.stall = none ∧ ∀ n, Sparse.get 0#64 h.x n = 0#64) ∧
  State.reset.links.length = 18 ∧ (∀ l ∈ State.reset.links, l.pid = 0 ∧ l.up = false) ∧ State.reset.mgmt.phase = .boot ∧
  State.reset.mgmt.clock = 1300 ∧ State.reset.scan.dr = 0x5B40E6A5 ∧ (∀ a, State.reset.dram.read a = 0#8)

/-- A step runs the instruction that the bytes at the least key's pc decode to: the mover that is next takes its turn, the lanes
of the primary set execute it, a second set may follow (R37), the issue is stamped, and R38 is applied; an issue that the copy queue had
no room for does not count (R204). A set whose fetch or whose second set waits executes nothing, and one of run-time code with results
outstanding has those lanes drain (R76). In run-time code the checks of R76 pass and nothing is outstanding first. A queue processor's step
runs the custom instruction at its pc while the part runs and no interrupt is due; a step of the table that has no encoding and is no
service happens as such; a service's row executes for the request at hand in the ring. Which mover is next (log 3), that a queue processor fetches
local memory at its pc (log 55), and where the ring and its operands lie (log 93) are the model's choices. -/
def Obligations.StepRunsDecoded : Prop :=
  let after (o : Host.Outcome State Fault Refusal) (k : State → State) : Host.Outcome State Fault Refusal := match o with
    | .next t => .next (k t)
    | .fault r => .fault r
    | .refused r => .refused r
  (∀ s u tag team num gr g m k w0 ws rest i, s.nextAct = (.issue tag team num, u) → u.grid? tag = some gr → u.group? tag team num = some g →
    u.mayTurn g = true → u.primary gr g = some (m, k) → u.pairWait gr g k i = none →
    u.fetchWords (u.coreOf tag team) gr.proc k.pc.toNat 1 = .ok [w0] →
    u.fetchWords (u.coreOf tag team) gr.proc k.pc.toNat (instrLen w0 / 4) = .ok ws → decode ws = .ok (i, rest) →
    (∀ r, u.runOf gr.proc k.pc.toNat = some r → ∀ l, m.getLsbD l = true →
      runCheck gr g r i (g.lanes.getD l default) = none ∧ u.outstanding tag team num l = false) →
    (∀ a ∈ endsOf (g.pick m) k.pc i, ∃ w, u.fetchWords (u.coreOf tag team) gr.proc a 1 = .ok w) →
    (∀ l ∈ g.lanes, l.cold = false) →
    let v : State := { (u.updGroup tag team num (fun x => { x with blocked := 0 })).fetchTouch (u.coreOf tag team) gr.part gr.proc k.pc.toNat (instrLen w0) with
                       cur := ⟨tag, team, num, m, k.pc⟩ }
    (∀ w, exec i v = .next w →
      (w.passed tag team num = true → step s = .next (w.endTurn tag team num false).stopSteps.settle) ∧
      (w.passed tag team num = false → u.second w tag team num i = none →
        step s = .next ((u.countIssue w tag team num i none).endTurn tag team num true).stopSteps.settle) ∧
      (∀ x, w.passed tag team num = false → u.second w tag team num i = some (.done x) →
        step s = .next ((u.countIssue x tag team num i none).endTurn tag team num true).stopSteps.settle) ∧
      (∀ x, w.passed tag team num = false → u.second w tag team num i = some (.wait x) →
        step s = .next ((u.countIssue w tag team num i none).endTurn tag team num true).stopSteps.settle) ∧
      (∀ x j, w.passed tag team num = false → u.second w tag team num i = some (.run x j) →
        step s = after (exec j x) (fun y =>
          ((u.countIssue y tag team num i (some (x.cur.mask, x.cur.pc, j))).endTurn tag team num true).stopSteps.settle))) ∧
    (∀ r, exec i v = .fault r → step s = .fault r) ∧ (∀ r, exec i v = .refused r → step s = .refused r)) ∧
  (∀ s u tag team num gr g m k, s.nextAct = (.issue tag team num, u) → u.grid? tag = some gr → u.group? tag team num = some g →
    u.mayTurn g = true → u.primary gr g = some (m, k) →
    (∀ x, u.fetchIns gr g m k = .error (.wait x) → step s = .next (x.endTurn tag team num false).stopSteps.settle) ∧
    (∀ x, u.fetchIns gr g m k = .error (.done x) → step s = .next (x.endTurn tag team num false).stopSteps.settle) ∧
    (∀ i len, u.fetchIns gr g m k = .ok (i, len) →
      (u.mustDrain gr g m k ≠ 0#64 → step s = .next ((u.updGroup g.tag g.team g.num (fun x => x.updMask (u.mustDrain gr g m k)
        (fun _ l => { l with st := .draining }))).endTurn tag team num false).stopSteps.settle) ∧
      (∀ x j y, u.begin_ gr g m k i len = .run x j → u.pairWait gr g k j = some y →
        step s = .next (y.endTurn tag team num false).stopSteps.settle))) ∧
  (∀ s n u h i, s.nextAct = (.hart n, u) → u.hart? n = some h → u.mgmt.phase = .running → h.stall = none → h.interrupt = none → h.idle = false →
    h.pc.toNat + 4 ≤ Config.dramBytes → u.readNAt (.dram h.pc.toNat) 2 % 4 = 3 →
    decodeHart (BitVec.ofNat 32 (u.readNAt (.dram h.pc.toNat) 4)) = some i → step s = after (exec i { u with hartNum := n }) (fun t => t.stopSteps.settle)) ∧
  (∀ s u i, s.nextAct = (.ev i, u) → i.encoded = false → isService i = false → step s = after (exec i u) (fun t => t.stopSteps.settle)) ∧
  (∀ s u v i, s.nextAct = (.service, u) → u.ringNext = .run v i → step s = after (exec i v) (fun t => t.ringAfter.stopSteps.settle))

/-- Words of the spec's encodings decode to what they stand for (R58 to R63; the words of R135 and R124), and a word with a
reserved bit set does not. -/
def Obligations.DecodeWords : Prop :=
  let x : Fields := { form := .x, sw := false, sub := 0#5, d := 0xF0#8, a := 0xF0#8, b := 0xF0#8, c := 0xF0#8, prd := 127#7, pn := false,
                      rnd := 0#2, sat := false, ctl := 0#5, moda := 0#10, modb := 0#10, modc := 0#10, lit := 0#64 }
  decode [0xCA080100#32, 0xF2F0FE00#32, 0#32, 4#32, 0#32] =
    .ok (.icmp { x with form := .xl, sub := 8#5, d := 1#8, a := 0#8, b := 0xF2#8, lit := 4#64 }, []) ∧
  decode [0x8020F000#32, 0x00090200#32, 0#32] = .ok (.bra { x with a := 0#8, b := 0#8, c := 9#8, prd := 1#7 }, []) ∧
  decode [0x0400C082#32] = .ok (.iadd { sw := false, d := 3#7, a := 1#7, b := 2#7 }, []) ∧
  decode [0x8C600401#32, 0x0203FE00#32, 0#32] = .ok (.ffma { x with d := 4#8, a := 1#8, b := 2#8, c := 3#8 }, []) ∧
  decode [0x00C00000#32] = .ok (.exit false, []) ∧
  decode [0x8C600401#32, 0x0203FE00#32, 1#32] = .error (.bad .opcode) ∧
  decodeHart 0x0202A00B#32 = some (.swait { f7 := 1#7, rs2 := 0#5, rs1 := 5#5, rd := 0#5 })

/-- R58 to R63, R280: decoding the words of a well-formed instruction gives it back, whatever words follow; a queue processor's
instruction is one word of its own. -/
def Obligations.RoundTrip : Prop :=
  ∀ i : Instr, i.wf = true → i.encoded = true →
    (match i with
      | .rfetch _ | .bfxt _ | .swait _ | .disp _ => ∃ w, encode i = [w] ∧ decodeHart w = some i
      | _ => ∀ ws, decode (encode i ++ ws) = .ok (i, ws))

end
end

