-- ==== Sys2Proof/Laws/Sparse.lean ====
section
/-! SUPPORT. Laws of the sparse store and of memory: what a read after a write gives, and that every write keeps the
canonical form. -/

namespace Sys2Proof.Machine

variable {α : Type} [DecidableEq α] {d : α}

omit [DecidableEq α] in
/-- A store whose first key lies above `a` holds the default at `a`. -/
theorem Sparse.get_of_head {m : Sparse α} {a : Nat} (h : ∀ p ∈ m.head?, a < p.1) : Sparse.get d m a = d := by
  cases m with
  | nil => rfl
  | cons p m =>
    have : a < p.1 := h p rfl
    simp only [Sparse.get]
    rw [if_neg (by omega), if_pos this]

omit [DecidableEq α] in
theorem Sparse.head_dropWhile (m : Sparse α) (a : Nat) : ∀ p ∈ (m.dropWhile (fun e => decide (e.1 ≤ a))).head?, a < p.1 := by
  induction m with
  | nil => simp
  | cons q m ih =>
    by_cases h : q.1 ≤ a
    · simpa [List.dropWhile, h] using ih
    · simp [List.dropWhile, h]; omega
omit [DecidableEq α] in
theorem Sparse.get_dropWhile (m : Sparse α) {a b : Nat} (lt : a < b) :
    Sparse.get d (m.dropWhile (fun e => decide (e.1 ≤ a))) b = Sparse.get d m b := by
  induction m with
  | nil => rfl
  | cons q m ih =>
    by_cases h : q.1 ≤ a
    · simp only [List.dropWhile, h, decide_true, ih, Sparse.get]
      rw [if_neg (by omega), if_neg (by omega)]
    · simp [List.dropWhile, h]

theorem Sparse.wfFrom_head {m : Sparse α} {lo : Nat} (h : Sparse.wfFrom d lo m = true) : ∀ p ∈ m.head?, lo ≤ p.1 := by
  cases m with
  | nil => simp
  | cons p m => simp [Sparse.wfFrom] at h; simp; exact h.1.1

theorem Sparse.wfFrom_mono {m : Sparse α} {lo hi : Nat} (h : Sparse.wfFrom d hi m = true) (le : lo ≤ hi) :
    Sparse.wfFrom d lo m = true := by
  cases m with
  | nil => rfl
  | cons p m => simp [Sparse.wfFrom] at h ⊢; exact ⟨⟨by omega, h.1.2⟩, h.2⟩

/-- The value set is the value read. -/
@[simp] theorem Sparse.get_set_same (m : Sparse α) (a : Nat) (x : α) : Sparse.get d (Sparse.set d m a x) a = x := by
  induction m with
  | nil => by_cases hx : x = d <;> simp [Sparse.set, Sparse.get, hx]
  | cons p m ih =>
    obtain ⟨k, v⟩ := p
    simp only [Sparse.set]
    split
    · split
      · rename_i h1 h2
        rw [Sparse.get, if_neg (by omega), if_pos h1, h2]
      · simp [Sparse.get]
    · split
      · split
        · rename_i h3
          rw [h3]
          exact Sparse.get_of_head (Sparse.head_dropWhile m a)
        · simp [Sparse.get]
      · rw [Sparse.get, if_neg (by omega), if_neg (by omega)]
        exact ih

/-- A write leaves every other key as it was. -/
theorem Sparse.get_set_other (m : Sparse α) {a b : Nat} (x : α) (ne : b ≠ a) :
    Sparse.get d (Sparse.set d m a x) b = Sparse.get d m b := by
  induction m with
  | nil =>
    by_cases hx : x = d
    · simp [Sparse.set, hx]
    · simp only [Sparse.set, if_neg hx, Sparse.get]
      rw [if_neg (Ne.symm ne)]; split <;> rfl
  | cons p m ih =>
    obtain ⟨k, v⟩ := p
    simp only [Sparse.set]
    split
    · split
      · rfl
      · rw [Sparse.get, if_neg (Ne.symm ne)]
        split
        · rw [Sparse.get, if_neg (by omega), if_pos (by omega)]
        · rfl
    · split
      · rename_i h1 h2
        subst h2
        split
        · rw [Sparse.get, if_neg (Ne.symm ne)]
          split
          · exact Sparse.get_of_head (fun p hp => by have := Sparse.head_dropWhile m a p hp; omega)
          · exact Sparse.get_dropWhile m (by omega)
        · simp [Sparse.get, Ne.symm ne]
      · simp only [Sparse.get]
        split
        · rfl
        · split
          · rfl
          · exact ih
theorem Sparse.get_set (m : Sparse α) (a b : Nat) (x : α) :
    Sparse.get d (Sparse.set d m a x) b = if b = a then x else Sparse.get d m b := by
  split
  · rename_i h; rw [h, Sparse.get_set_same]
  · rename_i h; exact Sparse.get_set_other m x h

theorem Sparse.wfFrom_set {m : Sparse α} {lo a : Nat} (h : Sparse.wfFrom d lo m = true) (le : lo ≤ a) (x : α) :
    Sparse.wfFrom d lo (Sparse.set d m a x) = true := by
  induction m generalizing lo with
  | nil => by_cases hx : x = d <;> simp [Sparse.set, Sparse.wfFrom, hx, le]
  | cons p m ih =>
    obtain ⟨k, v⟩ := p
    have h0 := h
    simp only [Sparse.wfFrom, Bool.and_eq_true, decide_eq_true_eq] at h
    simp only [Sparse.set]
    split
    · split
      · exact h0
      · rename_i h1 h2
        simp only [Sparse.wfFrom, Bool.and_eq_true, decide_eq_true_eq]
        exact ⟨⟨le, h2⟩, ⟨by omega, h.1.2⟩, h.2⟩
    · split
      · rename_i h1 h2
        split
        · have hd : m.dropWhile (fun e => decide (e.1 ≤ a)) = m := by
            cases m with
            | nil => rfl
            | cons q m =>
              have := Sparse.wfFrom_head h.2 q rfl
              exact List.dropWhile_cons_of_neg (by simp; omega)
          rw [hd]
          exact Sparse.wfFrom_mono h.2 (by omega)
        · rename_i h3
          simp only [Sparse.wfFrom, Bool.and_eq_true, decide_eq_true_eq]
          exact ⟨⟨le, h3⟩, by rw [h2]; exact h.2⟩
      · simp only [Sparse.wfFrom, Bool.and_eq_true, decide_eq_true_eq]
        exact ⟨h.1, ih h.2 (by omega)⟩

/-- A write keeps the canonical form. -/
theorem Sparse.wf_set {m : Sparse α} (h : Sparse.wf d m = true) (a : Nat) (x : α) : Sparse.wf d (Sparse.set d m a x) = true :=
  Sparse.wfFrom_set h (Nat.zero_le a) x

/-! ### Memory -/

theorem Memory.wf_write {m : Memory} (h : Memory.wf m = true) (a : Nat) (b : Byte) : Memory.wf (Memory.write m a b) = true :=
  Sparse.wf_set h a b
@[simp] theorem Memory.read_write_same (m : Memory) (a : Nat) (b : Byte) : Memory.read (Memory.write m a b) a = b :=
  Sparse.get_set_same m a b
theorem Memory.read_write_other (m : Memory) {a c : Nat} (b : Byte) (ne : c ≠ a) :
    Memory.read (Memory.write m a b) c = Memory.read m c := Sparse.get_set_other m b ne

theorem Memory.wf_writeBytes {m : Memory} (h : Memory.wf m = true) (a : Nat) (bs : List Byte) :
    Memory.wf (Memory.writeBytes m a bs) = true := by
  induction bs generalizing m a with
  | nil => exact h
  | cons b bs ih => exact ih (Memory.wf_write h a b) (a + 1)
theorem Memory.wf_writeN {m : Memory} (h : Memory.wf m = true) (a n x : Nat) : Memory.wf (Memory.writeN m a n x) = true :=
  Memory.wf_writeBytes h a _

/-- A write of some bytes leaves every byte outside them as it was. -/
theorem Memory.read_writeBytes_other (m : Memory) {a c : Nat} {bs : List Byte}
    (out : c < a ∨ a + bs.length ≤ c) : Memory.read (Memory.writeBytes m a bs) c = Memory.read m c := by
  induction bs generalizing m a with
  | nil => rfl
  | cons b bs ih =>
    simp only [List.length_cons] at out
    rw [Memory.writeBytes, ih (m.write a b) (by omega), Memory.read_write_other m b (by omega)]

/-- The bytes written are the bytes read. -/
theorem Memory.readBytes_writeBytes (m : Memory) (a : Nat) (bs : List Byte) :
    Memory.readBytes (Memory.writeBytes m a bs) a bs.length = bs := by
  induction bs generalizing m a with
  | nil => rfl
  | cons b bs ih =>
    simp only [Memory.writeBytes, List.length_cons, Memory.readBytes, ih]
    rw [Memory.read_writeBytes_other _ (.inl (Nat.lt_succ_self a)), Memory.read_write_same]

theorem leBytes_length (n x : Nat) : (leBytes n x).length = n := by
  induction n generalizing x with
  | zero => rfl
  | succ n ih => simp [leBytes, ih]
theorem ofLe_leBytes (n x : Nat) : ofLe (leBytes n x) = x % 256 ^ n := by
  induction n generalizing x with
  | zero => simp [leBytes, ofLe, Nat.mod_one]
  | succ n ih =>
    rw [leBytes, ofLe, ih, BitVec.toNat_ofNat, Nat.shiftRight_eq_div_pow]
    show x % 256 + 256 * (x / 256 % 256 ^ n) = x % 256 ^ (n + 1)
    rw [Nat.pow_succ, Nat.mul_comm (256 ^ n) 256, Nat.mod_mul]

/-- A value written is the value read, reduced to its bytes. -/
theorem Memory.readN_writeN (m : Memory) (a n x : Nat) :
    Memory.readN (Memory.writeN m a n x) a n = x % 256 ^ n := by
  have e := Memory.readBytes_writeBytes m a (leBytes n x)
  rw [leBytes_length] at e
  rw [Memory.readN, Memory.writeN, e, ofLe_leBytes]
theorem Memory.read_writeN_other (m : Memory) {a c n x : Nat} (out : c < a ∨ a + n ≤ c) :
    Memory.read (Memory.writeN m a n x) c = Memory.read m c :=
  Memory.read_writeBytes_other m (by rw [leBytes_length]; exact out)

/-! ### Lists -/

omit [DecidableEq α] in
/-- Finding what was changed. -/
theorem find?_updFirst {β : Type} {p : β → Bool} {f : β → β} (l : List β) (keep : ∀ x, p x = true → p (f x) = true) :
    (updFirst p f l).find? p = (l.find? p).map f := by
  induction l with
  | nil => rfl
  | cons x xs ih =>
    by_cases h : p x = true
    · simp [updFirst, List.find?, h, keep x h]
    · simp [updFirst, List.find?, h, ih]
/-- A change of what another search finds not changes nothing of it. -/
theorem find?_updFirst_other {β : Type} {p q : β → Bool} {f : β → β} (l : List β) (no : ∀ x, p x = true → q x = false)
    (keep : ∀ x, p x = true → q (f x) = false) : (updFirst p f l).find? q = l.find? q := by
  induction l with
  | nil => rfl
  | cons x xs ih =>
    by_cases h : p x = true
    · simp [updFirst, List.find?, h, keep x h, no x h]
    · simp [updFirst, List.find?, h, ih]
theorem getElem?_updAt {β : Type} (f : β → β) (n i : Nat) (l : List β) :
    (updAt f n l)[i]? = if i = n then l[i]?.map f else l[i]? := by
  induction l generalizing n i with
  | nil => simp [updAt]
  | cons x xs ih =>
    cases n with
    | zero => cases i with
      | zero => simp [updAt]
      | succ i => simp [updAt]
    | succ n => cases i with
      | zero => simp [updAt]
      | succ i => simp [updAt, ih]
theorem length_updAt {β : Type} (f : β → β) (n : Nat) (l : List β) : (updAt f n l).length = l.length := by
  induction l generalizing n with
  | nil => simp [updAt]
  | cons x xs ih => cases n <;> simp [updAt, ih]
theorem forN_zero {β : Type} (f : Nat → β → β) (a : β) : forN 0 f a = a := rfl
theorem forN_succ {β : Type} (n : Nat) (f : Nat → β → β) (a : β) : forN (n + 1) f a = f n (forN n f a) := by
  simp [forN, List.range_succ]

/-- A mask of one lane. -/
theorem maskList_maskOf_bound (n : Nat) (m : LaneMask) (l : Nat) : l ∈ maskList n m ↔ l < n ∧ m.getLsbD l = true := by
  simp [maskList]
theorem maskOf_append (a b : List Nat) : maskOf (a ++ b) = b.foldl (fun m i => m ||| ((1#64) <<< i)) (maskOf a) := by
  simp [maskOf]
theorem getLsbD_maskFold (l : List Nat) (m : LaneMask) (i : Nat) :
    (l.foldl (fun m i => m ||| ((1#64) <<< i)) m).getLsbD i = (m.getLsbD i || (decide (i < 64) && l.contains i)) := by
  induction l generalizing m with
  | nil => simp
  | cons x xs ih =>
    rw [List.foldl_cons, ih]
    have h1 : ((1#64) <<< x).getLsbD i = (decide (i < 64) && decide (i = x)) := by
      rw [BitVec.getLsbD_shiftLeft]
      by_cases hi : i < 64 <;> by_cases hx : i = x
      · subst hx; simp [hi]
      · by_cases hlt : i < x
        · simp [hi, hx, hlt]
        · have : i - x ≠ 0 := by omega
          simp [hi, hx, hlt, BitVec.getLsbD_one]; omega
      · simp [hi]
      · simp [hi]
    rw [BitVec.getLsbD_or, h1]
    by_cases hi : i < 64
    · by_cases hx : i = x
      · subst hx; simp [hi]
      · simp [hi, hx]
    · simp [hi]
/-- The lanes of a mask made of a list. -/
theorem getLsbD_maskOf (l : List Nat) (i : Nat) : (maskOf l).getLsbD i = (decide (i < 64) && l.contains i) := by
  rw [maskOf, getLsbD_maskFold]; simp

end Sys2Proof.Machine
end

