-- ==== Sys2Proof/Laws/State.lean ====
section
/-! SUPPORT. What each named update of the state leaves as it was: one lemma for each field it does not change, so that no
proof unfolds a record update; and what the searches find after an update. -/

namespace Sys2Proof.Machine

/-! ### State.updGrid -/

@[simp] theorem State.updGrid_agenda (s : State) (tag : Nat) (f : Grid → Grid) : (s.updGrid tag f).agenda = s.agenda := rfl
@[simp] theorem State.updGrid_choice (s : State) (tag : Nat) (f : Grid → Grid) : (s.updGrid tag f).choice = s.choice := rfl
@[simp] theorem State.updGrid_idleMoves (s : State) (tag : Nat) (f : Grid → Grid) : (s.updGrid tag f).idleMoves = s.idleMoves := rfl
@[simp] theorem State.updGrid_nextId (s : State) (tag : Nat) (f : Grid → Grid) : (s.updGrid tag f).nextId = s.nextId := rfl
@[simp] theorem State.updGrid_time (s : State) (tag : Nat) (f : Grid → Grid) : (s.updGrid tag f).time = s.time := rfl
@[simp] theorem State.updGrid_cur (s : State) (tag : Nat) (f : Grid → Grid) : (s.updGrid tag f).cur = s.cur := rfl
@[simp] theorem State.updGrid_hartNum (s : State) (tag : Nat) (f : Grid → Grid) : (s.updGrid tag f).hartNum = s.hartNum := rfl
@[simp] theorem State.updGrid_dram (s : State) (tag : Nat) (f : Grid → Grid) : (s.updGrid tag f).dram = s.dram := rfl
@[simp] theorem State.updGrid_scratch (s : State) (tag : Nat) (f : Grid → Grid) : (s.updGrid tag f).scratch = s.scratch := rfl
@[simp] theorem State.updGrid_poison (s : State) (tag : Nat) (f : Grid → Grid) : (s.updGrid tag f).poison = s.poison := rfl
@[simp] theorem State.updGrid_l1 (s : State) (tag : Nat) (f : Grid → Grid) : (s.updGrid tag f).l1 = s.l1 := rfl
@[simp] theorem State.updGrid_icache (s : State) (tag : Nat) (f : Grid → Grid) : (s.updGrid tag f).icache = s.icache := rfl
@[simp] theorem State.updGrid_tlb (s : State) (tag : Nat) (f : Grid → Grid) : (s.updGrid tag f).tlb = s.tlb := rfl
@[simp] theorem State.updGrid_walkers (s : State) (tag : Nat) (f : Grid → Grid) : (s.updGrid tag f).walkers = s.walkers := rfl
@[simp] theorem State.updGrid_l2 (s : State) (tag : Nat) (f : Grid → Grid) : (s.updGrid tag f).l2 = s.l2 := rfl
@[simp] theorem State.updGrid_ways (s : State) (tag : Nat) (f : Grid → Grid) : (s.updGrid tag f).ways = s.ways := rfl
@[simp] theorem State.updGrid_owned (s : State) (tag : Nat) (f : Grid → Grid) : (s.updGrid tag f).owned = s.owned := rfl
@[simp] theorem State.updGrid_teams (s : State) (tag : Nat) (f : Grid → Grid) : (s.updGrid tag f).teams = s.teams := rfl
@[simp] theorem State.updGrid_groups (s : State) (tag : Nat) (f : Grid → Grid) : (s.updGrid tag f).groups = s.groups := rfl
@[simp] theorem State.updGrid_accs (s : State) (tag : Nat) (f : Grid → Grid) : (s.updGrid tag f).accs = s.accs := rfl
@[simp] theorem State.updGrid_results (s : State) (tag : Nat) (f : Grid → Grid) : (s.updGrid tag f).results = s.results := rfl
@[simp] theorem State.updGrid_sigs (s : State) (tag : Nat) (f : Grid → Grid) : (s.updGrid tag f).sigs = s.sigs := rfl
@[simp] theorem State.updGrid_fetches (s : State) (tag : Nat) (f : Grid → Grid) : (s.updGrid tag f).fetches = s.fetches := rfl
@[simp] theorem State.updGrid_reds (s : State) (tag : Nat) (f : Grid → Grid) : (s.updGrid tag f).reds = s.reds := rfl
@[simp] theorem State.updGrid_tfaults (s : State) (tag : Nat) (f : Grid → Grid) : (s.updGrid tag f).tfaults = s.tfaults := rfl
@[simp] theorem State.updGrid_declined (s : State) (tag : Nat) (f : Grid → Grid) : (s.updGrid tag f).declined = s.declined := rfl
@[simp] theorem State.updGrid_objects (s : State) (tag : Nat) (f : Grid → Grid) : (s.updGrid tag f).objects = s.objects := rfl
@[simp] theorem State.updGrid_runcode (s : State) (tag : Nat) (f : Grid → Grid) : (s.updGrid tag f).runcode = s.runcode := rfl
@[simp] theorem State.updGrid_procs (s : State) (tag : Nat) (f : Grid → Grid) : (s.updGrid tag f).procs = s.procs := rfl
@[simp] theorem State.updGrid_queues (s : State) (tag : Nat) (f : Grid → Grid) : (s.updGrid tag f).queues = s.queues := rfl
@[simp] theorem State.updGrid_parts (s : State) (tag : Nat) (f : Grid → Grid) : (s.updGrid tag f).parts = s.parts := rfl
@[simp] theorem State.updGrid_harts (s : State) (tag : Nat) (f : Grid → Grid) : (s.updGrid tag f).harts = s.harts := rfl
@[simp] theorem State.updGrid_nextTag (s : State) (tag : Nat) (f : Grid → Grid) : (s.updGrid tag f).nextTag = s.nextTag := rfl
@[simp] theorem State.updGrid_imageTags (s : State) (tag : Nat) (f : Grid → Grid) : (s.updGrid tag f).imageTags = s.imageTags := rfl
@[simp] theorem State.updGrid_images (s : State) (tag : Nat) (f : Grid → Grid) : (s.updGrid tag f).images = s.images := rfl
@[simp] theorem State.updGrid_areas (s : State) (tag : Nat) (f : Grid → Grid) : (s.updGrid tag f).areas = s.areas := rfl
@[simp] theorem State.updGrid_kept (s : State) (tag : Nat) (f : Grid → Grid) : (s.updGrid tag f).kept = s.kept := rfl
@[simp] theorem State.updGrid_freePa (s : State) (tag : Nat) (f : Grid → Grid) : (s.updGrid tag f).freePa = s.freePa := rfl
@[simp] theorem State.updGrid_links (s : State) (tag : Nat) (f : Grid → Grid) : (s.updGrid tag f).links = s.links := rfl
@[simp] theorem State.updGrid_reach (s : State) (tag : Nat) (f : Grid → Grid) : (s.updGrid tag f).reach = s.reach := rfl
@[simp] theorem State.updGrid_txns (s : State) (tag : Nat) (f : Grid → Grid) : (s.updGrid tag f).txns = s.txns := rfl
@[simp] theorem State.updGrid_outbox (s : State) (tag : Nat) (f : Grid → Grid) : (s.updGrid tag f).outbox = s.outbox := rfl
@[simp] theorem State.updGrid_adapter (s : State) (tag : Nat) (f : Grid → Grid) : (s.updGrid tag f).adapter = s.adapter := rfl
@[simp] theorem State.updGrid_fw (s : State) (tag : Nat) (f : Grid → Grid) : (s.updGrid tag f).fw = s.fw := rfl
@[simp] theorem State.updGrid_devLines (s : State) (tag : Nat) (f : Grid → Grid) : (s.updGrid tag f).devLines = s.devLines := rfl
@[simp] theorem State.updGrid_ringWait (s : State) (tag : Nat) (f : Grid → Grid) : (s.updGrid tag f).ringWait = s.ringWait := rfl
@[simp] theorem State.updGrid_mgmt (s : State) (tag : Nat) (f : Grid → Grid) : (s.updGrid tag f).mgmt = s.mgmt := rfl
@[simp] theorem State.updGrid_scan (s : State) (tag : Nat) (f : Grid → Grid) : (s.updGrid tag f).scan = s.scan := rfl
@[simp] theorem State.updGrid_jobs (s : State) (tag : Nat) (f : Grid → Grid) : (s.updGrid tag f).jobs = s.jobs := rfl
@[simp] theorem State.updGrid_waitg (s : State) (tag : Nat) (f : Grid → Grid) : (s.updGrid tag f).waitg = s.waitg := rfl
@[simp] theorem State.updGrid_slots (s : State) (tag : Nat) (f : Grid → Grid) : (s.updGrid tag f).slots = s.slots := rfl
@[simp] theorem State.updGrid_log (s : State) (tag : Nat) (f : Grid → Grid) : (s.updGrid tag f).log = s.log := rfl
@[simp] theorem State.updGrid_loadErrs (s : State) (tag : Nat) (f : Grid → Grid) : (s.updGrid tag f).loadErrs = s.loadErrs := rfl

/-! ### State.updTeam -/

@[simp] theorem State.updTeam_agenda (s : State) (tag idx : Nat) (f : Team → Team) : (s.updTeam tag idx f).agenda = s.agenda := rfl
@[simp] theorem State.updTeam_choice (s : State) (tag idx : Nat) (f : Team → Team) : (s.updTeam tag idx f).choice = s.choice := rfl
@[simp] theorem State.updTeam_idleMoves (s : State) (tag idx : Nat) (f : Team → Team) : (s.updTeam tag idx f).idleMoves = s.idleMoves := rfl
@[simp] theorem State.updTeam_nextId (s : State) (tag idx : Nat) (f : Team → Team) : (s.updTeam tag idx f).nextId = s.nextId := rfl
@[simp] theorem State.updTeam_time (s : State) (tag idx : Nat) (f : Team → Team) : (s.updTeam tag idx f).time = s.time := rfl
@[simp] theorem State.updTeam_cur (s : State) (tag idx : Nat) (f : Team → Team) : (s.updTeam tag idx f).cur = s.cur := rfl
@[simp] theorem State.updTeam_hartNum (s : State) (tag idx : Nat) (f : Team → Team) : (s.updTeam tag idx f).hartNum = s.hartNum := rfl
@[simp] theorem State.updTeam_dram (s : State) (tag idx : Nat) (f : Team → Team) : (s.updTeam tag idx f).dram = s.dram := rfl
@[simp] theorem State.updTeam_scratch (s : State) (tag idx : Nat) (f : Team → Team) : (s.updTeam tag idx f).scratch = s.scratch := rfl
@[simp] theorem State.updTeam_poison (s : State) (tag idx : Nat) (f : Team → Team) : (s.updTeam tag idx f).poison = s.poison := rfl
@[simp] theorem State.updTeam_l1 (s : State) (tag idx : Nat) (f : Team → Team) : (s.updTeam tag idx f).l1 = s.l1 := rfl
@[simp] theorem State.updTeam_icache (s : State) (tag idx : Nat) (f : Team → Team) : (s.updTeam tag idx f).icache = s.icache := rfl
@[simp] theorem State.updTeam_tlb (s : State) (tag idx : Nat) (f : Team → Team) : (s.updTeam tag idx f).tlb = s.tlb := rfl
@[simp] theorem State.updTeam_walkers (s : State) (tag idx : Nat) (f : Team → Team) : (s.updTeam tag idx f).walkers = s.walkers := rfl
@[simp] theorem State.updTeam_l2 (s : State) (tag idx : Nat) (f : Team → Team) : (s.updTeam tag idx f).l2 = s.l2 := rfl
@[simp] theorem State.updTeam_ways (s : State) (tag idx : Nat) (f : Team → Team) : (s.updTeam tag idx f).ways = s.ways := rfl
@[simp] theorem State.updTeam_owned (s : State) (tag idx : Nat) (f : Team → Team) : (s.updTeam tag idx f).owned = s.owned := rfl
@[simp] theorem State.updTeam_grids (s : State) (tag idx : Nat) (f : Team → Team) : (s.updTeam tag idx f).grids = s.grids := rfl
@[simp] theorem State.updTeam_groups (s : State) (tag idx : Nat) (f : Team → Team) : (s.updTeam tag idx f).groups = s.groups := rfl
@[simp] theorem State.updTeam_accs (s : State) (tag idx : Nat) (f : Team → Team) : (s.updTeam tag idx f).accs = s.accs := rfl
@[simp] theorem State.updTeam_results (s : State) (tag idx : Nat) (f : Team → Team) : (s.updTeam tag idx f).results = s.results := rfl
@[simp] theorem State.updTeam_sigs (s : State) (tag idx : Nat) (f : Team → Team) : (s.updTeam tag idx f).sigs = s.sigs := rfl
@[simp] theorem State.updTeam_fetches (s : State) (tag idx : Nat) (f : Team → Team) : (s.updTeam tag idx f).fetches = s.fetches := rfl
@[simp] theorem State.updTeam_reds (s : State) (tag idx : Nat) (f : Team → Team) : (s.updTeam tag idx f).reds = s.reds := rfl
@[simp] theorem State.updTeam_tfaults (s : State) (tag idx : Nat) (f : Team → Team) : (s.updTeam tag idx f).tfaults = s.tfaults := rfl
@[simp] theorem State.updTeam_declined (s : State) (tag idx : Nat) (f : Team → Team) : (s.updTeam tag idx f).declined = s.declined := rfl
@[simp] theorem State.updTeam_objects (s : State) (tag idx : Nat) (f : Team → Team) : (s.updTeam tag idx f).objects = s.objects := rfl
@[simp] theorem State.updTeam_runcode (s : State) (tag idx : Nat) (f : Team → Team) : (s.updTeam tag idx f).runcode = s.runcode := rfl
@[simp] theorem State.updTeam_procs (s : State) (tag idx : Nat) (f : Team → Team) : (s.updTeam tag idx f).procs = s.procs := rfl
@[simp] theorem State.updTeam_queues (s : State) (tag idx : Nat) (f : Team → Team) : (s.updTeam tag idx f).queues = s.queues := rfl
@[simp] theorem State.updTeam_parts (s : State) (tag idx : Nat) (f : Team → Team) : (s.updTeam tag idx f).parts = s.parts := rfl
@[simp] theorem State.updTeam_harts (s : State) (tag idx : Nat) (f : Team → Team) : (s.updTeam tag idx f).harts = s.harts := rfl
@[simp] theorem State.updTeam_nextTag (s : State) (tag idx : Nat) (f : Team → Team) : (s.updTeam tag idx f).nextTag = s.nextTag := rfl
@[simp] theorem State.updTeam_imageTags (s : State) (tag idx : Nat) (f : Team → Team) : (s.updTeam tag idx f).imageTags = s.imageTags := rfl
@[simp] theorem State.updTeam_images (s : State) (tag idx : Nat) (f : Team → Team) : (s.updTeam tag idx f).images = s.images := rfl
@[simp] theorem State.updTeam_areas (s : State) (tag idx : Nat) (f : Team → Team) : (s.updTeam tag idx f).areas = s.areas := rfl
@[simp] theorem State.updTeam_kept (s : State) (tag idx : Nat) (f : Team → Team) : (s.updTeam tag idx f).kept = s.kept := rfl
@[simp] theorem State.updTeam_freePa (s : State) (tag idx : Nat) (f : Team → Team) : (s.updTeam tag idx f).freePa = s.freePa := rfl
@[simp] theorem State.updTeam_links (s : State) (tag idx : Nat) (f : Team → Team) : (s.updTeam tag idx f).links = s.links := rfl
@[simp] theorem State.updTeam_reach (s : State) (tag idx : Nat) (f : Team → Team) : (s.updTeam tag idx f).reach = s.reach := rfl
@[simp] theorem State.updTeam_txns (s : State) (tag idx : Nat) (f : Team → Team) : (s.updTeam tag idx f).txns = s.txns := rfl
@[simp] theorem State.updTeam_outbox (s : State) (tag idx : Nat) (f : Team → Team) : (s.updTeam tag idx f).outbox = s.outbox := rfl
@[simp] theorem State.updTeam_adapter (s : State) (tag idx : Nat) (f : Team → Team) : (s.updTeam tag idx f).adapter = s.adapter := rfl
@[simp] theorem State.updTeam_fw (s : State) (tag idx : Nat) (f : Team → Team) : (s.updTeam tag idx f).fw = s.fw := rfl
@[simp] theorem State.updTeam_devLines (s : State) (tag idx : Nat) (f : Team → Team) : (s.updTeam tag idx f).devLines = s.devLines := rfl
@[simp] theorem State.updTeam_ringWait (s : State) (tag idx : Nat) (f : Team → Team) : (s.updTeam tag idx f).ringWait = s.ringWait := rfl
@[simp] theorem State.updTeam_mgmt (s : State) (tag idx : Nat) (f : Team → Team) : (s.updTeam tag idx f).mgmt = s.mgmt := rfl
@[simp] theorem State.updTeam_scan (s : State) (tag idx : Nat) (f : Team → Team) : (s.updTeam tag idx f).scan = s.scan := rfl
@[simp] theorem State.updTeam_jobs (s : State) (tag idx : Nat) (f : Team → Team) : (s.updTeam tag idx f).jobs = s.jobs := rfl
@[simp] theorem State.updTeam_waitg (s : State) (tag idx : Nat) (f : Team → Team) : (s.updTeam tag idx f).waitg = s.waitg := rfl
@[simp] theorem State.updTeam_slots (s : State) (tag idx : Nat) (f : Team → Team) : (s.updTeam tag idx f).slots = s.slots := rfl
@[simp] theorem State.updTeam_log (s : State) (tag idx : Nat) (f : Team → Team) : (s.updTeam tag idx f).log = s.log := rfl
@[simp] theorem State.updTeam_loadErrs (s : State) (tag idx : Nat) (f : Team → Team) : (s.updTeam tag idx f).loadErrs = s.loadErrs := rfl

/-! ### State.updGroup -/

@[simp] theorem State.updGroup_agenda (s : State) (tag team num : Nat) (f : Group → Group) : (s.updGroup tag team num f).agenda = s.agenda := rfl
@[simp] theorem State.updGroup_choice (s : State) (tag team num : Nat) (f : Group → Group) : (s.updGroup tag team num f).choice = s.choice := rfl
@[simp] theorem State.updGroup_idleMoves (s : State) (tag team num : Nat) (f : Group → Group) : (s.updGroup tag team num f).idleMoves = s.idleMoves := rfl
@[simp] theorem State.updGroup_nextId (s : State) (tag team num : Nat) (f : Group → Group) : (s.updGroup tag team num f).nextId = s.nextId := rfl
@[simp] theorem State.updGroup_time (s : State) (tag team num : Nat) (f : Group → Group) : (s.updGroup tag team num f).time = s.time := rfl
@[simp] theorem State.updGroup_cur (s : State) (tag team num : Nat) (f : Group → Group) : (s.updGroup tag team num f).cur = s.cur := rfl
@[simp] theorem State.updGroup_hartNum (s : State) (tag team num : Nat) (f : Group → Group) : (s.updGroup tag team num f).hartNum = s.hartNum := rfl
@[simp] theorem State.updGroup_dram (s : State) (tag team num : Nat) (f : Group → Group) : (s.updGroup tag team num f).dram = s.dram := rfl
@[simp] theorem State.updGroup_scratch (s : State) (tag team num : Nat) (f : Group → Group) : (s.updGroup tag team num f).scratch = s.scratch := rfl
@[simp] theorem State.updGroup_poison (s : State) (tag team num : Nat) (f : Group → Group) : (s.updGroup tag team num f).poison = s.poison := rfl
@[simp] theorem State.updGroup_l1 (s : State) (tag team num : Nat) (f : Group → Group) : (s.updGroup tag team num f).l1 = s.l1 := rfl
@[simp] theorem State.updGroup_icache (s : State) (tag team num : Nat) (f : Group → Group) : (s.updGroup tag team num f).icache = s.icache := rfl
@[simp] theorem State.updGroup_tlb (s : State) (tag team num : Nat) (f : Group → Group) : (s.updGroup tag team num f).tlb = s.tlb := rfl
@[simp] theorem State.updGroup_walkers (s : State) (tag team num : Nat) (f : Group → Group) : (s.updGroup tag team num f).walkers = s.walkers := rfl
@[simp] theorem State.updGroup_l2 (s : State) (tag team num : Nat) (f : Group → Group) : (s.updGroup tag team num f).l2 = s.l2 := rfl
@[simp] theorem State.updGroup_ways (s : State) (tag team num : Nat) (f : Group → Group) : (s.updGroup tag team num f).ways = s.ways := rfl
@[simp] theorem State.updGroup_owned (s : State) (tag team num : Nat) (f : Group → Group) : (s.updGroup tag team num f).owned = s.owned := rfl
@[simp] theorem State.updGroup_grids (s : State) (tag team num : Nat) (f : Group → Group) : (s.updGroup tag team num f).grids = s.grids := rfl
@[simp] theorem State.updGroup_teams (s : State) (tag team num : Nat) (f : Group → Group) : (s.updGroup tag team num f).teams = s.teams := rfl
@[simp] theorem State.updGroup_accs (s : State) (tag team num : Nat) (f : Group → Group) : (s.updGroup tag team num f).accs = s.accs := rfl
@[simp] theorem State.updGroup_results (s : State) (tag team num : Nat) (f : Group → Group) : (s.updGroup tag team num f).results = s.results := rfl
@[simp] theorem State.updGroup_sigs (s : State) (tag team num : Nat) (f : Group → Group) : (s.updGroup tag team num f).sigs = s.sigs := rfl
@[simp] theorem State.updGroup_fetches (s : State) (tag team num : Nat) (f : Group → Group) : (s.updGroup tag team num f).fetches = s.fetches := rfl
@[simp] theorem State.updGroup_reds (s : State) (tag team num : Nat) (f : Group → Group) : (s.updGroup tag team num f).reds = s.reds := rfl
@[simp] theorem State.updGroup_tfaults (s : State) (tag team num : Nat) (f : Group → Group) : (s.updGroup tag team num f).tfaults = s.tfaults := rfl
@[simp] theorem State.updGroup_declined (s : State) (tag team num : Nat) (f : Group → Group) : (s.updGroup tag team num f).declined = s.declined := rfl
@[simp] theorem State.updGroup_objects (s : State) (tag team num : Nat) (f : Group → Group) : (s.updGroup tag team num f).objects = s.objects := rfl
@[simp] theorem State.updGroup_runcode (s : State) (tag team num : Nat) (f : Group → Group) : (s.updGroup tag team num f).runcode = s.runcode := rfl
@[simp] theorem State.updGroup_procs (s : State) (tag team num : Nat) (f : Group → Group) : (s.updGroup tag team num f).procs = s.procs := rfl
@[simp] theorem State.updGroup_queues (s : State) (tag team num : Nat) (f : Group → Group) : (s.updGroup tag team num f).queues = s.queues := rfl
@[simp] theorem State.updGroup_parts (s : State) (tag team num : Nat) (f : Group → Group) : (s.updGroup tag team num f).parts = s.parts := rfl
@[simp] theorem State.updGroup_harts (s : State) (tag team num : Nat) (f : Group → Group) : (s.updGroup tag team num f).harts = s.harts := rfl
@[simp] theorem State.updGroup_nextTag (s : State) (tag team num : Nat) (f : Group → Group) : (s.updGroup tag team num f).nextTag = s.nextTag := rfl
@[simp] theorem State.updGroup_imageTags (s : State) (tag team num : Nat) (f : Group → Group) : (s.updGroup tag team num f).imageTags = s.imageTags := rfl
@[simp] theorem State.updGroup_images (s : State) (tag team num : Nat) (f : Group → Group) : (s.updGroup tag team num f).images = s.images := rfl
@[simp] theorem State.updGroup_areas (s : State) (tag team num : Nat) (f : Group → Group) : (s.updGroup tag team num f).areas = s.areas := rfl
@[simp] theorem State.updGroup_kept (s : State) (tag team num : Nat) (f : Group → Group) : (s.updGroup tag team num f).kept = s.kept := rfl
@[simp] theorem State.updGroup_freePa (s : State) (tag team num : Nat) (f : Group → Group) : (s.updGroup tag team num f).freePa = s.freePa := rfl
@[simp] theorem State.updGroup_links (s : State) (tag team num : Nat) (f : Group → Group) : (s.updGroup tag team num f).links = s.links := rfl
@[simp] theorem State.updGroup_reach (s : State) (tag team num : Nat) (f : Group → Group) : (s.updGroup tag team num f).reach = s.reach := rfl
@[simp] theorem State.updGroup_txns (s : State) (tag team num : Nat) (f : Group → Group) : (s.updGroup tag team num f).txns = s.txns := rfl
@[simp] theorem State.updGroup_outbox (s : State) (tag team num : Nat) (f : Group → Group) : (s.updGroup tag team num f).outbox = s.outbox := rfl
@[simp] theorem State.updGroup_adapter (s : State) (tag team num : Nat) (f : Group → Group) : (s.updGroup tag team num f).adapter = s.adapter := rfl
@[simp] theorem State.updGroup_fw (s : State) (tag team num : Nat) (f : Group → Group) : (s.updGroup tag team num f).fw = s.fw := rfl
@[simp] theorem State.updGroup_devLines (s : State) (tag team num : Nat) (f : Group → Group) : (s.updGroup tag team num f).devLines = s.devLines := rfl
@[simp] theorem State.updGroup_ringWait (s : State) (tag team num : Nat) (f : Group → Group) : (s.updGroup tag team num f).ringWait = s.ringWait := rfl
@[simp] theorem State.updGroup_mgmt (s : State) (tag team num : Nat) (f : Group → Group) : (s.updGroup tag team num f).mgmt = s.mgmt := rfl
@[simp] theorem State.updGroup_scan (s : State) (tag team num : Nat) (f : Group → Group) : (s.updGroup tag team num f).scan = s.scan := rfl
@[simp] theorem State.updGroup_jobs (s : State) (tag team num : Nat) (f : Group → Group) : (s.updGroup tag team num f).jobs = s.jobs := rfl
@[simp] theorem State.updGroup_waitg (s : State) (tag team num : Nat) (f : Group → Group) : (s.updGroup tag team num f).waitg = s.waitg := rfl
@[simp] theorem State.updGroup_slots (s : State) (tag team num : Nat) (f : Group → Group) : (s.updGroup tag team num f).slots = s.slots := rfl
@[simp] theorem State.updGroup_log (s : State) (tag team num : Nat) (f : Group → Group) : (s.updGroup tag team num f).log = s.log := rfl
@[simp] theorem State.updGroup_loadErrs (s : State) (tag team num : Nat) (f : Group → Group) : (s.updGroup tag team num f).loadErrs = s.loadErrs := rfl

/-! ### State.updHart -/

@[simp] theorem State.updHart_agenda (s : State) (n : Nat) (f : Hart → Hart) : (s.updHart n f).agenda = s.agenda := rfl
@[simp] theorem State.updHart_choice (s : State) (n : Nat) (f : Hart → Hart) : (s.updHart n f).choice = s.choice := rfl
@[simp] theorem State.updHart_idleMoves (s : State) (n : Nat) (f : Hart → Hart) : (s.updHart n f).idleMoves = s.idleMoves := rfl
@[simp] theorem State.updHart_nextId (s : State) (n : Nat) (f : Hart → Hart) : (s.updHart n f).nextId = s.nextId := rfl
@[simp] theorem State.updHart_time (s : State) (n : Nat) (f : Hart → Hart) : (s.updHart n f).time = s.time := rfl
@[simp] theorem State.updHart_cur (s : State) (n : Nat) (f : Hart → Hart) : (s.updHart n f).cur = s.cur := rfl
@[simp] theorem State.updHart_hartNum (s : State) (n : Nat) (f : Hart → Hart) : (s.updHart n f).hartNum = s.hartNum := rfl
@[simp] theorem State.updHart_dram (s : State) (n : Nat) (f : Hart → Hart) : (s.updHart n f).dram = s.dram := rfl
@[simp] theorem State.updHart_scratch (s : State) (n : Nat) (f : Hart → Hart) : (s.updHart n f).scratch = s.scratch := rfl
@[simp] theorem State.updHart_poison (s : State) (n : Nat) (f : Hart → Hart) : (s.updHart n f).poison = s.poison := rfl
@[simp] theorem State.updHart_l1 (s : State) (n : Nat) (f : Hart → Hart) : (s.updHart n f).l1 = s.l1 := rfl
@[simp] theorem State.updHart_icache (s : State) (n : Nat) (f : Hart → Hart) : (s.updHart n f).icache = s.icache := rfl
@[simp] theorem State.updHart_tlb (s : State) (n : Nat) (f : Hart → Hart) : (s.updHart n f).tlb = s.tlb := rfl
@[simp] theorem State.updHart_walkers (s : State) (n : Nat) (f : Hart → Hart) : (s.updHart n f).walkers = s.walkers := rfl
@[simp] theorem State.updHart_l2 (s : State) (n : Nat) (f : Hart → Hart) : (s.updHart n f).l2 = s.l2 := rfl
@[simp] theorem State.updHart_ways (s : State) (n : Nat) (f : Hart → Hart) : (s.updHart n f).ways = s.ways := rfl
@[simp] theorem State.updHart_owned (s : State) (n : Nat) (f : Hart → Hart) : (s.updHart n f).owned = s.owned := rfl
@[simp] theorem State.updHart_grids (s : State) (n : Nat) (f : Hart → Hart) : (s.updHart n f).grids = s.grids := rfl
@[simp] theorem State.updHart_teams (s : State) (n : Nat) (f : Hart → Hart) : (s.updHart n f).teams = s.teams := rfl
@[simp] theorem State.updHart_groups (s : State) (n : Nat) (f : Hart → Hart) : (s.updHart n f).groups = s.groups := rfl
@[simp] theorem State.updHart_accs (s : State) (n : Nat) (f : Hart → Hart) : (s.updHart n f).accs = s.accs := rfl
@[simp] theorem State.updHart_results (s : State) (n : Nat) (f : Hart → Hart) : (s.updHart n f).results = s.results := rfl
@[simp] theorem State.updHart_sigs (s : State) (n : Nat) (f : Hart → Hart) : (s.updHart n f).sigs = s.sigs := rfl
@[simp] theorem State.updHart_fetches (s : State) (n : Nat) (f : Hart → Hart) : (s.updHart n f).fetches = s.fetches := rfl
@[simp] theorem State.updHart_reds (s : State) (n : Nat) (f : Hart → Hart) : (s.updHart n f).reds = s.reds := rfl
@[simp] theorem State.updHart_tfaults (s : State) (n : Nat) (f : Hart → Hart) : (s.updHart n f).tfaults = s.tfaults := rfl
@[simp] theorem State.updHart_declined (s : State) (n : Nat) (f : Hart → Hart) : (s.updHart n f).declined = s.declined := rfl
@[simp] theorem State.updHart_objects (s : State) (n : Nat) (f : Hart → Hart) : (s.updHart n f).objects = s.objects := rfl
@[simp] theorem State.updHart_runcode (s : State) (n : Nat) (f : Hart → Hart) : (s.updHart n f).runcode = s.runcode := rfl
@[simp] theorem State.updHart_procs (s : State) (n : Nat) (f : Hart → Hart) : (s.updHart n f).procs = s.procs := rfl
@[simp] theorem State.updHart_queues (s : State) (n : Nat) (f : Hart → Hart) : (s.updHart n f).queues = s.queues := rfl
@[simp] theorem State.updHart_parts (s : State) (n : Nat) (f : Hart → Hart) : (s.updHart n f).parts = s.parts := rfl
@[simp] theorem State.updHart_nextTag (s : State) (n : Nat) (f : Hart → Hart) : (s.updHart n f).nextTag = s.nextTag := rfl
@[simp] theorem State.updHart_imageTags (s : State) (n : Nat) (f : Hart → Hart) : (s.updHart n f).imageTags = s.imageTags := rfl
@[simp] theorem State.updHart_images (s : State) (n : Nat) (f : Hart → Hart) : (s.updHart n f).images = s.images := rfl
@[simp] theorem State.updHart_areas (s : State) (n : Nat) (f : Hart → Hart) : (s.updHart n f).areas = s.areas := rfl
@[simp] theorem State.updHart_kept (s : State) (n : Nat) (f : Hart → Hart) : (s.updHart n f).kept = s.kept := rfl
@[simp] theorem State.updHart_freePa (s : State) (n : Nat) (f : Hart → Hart) : (s.updHart n f).freePa = s.freePa := rfl
@[simp] theorem State.updHart_links (s : State) (n : Nat) (f : Hart → Hart) : (s.updHart n f).links = s.links := rfl
@[simp] theorem State.updHart_reach (s : State) (n : Nat) (f : Hart → Hart) : (s.updHart n f).reach = s.reach := rfl
@[simp] theorem State.updHart_txns (s : State) (n : Nat) (f : Hart → Hart) : (s.updHart n f).txns = s.txns := rfl
@[simp] theorem State.updHart_outbox (s : State) (n : Nat) (f : Hart → Hart) : (s.updHart n f).outbox = s.outbox := rfl
@[simp] theorem State.updHart_adapter (s : State) (n : Nat) (f : Hart → Hart) : (s.updHart n f).adapter = s.adapter := rfl
@[simp] theorem State.updHart_fw (s : State) (n : Nat) (f : Hart → Hart) : (s.updHart n f).fw = s.fw := rfl
@[simp] theorem State.updHart_devLines (s : State) (n : Nat) (f : Hart → Hart) : (s.updHart n f).devLines = s.devLines := rfl
@[simp] theorem State.updHart_ringWait (s : State) (n : Nat) (f : Hart → Hart) : (s.updHart n f).ringWait = s.ringWait := rfl
@[simp] theorem State.updHart_mgmt (s : State) (n : Nat) (f : Hart → Hart) : (s.updHart n f).mgmt = s.mgmt := rfl
@[simp] theorem State.updHart_scan (s : State) (n : Nat) (f : Hart → Hart) : (s.updHart n f).scan = s.scan := rfl
@[simp] theorem State.updHart_jobs (s : State) (n : Nat) (f : Hart → Hart) : (s.updHart n f).jobs = s.jobs := rfl
@[simp] theorem State.updHart_waitg (s : State) (n : Nat) (f : Hart → Hart) : (s.updHart n f).waitg = s.waitg := rfl
@[simp] theorem State.updHart_slots (s : State) (n : Nat) (f : Hart → Hart) : (s.updHart n f).slots = s.slots := rfl
@[simp] theorem State.updHart_log (s : State) (n : Nat) (f : Hart → Hart) : (s.updHart n f).log = s.log := rfl
@[simp] theorem State.updHart_loadErrs (s : State) (n : Nat) (f : Hart → Hart) : (s.updHart n f).loadErrs = s.loadErrs := rfl

/-! ### State.raise -/

@[simp] theorem State.raise_agenda (s : State) (tag : Nat) (l : List FaultRec) : (s.raise tag l).agenda = s.agenda := rfl
@[simp] theorem State.raise_choice (s : State) (tag : Nat) (l : List FaultRec) : (s.raise tag l).choice = s.choice := rfl
@[simp] theorem State.raise_idleMoves (s : State) (tag : Nat) (l : List FaultRec) : (s.raise tag l).idleMoves = s.idleMoves := rfl
@[simp] theorem State.raise_nextId (s : State) (tag : Nat) (l : List FaultRec) : (s.raise tag l).nextId = s.nextId := rfl
@[simp] theorem State.raise_time (s : State) (tag : Nat) (l : List FaultRec) : (s.raise tag l).time = s.time := rfl
@[simp] theorem State.raise_cur (s : State) (tag : Nat) (l : List FaultRec) : (s.raise tag l).cur = s.cur := rfl
@[simp] theorem State.raise_hartNum (s : State) (tag : Nat) (l : List FaultRec) : (s.raise tag l).hartNum = s.hartNum := rfl
@[simp] theorem State.raise_dram (s : State) (tag : Nat) (l : List FaultRec) : (s.raise tag l).dram = s.dram := rfl
@[simp] theorem State.raise_scratch (s : State) (tag : Nat) (l : List FaultRec) : (s.raise tag l).scratch = s.scratch := rfl
@[simp] theorem State.raise_poison (s : State) (tag : Nat) (l : List FaultRec) : (s.raise tag l).poison = s.poison := rfl
@[simp] theorem State.raise_l1 (s : State) (tag : Nat) (l : List FaultRec) : (s.raise tag l).l1 = s.l1 := rfl
@[simp] theorem State.raise_icache (s : State) (tag : Nat) (l : List FaultRec) : (s.raise tag l).icache = s.icache := rfl
@[simp] theorem State.raise_tlb (s : State) (tag : Nat) (l : List FaultRec) : (s.raise tag l).tlb = s.tlb := rfl
@[simp] theorem State.raise_walkers (s : State) (tag : Nat) (l : List FaultRec) : (s.raise tag l).walkers = s.walkers := rfl
@[simp] theorem State.raise_l2 (s : State) (tag : Nat) (l : List FaultRec) : (s.raise tag l).l2 = s.l2 := rfl
@[simp] theorem State.raise_ways (s : State) (tag : Nat) (l : List FaultRec) : (s.raise tag l).ways = s.ways := rfl
@[simp] theorem State.raise_owned (s : State) (tag : Nat) (l : List FaultRec) : (s.raise tag l).owned = s.owned := rfl
@[simp] theorem State.raise_teams (s : State) (tag : Nat) (l : List FaultRec) : (s.raise tag l).teams = s.teams := rfl
@[simp] theorem State.raise_groups (s : State) (tag : Nat) (l : List FaultRec) : (s.raise tag l).groups = s.groups := rfl
@[simp] theorem State.raise_accs (s : State) (tag : Nat) (l : List FaultRec) : (s.raise tag l).accs = s.accs := rfl
@[simp] theorem State.raise_results (s : State) (tag : Nat) (l : List FaultRec) : (s.raise tag l).results = s.results := rfl
@[simp] theorem State.raise_sigs (s : State) (tag : Nat) (l : List FaultRec) : (s.raise tag l).sigs = s.sigs := rfl
@[simp] theorem State.raise_fetches (s : State) (tag : Nat) (l : List FaultRec) : (s.raise tag l).fetches = s.fetches := rfl
@[simp] theorem State.raise_reds (s : State) (tag : Nat) (l : List FaultRec) : (s.raise tag l).reds = s.reds := rfl
@[simp] theorem State.raise_tfaults (s : State) (tag : Nat) (l : List FaultRec) : (s.raise tag l).tfaults = s.tfaults := rfl
@[simp] theorem State.raise_declined (s : State) (tag : Nat) (l : List FaultRec) : (s.raise tag l).declined = s.declined := rfl
@[simp] theorem State.raise_objects (s : State) (tag : Nat) (l : List FaultRec) : (s.raise tag l).objects = s.objects := rfl
@[simp] theorem State.raise_runcode (s : State) (tag : Nat) (l : List FaultRec) : (s.raise tag l).runcode = s.runcode := rfl
@[simp] theorem State.raise_procs (s : State) (tag : Nat) (l : List FaultRec) : (s.raise tag l).procs = s.procs := rfl
@[simp] theorem State.raise_queues (s : State) (tag : Nat) (l : List FaultRec) : (s.raise tag l).queues = s.queues := rfl
@[simp] theorem State.raise_parts (s : State) (tag : Nat) (l : List FaultRec) : (s.raise tag l).parts = s.parts := rfl
@[simp] theorem State.raise_harts (s : State) (tag : Nat) (l : List FaultRec) : (s.raise tag l).harts = s.harts := rfl
@[simp] theorem State.raise_nextTag (s : State) (tag : Nat) (l : List FaultRec) : (s.raise tag l).nextTag = s.nextTag := rfl
@[simp] theorem State.raise_imageTags (s : State) (tag : Nat) (l : List FaultRec) : (s.raise tag l).imageTags = s.imageTags := rfl
@[simp] theorem State.raise_images (s : State) (tag : Nat) (l : List FaultRec) : (s.raise tag l).images = s.images := rfl
@[simp] theorem State.raise_areas (s : State) (tag : Nat) (l : List FaultRec) : (s.raise tag l).areas = s.areas := rfl
@[simp] theorem State.raise_kept (s : State) (tag : Nat) (l : List FaultRec) : (s.raise tag l).kept = s.kept := rfl
@[simp] theorem State.raise_freePa (s : State) (tag : Nat) (l : List FaultRec) : (s.raise tag l).freePa = s.freePa := rfl
@[simp] theorem State.raise_links (s : State) (tag : Nat) (l : List FaultRec) : (s.raise tag l).links = s.links := rfl
@[simp] theorem State.raise_reach (s : State) (tag : Nat) (l : List FaultRec) : (s.raise tag l).reach = s.reach := rfl
@[simp] theorem State.raise_txns (s : State) (tag : Nat) (l : List FaultRec) : (s.raise tag l).txns = s.txns := rfl
@[simp] theorem State.raise_outbox (s : State) (tag : Nat) (l : List FaultRec) : (s.raise tag l).outbox = s.outbox := rfl
@[simp] theorem State.raise_adapter (s : State) (tag : Nat) (l : List FaultRec) : (s.raise tag l).adapter = s.adapter := rfl
@[simp] theorem State.raise_fw (s : State) (tag : Nat) (l : List FaultRec) : (s.raise tag l).fw = s.fw := rfl
@[simp] theorem State.raise_devLines (s : State) (tag : Nat) (l : List FaultRec) : (s.raise tag l).devLines = s.devLines := rfl
@[simp] theorem State.raise_ringWait (s : State) (tag : Nat) (l : List FaultRec) : (s.raise tag l).ringWait = s.ringWait := rfl
@[simp] theorem State.raise_mgmt (s : State) (tag : Nat) (l : List FaultRec) : (s.raise tag l).mgmt = s.mgmt := rfl
@[simp] theorem State.raise_scan (s : State) (tag : Nat) (l : List FaultRec) : (s.raise tag l).scan = s.scan := rfl
@[simp] theorem State.raise_jobs (s : State) (tag : Nat) (l : List FaultRec) : (s.raise tag l).jobs = s.jobs := rfl
@[simp] theorem State.raise_waitg (s : State) (tag : Nat) (l : List FaultRec) : (s.raise tag l).waitg = s.waitg := rfl
@[simp] theorem State.raise_slots (s : State) (tag : Nat) (l : List FaultRec) : (s.raise tag l).slots = s.slots := rfl
@[simp] theorem State.raise_log (s : State) (tag : Nat) (l : List FaultRec) : (s.raise tag l).log = s.log := rfl
@[simp] theorem State.raise_loadErrs (s : State) (tag : Nat) (l : List FaultRec) : (s.raise tag l).loadErrs = s.loadErrs := rfl

/-! ### State.stopGroup -/

@[simp] theorem State.stopGroup_agenda (s : State) (tag team num : Nat) : (s.stopGroup tag team num).agenda = s.agenda := rfl
@[simp] theorem State.stopGroup_choice (s : State) (tag team num : Nat) : (s.stopGroup tag team num).choice = s.choice := rfl
@[simp] theorem State.stopGroup_idleMoves (s : State) (tag team num : Nat) : (s.stopGroup tag team num).idleMoves = s.idleMoves := rfl
@[simp] theorem State.stopGroup_nextId (s : State) (tag team num : Nat) : (s.stopGroup tag team num).nextId = s.nextId := rfl
@[simp] theorem State.stopGroup_time (s : State) (tag team num : Nat) : (s.stopGroup tag team num).time = s.time := rfl
@[simp] theorem State.stopGroup_cur (s : State) (tag team num : Nat) : (s.stopGroup tag team num).cur = s.cur := rfl
@[simp] theorem State.stopGroup_hartNum (s : State) (tag team num : Nat) : (s.stopGroup tag team num).hartNum = s.hartNum := rfl
@[simp] theorem State.stopGroup_dram (s : State) (tag team num : Nat) : (s.stopGroup tag team num).dram = s.dram := rfl
@[simp] theorem State.stopGroup_scratch (s : State) (tag team num : Nat) : (s.stopGroup tag team num).scratch = s.scratch := rfl
@[simp] theorem State.stopGroup_poison (s : State) (tag team num : Nat) : (s.stopGroup tag team num).poison = s.poison := rfl
@[simp] theorem State.stopGroup_l1 (s : State) (tag team num : Nat) : (s.stopGroup tag team num).l1 = s.l1 := rfl
@[simp] theorem State.stopGroup_icache (s : State) (tag team num : Nat) : (s.stopGroup tag team num).icache = s.icache := rfl
@[simp] theorem State.stopGroup_tlb (s : State) (tag team num : Nat) : (s.stopGroup tag team num).tlb = s.tlb := rfl
@[simp] theorem State.stopGroup_walkers (s : State) (tag team num : Nat) : (s.stopGroup tag team num).walkers = s.walkers := rfl
@[simp] theorem State.stopGroup_l2 (s : State) (tag team num : Nat) : (s.stopGroup tag team num).l2 = s.l2 := rfl
@[simp] theorem State.stopGroup_ways (s : State) (tag team num : Nat) : (s.stopGroup tag team num).ways = s.ways := rfl
@[simp] theorem State.stopGroup_owned (s : State) (tag team num : Nat) : (s.stopGroup tag team num).owned = s.owned := rfl
@[simp] theorem State.stopGroup_grids (s : State) (tag team num : Nat) : (s.stopGroup tag team num).grids = s.grids := rfl
@[simp] theorem State.stopGroup_teams (s : State) (tag team num : Nat) : (s.stopGroup tag team num).teams = s.teams := rfl
@[simp] theorem State.stopGroup_accs (s : State) (tag team num : Nat) : (s.stopGroup tag team num).accs = s.accs := rfl
@[simp] theorem State.stopGroup_results (s : State) (tag team num : Nat) : (s.stopGroup tag team num).results = s.results := rfl
@[simp] theorem State.stopGroup_sigs (s : State) (tag team num : Nat) : (s.stopGroup tag team num).sigs = s.sigs := rfl
@[simp] theorem State.stopGroup_fetches (s : State) (tag team num : Nat) : (s.stopGroup tag team num).fetches = s.fetches := rfl
@[simp] theorem State.stopGroup_reds (s : State) (tag team num : Nat) : (s.stopGroup tag team num).reds = s.reds := rfl
@[simp] theorem State.stopGroup_tfaults (s : State) (tag team num : Nat) : (s.stopGroup tag team num).tfaults = s.tfaults := rfl
@[simp] theorem State.stopGroup_declined (s : State) (tag team num : Nat) : (s.stopGroup tag team num).declined = s.declined := rfl
@[simp] theorem State.stopGroup_objects (s : State) (tag team num : Nat) : (s.stopGroup tag team num).objects = s.objects := rfl
@[simp] theorem State.stopGroup_runcode (s : State) (tag team num : Nat) : (s.stopGroup tag team num).runcode = s.runcode := rfl
@[simp] theorem State.stopGroup_procs (s : State) (tag team num : Nat) : (s.stopGroup tag team num).procs = s.procs := rfl
@[simp] theorem State.stopGroup_queues (s : State) (tag team num : Nat) : (s.stopGroup tag team num).queues = s.queues := rfl
@[simp] theorem State.stopGroup_parts (s : State) (tag team num : Nat) : (s.stopGroup tag team num).parts = s.parts := rfl
@[simp] theorem State.stopGroup_harts (s : State) (tag team num : Nat) : (s.stopGroup tag team num).harts = s.harts := rfl
@[simp] theorem State.stopGroup_nextTag (s : State) (tag team num : Nat) : (s.stopGroup tag team num).nextTag = s.nextTag := rfl
@[simp] theorem State.stopGroup_imageTags (s : State) (tag team num : Nat) : (s.stopGroup tag team num).imageTags = s.imageTags := rfl
@[simp] theorem State.stopGroup_images (s : State) (tag team num : Nat) : (s.stopGroup tag team num).images = s.images := rfl
@[simp] theorem State.stopGroup_areas (s : State) (tag team num : Nat) : (s.stopGroup tag team num).areas = s.areas := rfl
@[simp] theorem State.stopGroup_kept (s : State) (tag team num : Nat) : (s.stopGroup tag team num).kept = s.kept := rfl
@[simp] theorem State.stopGroup_freePa (s : State) (tag team num : Nat) : (s.stopGroup tag team num).freePa = s.freePa := rfl
@[simp] theorem State.stopGroup_links (s : State) (tag team num : Nat) : (s.stopGroup tag team num).links = s.links := rfl
@[simp] theorem State.stopGroup_reach (s : State) (tag team num : Nat) : (s.stopGroup tag team num).reach = s.reach := rfl
@[simp] theorem State.stopGroup_txns (s : State) (tag team num : Nat) : (s.stopGroup tag team num).txns = s.txns := rfl
@[simp] theorem State.stopGroup_outbox (s : State) (tag team num : Nat) : (s.stopGroup tag team num).outbox = s.outbox := rfl
@[simp] theorem State.stopGroup_adapter (s : State) (tag team num : Nat) : (s.stopGroup tag team num).adapter = s.adapter := rfl
@[simp] theorem State.stopGroup_fw (s : State) (tag team num : Nat) : (s.stopGroup tag team num).fw = s.fw := rfl
@[simp] theorem State.stopGroup_devLines (s : State) (tag team num : Nat) : (s.stopGroup tag team num).devLines = s.devLines := rfl
@[simp] theorem State.stopGroup_ringWait (s : State) (tag team num : Nat) : (s.stopGroup tag team num).ringWait = s.ringWait := rfl
@[simp] theorem State.stopGroup_mgmt (s : State) (tag team num : Nat) : (s.stopGroup tag team num).mgmt = s.mgmt := rfl
@[simp] theorem State.stopGroup_scan (s : State) (tag team num : Nat) : (s.stopGroup tag team num).scan = s.scan := rfl
@[simp] theorem State.stopGroup_jobs (s : State) (tag team num : Nat) : (s.stopGroup tag team num).jobs = s.jobs := rfl
@[simp] theorem State.stopGroup_waitg (s : State) (tag team num : Nat) : (s.stopGroup tag team num).waitg = s.waitg := rfl
@[simp] theorem State.stopGroup_slots (s : State) (tag team num : Nat) : (s.stopGroup tag team num).slots = s.slots := rfl
@[simp] theorem State.stopGroup_log (s : State) (tag team num : Nat) : (s.stopGroup tag team num).log = s.log := rfl
@[simp] theorem State.stopGroup_loadErrs (s : State) (tag team num : Nat) : (s.stopGroup tag team num).loadErrs = s.loadErrs := rfl

/-! ### State.fresh -/

@[simp] theorem State.fresh_agenda (s : State) : (s.fresh).agenda = s.agenda := rfl
@[simp] theorem State.fresh_choice (s : State) : (s.fresh).choice = s.choice := rfl
@[simp] theorem State.fresh_idleMoves (s : State) : (s.fresh).idleMoves = s.idleMoves := rfl
@[simp] theorem State.fresh_time (s : State) : (s.fresh).time = s.time := rfl
@[simp] theorem State.fresh_cur (s : State) : (s.fresh).cur = s.cur := rfl
@[simp] theorem State.fresh_hartNum (s : State) : (s.fresh).hartNum = s.hartNum := rfl
@[simp] theorem State.fresh_dram (s : State) : (s.fresh).dram = s.dram := rfl
@[simp] theorem State.fresh_scratch (s : State) : (s.fresh).scratch = s.scratch := rfl
@[simp] theorem State.fresh_poison (s : State) : (s.fresh).poison = s.poison := rfl
@[simp] theorem State.fresh_l1 (s : State) : (s.fresh).l1 = s.l1 := rfl
@[simp] theorem State.fresh_icache (s : State) : (s.fresh).icache = s.icache := rfl
@[simp] theorem State.fresh_tlb (s : State) : (s.fresh).tlb = s.tlb := rfl
@[simp] theorem State.fresh_walkers (s : State) : (s.fresh).walkers = s.walkers := rfl
@[simp] theorem State.fresh_l2 (s : State) : (s.fresh).l2 = s.l2 := rfl
@[simp] theorem State.fresh_ways (s : State) : (s.fresh).ways = s.ways := rfl
@[simp] theorem State.fresh_owned (s : State) : (s.fresh).owned = s.owned := rfl
@[simp] theorem State.fresh_grids (s : State) : (s.fresh).grids = s.grids := rfl
@[simp] theorem State.fresh_teams (s : State) : (s.fresh).teams = s.teams := rfl
@[simp] theorem State.fresh_groups (s : State) : (s.fresh).groups = s.groups := rfl
@[simp] theorem State.fresh_accs (s : State) : (s.fresh).accs = s.accs := rfl
@[simp] theorem State.fresh_results (s : State) : (s.fresh).results = s.results := rfl
@[simp] theorem State.fresh_sigs (s : State) : (s.fresh).sigs = s.sigs := rfl
@[simp] theorem State.fresh_fetches (s : State) : (s.fresh).fetches = s.fetches := rfl
@[simp] theorem State.fresh_reds (s : State) : (s.fresh).reds = s.reds := rfl
@[simp] theorem State.fresh_tfaults (s : State) : (s.fresh).tfaults = s.tfaults := rfl
@[simp] theorem State.fresh_declined (s : State) : (s.fresh).declined = s.declined := rfl
@[simp] theorem State.fresh_objects (s : State) : (s.fresh).objects = s.objects := rfl
@[simp] theorem State.fresh_runcode (s : State) : (s.fresh).runcode = s.runcode := rfl
@[simp] theorem State.fresh_procs (s : State) : (s.fresh).procs = s.procs := rfl
@[simp] theorem State.fresh_queues (s : State) : (s.fresh).queues = s.queues := rfl
@[simp] theorem State.fresh_parts (s : State) : (s.fresh).parts = s.parts := rfl
@[simp] theorem State.fresh_harts (s : State) : (s.fresh).harts = s.harts := rfl
@[simp] theorem State.fresh_nextTag (s : State) : (s.fresh).nextTag = s.nextTag := rfl
@[simp] theorem State.fresh_imageTags (s : State) : (s.fresh).imageTags = s.imageTags := rfl
@[simp] theorem State.fresh_images (s : State) : (s.fresh).images = s.images := rfl
@[simp] theorem State.fresh_areas (s : State) : (s.fresh).areas = s.areas := rfl
@[simp] theorem State.fresh_kept (s : State) : (s.fresh).kept = s.kept := rfl
@[simp] theorem State.fresh_freePa (s : State) : (s.fresh).freePa = s.freePa := rfl
@[simp] theorem State.fresh_links (s : State) : (s.fresh).links = s.links := rfl
@[simp] theorem State.fresh_reach (s : State) : (s.fresh).reach = s.reach := rfl
@[simp] theorem State.fresh_txns (s : State) : (s.fresh).txns = s.txns := rfl
@[simp] theorem State.fresh_outbox (s : State) : (s.fresh).outbox = s.outbox := rfl
@[simp] theorem State.fresh_adapter (s : State) : (s.fresh).adapter = s.adapter := rfl
@[simp] theorem State.fresh_fw (s : State) : (s.fresh).fw = s.fw := rfl
@[simp] theorem State.fresh_devLines (s : State) : (s.fresh).devLines = s.devLines := rfl
@[simp] theorem State.fresh_ringWait (s : State) : (s.fresh).ringWait = s.ringWait := rfl
@[simp] theorem State.fresh_mgmt (s : State) : (s.fresh).mgmt = s.mgmt := rfl
@[simp] theorem State.fresh_scan (s : State) : (s.fresh).scan = s.scan := rfl
@[simp] theorem State.fresh_jobs (s : State) : (s.fresh).jobs = s.jobs := rfl
@[simp] theorem State.fresh_waitg (s : State) : (s.fresh).waitg = s.waitg := rfl
@[simp] theorem State.fresh_slots (s : State) : (s.fresh).slots = s.slots := rfl
@[simp] theorem State.fresh_log (s : State) : (s.fresh).log = s.log := rfl
@[simp] theorem State.fresh_loadErrs (s : State) : (s.fresh).loadErrs = s.loadErrs := rfl

/-! ### State.addResult -/

@[simp] theorem State.addResult_agenda (s : State) (r : Result) : (s.addResult r).agenda = s.agenda := rfl
@[simp] theorem State.addResult_choice (s : State) (r : Result) : (s.addResult r).choice = s.choice := rfl
@[simp] theorem State.addResult_idleMoves (s : State) (r : Result) : (s.addResult r).idleMoves = s.idleMoves := rfl
@[simp] theorem State.addResult_time (s : State) (r : Result) : (s.addResult r).time = s.time := rfl
@[simp] theorem State.addResult_cur (s : State) (r : Result) : (s.addResult r).cur = s.cur := rfl
@[simp] theorem State.addResult_hartNum (s : State) (r : Result) : (s.addResult r).hartNum = s.hartNum := rfl
@[simp] theorem State.addResult_dram (s : State) (r : Result) : (s.addResult r).dram = s.dram := rfl
@[simp] theorem State.addResult_scratch (s : State) (r : Result) : (s.addResult r).scratch = s.scratch := rfl
@[simp] theorem State.addResult_poison (s : State) (r : Result) : (s.addResult r).poison = s.poison := rfl
@[simp] theorem State.addResult_l1 (s : State) (r : Result) : (s.addResult r).l1 = s.l1 := rfl
@[simp] theorem State.addResult_icache (s : State) (r : Result) : (s.addResult r).icache = s.icache := rfl
@[simp] theorem State.addResult_tlb (s : State) (r : Result) : (s.addResult r).tlb = s.tlb := rfl
@[simp] theorem State.addResult_walkers (s : State) (r : Result) : (s.addResult r).walkers = s.walkers := rfl
@[simp] theorem State.addResult_l2 (s : State) (r : Result) : (s.addResult r).l2 = s.l2 := rfl
@[simp] theorem State.addResult_ways (s : State) (r : Result) : (s.addResult r).ways = s.ways := rfl
@[simp] theorem State.addResult_owned (s : State) (r : Result) : (s.addResult r).owned = s.owned := rfl
@[simp] theorem State.addResult_grids (s : State) (r : Result) : (s.addResult r).grids = s.grids := rfl
@[simp] theorem State.addResult_teams (s : State) (r : Result) : (s.addResult r).teams = s.teams := rfl
@[simp] theorem State.addResult_groups (s : State) (r : Result) : (s.addResult r).groups = s.groups := rfl
@[simp] theorem State.addResult_accs (s : State) (r : Result) : (s.addResult r).accs = s.accs := rfl
@[simp] theorem State.addResult_sigs (s : State) (r : Result) : (s.addResult r).sigs = s.sigs := rfl
@[simp] theorem State.addResult_fetches (s : State) (r : Result) : (s.addResult r).fetches = s.fetches := rfl
@[simp] theorem State.addResult_reds (s : State) (r : Result) : (s.addResult r).reds = s.reds := rfl
@[simp] theorem State.addResult_tfaults (s : State) (r : Result) : (s.addResult r).tfaults = s.tfaults := rfl
@[simp] theorem State.addResult_declined (s : State) (r : Result) : (s.addResult r).declined = s.declined := rfl
@[simp] theorem State.addResult_objects (s : State) (r : Result) : (s.addResult r).objects = s.objects := rfl
@[simp] theorem State.addResult_runcode (s : State) (r : Result) : (s.addResult r).runcode = s.runcode := rfl
@[simp] theorem State.addResult_procs (s : State) (r : Result) : (s.addResult r).procs = s.procs := rfl
@[simp] theorem State.addResult_queues (s : State) (r : Result) : (s.addResult r).queues = s.queues := rfl
@[simp] theorem State.addResult_parts (s : State) (r : Result) : (s.addResult r).parts = s.parts := rfl
@[simp] theorem State.addResult_harts (s : State) (r : Result) : (s.addResult r).harts = s.harts := rfl
@[simp] theorem State.addResult_nextTag (s : State) (r : Result) : (s.addResult r).nextTag = s.nextTag := rfl
@[simp] theorem State.addResult_imageTags (s : State) (r : Result) : (s.addResult r).imageTags = s.imageTags := rfl
@[simp] theorem State.addResult_images (s : State) (r : Result) : (s.addResult r).images = s.images := rfl
@[simp] theorem State.addResult_areas (s : State) (r : Result) : (s.addResult r).areas = s.areas := rfl
@[simp] theorem State.addResult_kept (s : State) (r : Result) : (s.addResult r).kept = s.kept := rfl
@[simp] theorem State.addResult_freePa (s : State) (r : Result) : (s.addResult r).freePa = s.freePa := rfl
@[simp] theorem State.addResult_links (s : State) (r : Result) : (s.addResult r).links = s.links := rfl
@[simp] theorem State.addResult_reach (s : State) (r : Result) : (s.addResult r).reach = s.reach := rfl
@[simp] theorem State.addResult_txns (s : State) (r : Result) : (s.addResult r).txns = s.txns := rfl
@[simp] theorem State.addResult_outbox (s : State) (r : Result) : (s.addResult r).outbox = s.outbox := rfl
@[simp] theorem State.addResult_adapter (s : State) (r : Result) : (s.addResult r).adapter = s.adapter := rfl
@[simp] theorem State.addResult_fw (s : State) (r : Result) : (s.addResult r).fw = s.fw := rfl
@[simp] theorem State.addResult_devLines (s : State) (r : Result) : (s.addResult r).devLines = s.devLines := rfl
@[simp] theorem State.addResult_ringWait (s : State) (r : Result) : (s.addResult r).ringWait = s.ringWait := rfl
@[simp] theorem State.addResult_mgmt (s : State) (r : Result) : (s.addResult r).mgmt = s.mgmt := rfl
@[simp] theorem State.addResult_scan (s : State) (r : Result) : (s.addResult r).scan = s.scan := rfl
@[simp] theorem State.addResult_jobs (s : State) (r : Result) : (s.addResult r).jobs = s.jobs := rfl
@[simp] theorem State.addResult_waitg (s : State) (r : Result) : (s.addResult r).waitg = s.waitg := rfl
@[simp] theorem State.addResult_slots (s : State) (r : Result) : (s.addResult r).slots = s.slots := rfl
@[simp] theorem State.addResult_log (s : State) (r : Result) : (s.addResult r).log = s.log := rfl
@[simp] theorem State.addResult_loadErrs (s : State) (r : Result) : (s.addResult r).loadErrs = s.loadErrs := rfl

/-! ### State.addAccs -/

@[simp] theorem State.addAccs_agenda (s : State) (l : List Access) : (s.addAccs l).agenda = s.agenda := rfl
@[simp] theorem State.addAccs_choice (s : State) (l : List Access) : (s.addAccs l).choice = s.choice := rfl
@[simp] theorem State.addAccs_idleMoves (s : State) (l : List Access) : (s.addAccs l).idleMoves = s.idleMoves := rfl
@[simp] theorem State.addAccs_time (s : State) (l : List Access) : (s.addAccs l).time = s.time := rfl
@[simp] theorem State.addAccs_cur (s : State) (l : List Access) : (s.addAccs l).cur = s.cur := rfl
@[simp] theorem State.addAccs_hartNum (s : State) (l : List Access) : (s.addAccs l).hartNum = s.hartNum := rfl
@[simp] theorem State.addAccs_dram (s : State) (l : List Access) : (s.addAccs l).dram = s.dram := rfl
@[simp] theorem State.addAccs_scratch (s : State) (l : List Access) : (s.addAccs l).scratch = s.scratch := rfl
@[simp] theorem State.addAccs_poison (s : State) (l : List Access) : (s.addAccs l).poison = s.poison := rfl
@[simp] theorem State.addAccs_l1 (s : State) (l : List Access) : (s.addAccs l).l1 = s.l1 := rfl
@[simp] theorem State.addAccs_icache (s : State) (l : List Access) : (s.addAccs l).icache = s.icache := rfl
@[simp] theorem State.addAccs_tlb (s : State) (l : List Access) : (s.addAccs l).tlb = s.tlb := rfl
@[simp] theorem State.addAccs_walkers (s : State) (l : List Access) : (s.addAccs l).walkers = s.walkers := rfl
@[simp] theorem State.addAccs_l2 (s : State) (l : List Access) : (s.addAccs l).l2 = s.l2 := rfl
@[simp] theorem State.addAccs_ways (s : State) (l : List Access) : (s.addAccs l).ways = s.ways := rfl
@[simp] theorem State.addAccs_owned (s : State) (l : List Access) : (s.addAccs l).owned = s.owned := rfl
@[simp] theorem State.addAccs_grids (s : State) (l : List Access) : (s.addAccs l).grids = s.grids := rfl
@[simp] theorem State.addAccs_teams (s : State) (l : List Access) : (s.addAccs l).teams = s.teams := rfl
@[simp] theorem State.addAccs_groups (s : State) (l : List Access) : (s.addAccs l).groups = s.groups := rfl
@[simp] theorem State.addAccs_results (s : State) (l : List Access) : (s.addAccs l).results = s.results := rfl
@[simp] theorem State.addAccs_sigs (s : State) (l : List Access) : (s.addAccs l).sigs = s.sigs := rfl
@[simp] theorem State.addAccs_fetches (s : State) (l : List Access) : (s.addAccs l).fetches = s.fetches := rfl
@[simp] theorem State.addAccs_reds (s : State) (l : List Access) : (s.addAccs l).reds = s.reds := rfl
@[simp] theorem State.addAccs_tfaults (s : State) (l : List Access) : (s.addAccs l).tfaults = s.tfaults := rfl
@[simp] theorem State.addAccs_declined (s : State) (l : List Access) : (s.addAccs l).declined = s.declined := rfl
@[simp] theorem State.addAccs_objects (s : State) (l : List Access) : (s.addAccs l).objects = s.objects := rfl
@[simp] theorem State.addAccs_runcode (s : State) (l : List Access) : (s.addAccs l).runcode = s.runcode := rfl
@[simp] theorem State.addAccs_procs (s : State) (l : List Access) : (s.addAccs l).procs = s.procs := rfl
@[simp] theorem State.addAccs_queues (s : State) (l : List Access) : (s.addAccs l).queues = s.queues := rfl
@[simp] theorem State.addAccs_parts (s : State) (l : List Access) : (s.addAccs l).parts = s.parts := rfl
@[simp] theorem State.addAccs_harts (s : State) (l : List Access) : (s.addAccs l).harts = s.harts := rfl
@[simp] theorem State.addAccs_nextTag (s : State) (l : List Access) : (s.addAccs l).nextTag = s.nextTag := rfl
@[simp] theorem State.addAccs_imageTags (s : State) (l : List Access) : (s.addAccs l).imageTags = s.imageTags := rfl
@[simp] theorem State.addAccs_images (s : State) (l : List Access) : (s.addAccs l).images = s.images := rfl
@[simp] theorem State.addAccs_areas (s : State) (l : List Access) : (s.addAccs l).areas = s.areas := rfl
@[simp] theorem State.addAccs_kept (s : State) (l : List Access) : (s.addAccs l).kept = s.kept := rfl
@[simp] theorem State.addAccs_freePa (s : State) (l : List Access) : (s.addAccs l).freePa = s.freePa := rfl
@[simp] theorem State.addAccs_links (s : State) (l : List Access) : (s.addAccs l).links = s.links := rfl
@[simp] theorem State.addAccs_reach (s : State) (l : List Access) : (s.addAccs l).reach = s.reach := rfl
@[simp] theorem State.addAccs_txns (s : State) (l : List Access) : (s.addAccs l).txns = s.txns := rfl
@[simp] theorem State.addAccs_outbox (s : State) (l : List Access) : (s.addAccs l).outbox = s.outbox := rfl
@[simp] theorem State.addAccs_adapter (s : State) (l : List Access) : (s.addAccs l).adapter = s.adapter := rfl
@[simp] theorem State.addAccs_fw (s : State) (l : List Access) : (s.addAccs l).fw = s.fw := rfl
@[simp] theorem State.addAccs_devLines (s : State) (l : List Access) : (s.addAccs l).devLines = s.devLines := rfl
@[simp] theorem State.addAccs_ringWait (s : State) (l : List Access) : (s.addAccs l).ringWait = s.ringWait := rfl
@[simp] theorem State.addAccs_mgmt (s : State) (l : List Access) : (s.addAccs l).mgmt = s.mgmt := rfl
@[simp] theorem State.addAccs_scan (s : State) (l : List Access) : (s.addAccs l).scan = s.scan := rfl
@[simp] theorem State.addAccs_jobs (s : State) (l : List Access) : (s.addAccs l).jobs = s.jobs := rfl
@[simp] theorem State.addAccs_waitg (s : State) (l : List Access) : (s.addAccs l).waitg = s.waitg := rfl
@[simp] theorem State.addAccs_slots (s : State) (l : List Access) : (s.addAccs l).slots = s.slots := rfl
@[simp] theorem State.addAccs_log (s : State) (l : List Access) : (s.addAccs l).log = s.log := rfl
@[simp] theorem State.addAccs_loadErrs (s : State) (l : List Access) : (s.addAccs l).loadErrs = s.loadErrs := rfl

/-! ### State.settle -/

@[simp] theorem State.settle_agenda (s : State) : (s.settle).agenda = s.agenda := rfl
@[simp] theorem State.settle_choice (s : State) : (s.settle).choice = s.choice := rfl
@[simp] theorem State.settle_idleMoves (s : State) : (s.settle).idleMoves = s.idleMoves := rfl
@[simp] theorem State.settle_nextId (s : State) : (s.settle).nextId = s.nextId := rfl
@[simp] theorem State.settle_time (s : State) : (s.settle).time = s.time := rfl
@[simp] theorem State.settle_cur (s : State) : (s.settle).cur = s.cur := rfl
@[simp] theorem State.settle_hartNum (s : State) : (s.settle).hartNum = s.hartNum := rfl
@[simp] theorem State.settle_dram (s : State) : (s.settle).dram = s.dram := rfl
@[simp] theorem State.settle_scratch (s : State) : (s.settle).scratch = s.scratch := rfl
@[simp] theorem State.settle_poison (s : State) : (s.settle).poison = s.poison := rfl
@[simp] theorem State.settle_l1 (s : State) : (s.settle).l1 = s.l1 := rfl
@[simp] theorem State.settle_icache (s : State) : (s.settle).icache = s.icache := rfl
@[simp] theorem State.settle_tlb (s : State) : (s.settle).tlb = s.tlb := rfl
@[simp] theorem State.settle_walkers (s : State) : (s.settle).walkers = s.walkers := rfl
@[simp] theorem State.settle_l2 (s : State) : (s.settle).l2 = s.l2 := rfl
@[simp] theorem State.settle_ways (s : State) : (s.settle).ways = s.ways := rfl
@[simp] theorem State.settle_owned (s : State) : (s.settle).owned = s.owned := rfl
@[simp] theorem State.settle_grids (s : State) : (s.settle).grids = s.grids := rfl
@[simp] theorem State.settle_teams (s : State) : (s.settle).teams = s.teams := rfl
@[simp] theorem State.settle_accs (s : State) : (s.settle).accs = s.accs := rfl
@[simp] theorem State.settle_results (s : State) : (s.settle).results = s.results := rfl
@[simp] theorem State.settle_sigs (s : State) : (s.settle).sigs = s.sigs := rfl
@[simp] theorem State.settle_fetches (s : State) : (s.settle).fetches = s.fetches := rfl
@[simp] theorem State.settle_reds (s : State) : (s.settle).reds = s.reds := rfl
@[simp] theorem State.settle_tfaults (s : State) : (s.settle).tfaults = s.tfaults := rfl
@[simp] theorem State.settle_declined (s : State) : (s.settle).declined = s.declined := rfl
@[simp] theorem State.settle_objects (s : State) : (s.settle).objects = s.objects := rfl
@[simp] theorem State.settle_runcode (s : State) : (s.settle).runcode = s.runcode := rfl
@[simp] theorem State.settle_procs (s : State) : (s.settle).procs = s.procs := rfl
@[simp] theorem State.settle_queues (s : State) : (s.settle).queues = s.queues := rfl
@[simp] theorem State.settle_parts (s : State) : (s.settle).parts = s.parts := rfl
@[simp] theorem State.settle_harts (s : State) : (s.settle).harts = s.harts := rfl
@[simp] theorem State.settle_nextTag (s : State) : (s.settle).nextTag = s.nextTag := rfl
@[simp] theorem State.settle_imageTags (s : State) : (s.settle).imageTags = s.imageTags := rfl
@[simp] theorem State.settle_images (s : State) : (s.settle).images = s.images := rfl
@[simp] theorem State.settle_areas (s : State) : (s.settle).areas = s.areas := rfl
@[simp] theorem State.settle_kept (s : State) : (s.settle).kept = s.kept := rfl
@[simp] theorem State.settle_freePa (s : State) : (s.settle).freePa = s.freePa := rfl
@[simp] theorem State.settle_links (s : State) : (s.settle).links = s.links := rfl
@[simp] theorem State.settle_reach (s : State) : (s.settle).reach = s.reach := rfl
@[simp] theorem State.settle_txns (s : State) : (s.settle).txns = s.txns := rfl
@[simp] theorem State.settle_outbox (s : State) : (s.settle).outbox = s.outbox := rfl
@[simp] theorem State.settle_adapter (s : State) : (s.settle).adapter = s.adapter := rfl
@[simp] theorem State.settle_fw (s : State) : (s.settle).fw = s.fw := rfl
@[simp] theorem State.settle_devLines (s : State) : (s.settle).devLines = s.devLines := rfl
@[simp] theorem State.settle_ringWait (s : State) : (s.settle).ringWait = s.ringWait := rfl
@[simp] theorem State.settle_mgmt (s : State) : (s.settle).mgmt = s.mgmt := rfl
@[simp] theorem State.settle_scan (s : State) : (s.settle).scan = s.scan := rfl
@[simp] theorem State.settle_jobs (s : State) : (s.settle).jobs = s.jobs := rfl
@[simp] theorem State.settle_waitg (s : State) : (s.settle).waitg = s.waitg := rfl
@[simp] theorem State.settle_slots (s : State) : (s.settle).slots = s.slots := rfl
@[simp] theorem State.settle_log (s : State) : (s.settle).log = s.log := rfl
@[simp] theorem State.settle_loadErrs (s : State) : (s.settle).loadErrs = s.loadErrs := rfl

/-! ### State.elapse -/

@[simp] theorem State.elapse_agenda (s : State) (n : Nat) : (s.elapse n).agenda = s.agenda := rfl
@[simp] theorem State.elapse_choice (s : State) (n : Nat) : (s.elapse n).choice = s.choice := rfl
@[simp] theorem State.elapse_idleMoves (s : State) (n : Nat) : (s.elapse n).idleMoves = s.idleMoves := rfl
@[simp] theorem State.elapse_nextId (s : State) (n : Nat) : (s.elapse n).nextId = s.nextId := rfl
@[simp] theorem State.elapse_cur (s : State) (n : Nat) : (s.elapse n).cur = s.cur := rfl
@[simp] theorem State.elapse_hartNum (s : State) (n : Nat) : (s.elapse n).hartNum = s.hartNum := rfl
@[simp] theorem State.elapse_dram (s : State) (n : Nat) : (s.elapse n).dram = s.dram := rfl
@[simp] theorem State.elapse_scratch (s : State) (n : Nat) : (s.elapse n).scratch = s.scratch := rfl
@[simp] theorem State.elapse_poison (s : State) (n : Nat) : (s.elapse n).poison = s.poison := rfl
@[simp] theorem State.elapse_l1 (s : State) (n : Nat) : (s.elapse n).l1 = s.l1 := rfl
@[simp] theorem State.elapse_icache (s : State) (n : Nat) : (s.elapse n).icache = s.icache := rfl
@[simp] theorem State.elapse_tlb (s : State) (n : Nat) : (s.elapse n).tlb = s.tlb := rfl
@[simp] theorem State.elapse_walkers (s : State) (n : Nat) : (s.elapse n).walkers = s.walkers := rfl
@[simp] theorem State.elapse_l2 (s : State) (n : Nat) : (s.elapse n).l2 = s.l2 := rfl
@[simp] theorem State.elapse_ways (s : State) (n : Nat) : (s.elapse n).ways = s.ways := rfl
@[simp] theorem State.elapse_owned (s : State) (n : Nat) : (s.elapse n).owned = s.owned := rfl
@[simp] theorem State.elapse_grids (s : State) (n : Nat) : (s.elapse n).grids = s.grids := rfl
@[simp] theorem State.elapse_teams (s : State) (n : Nat) : (s.elapse n).teams = s.teams := rfl
@[simp] theorem State.elapse_groups (s : State) (n : Nat) : (s.elapse n).groups = s.groups := rfl
@[simp] theorem State.elapse_accs (s : State) (n : Nat) : (s.elapse n).accs = s.accs := rfl
@[simp] theorem State.elapse_results (s : State) (n : Nat) : (s.elapse n).results = s.results := rfl
@[simp] theorem State.elapse_sigs (s : State) (n : Nat) : (s.elapse n).sigs = s.sigs := rfl
@[simp] theorem State.elapse_fetches (s : State) (n : Nat) : (s.elapse n).fetches = s.fetches := rfl
@[simp] theorem State.elapse_reds (s : State) (n : Nat) : (s.elapse n).reds = s.reds := rfl
@[simp] theorem State.elapse_tfaults (s : State) (n : Nat) : (s.elapse n).tfaults = s.tfaults := rfl
@[simp] theorem State.elapse_declined (s : State) (n : Nat) : (s.elapse n).declined = s.declined := rfl
@[simp] theorem State.elapse_objects (s : State) (n : Nat) : (s.elapse n).objects = s.objects := rfl
@[simp] theorem State.elapse_runcode (s : State) (n : Nat) : (s.elapse n).runcode = s.runcode := rfl
@[simp] theorem State.elapse_procs (s : State) (n : Nat) : (s.elapse n).procs = s.procs := rfl
@[simp] theorem State.elapse_queues (s : State) (n : Nat) : (s.elapse n).queues = s.queues := rfl
@[simp] theorem State.elapse_parts (s : State) (n : Nat) : (s.elapse n).parts = s.parts := rfl
@[simp] theorem State.elapse_harts (s : State) (n : Nat) : (s.elapse n).harts = s.harts := rfl
@[simp] theorem State.elapse_nextTag (s : State) (n : Nat) : (s.elapse n).nextTag = s.nextTag := rfl
@[simp] theorem State.elapse_imageTags (s : State) (n : Nat) : (s.elapse n).imageTags = s.imageTags := rfl
@[simp] theorem State.elapse_images (s : State) (n : Nat) : (s.elapse n).images = s.images := rfl
@[simp] theorem State.elapse_areas (s : State) (n : Nat) : (s.elapse n).areas = s.areas := rfl
@[simp] theorem State.elapse_kept (s : State) (n : Nat) : (s.elapse n).kept = s.kept := rfl
@[simp] theorem State.elapse_freePa (s : State) (n : Nat) : (s.elapse n).freePa = s.freePa := rfl
@[simp] theorem State.elapse_links (s : State) (n : Nat) : (s.elapse n).links = s.links := rfl
@[simp] theorem State.elapse_reach (s : State) (n : Nat) : (s.elapse n).reach = s.reach := rfl
@[simp] theorem State.elapse_txns (s : State) (n : Nat) : (s.elapse n).txns = s.txns := rfl
@[simp] theorem State.elapse_outbox (s : State) (n : Nat) : (s.elapse n).outbox = s.outbox := rfl
@[simp] theorem State.elapse_adapter (s : State) (n : Nat) : (s.elapse n).adapter = s.adapter := rfl
@[simp] theorem State.elapse_fw (s : State) (n : Nat) : (s.elapse n).fw = s.fw := rfl
@[simp] theorem State.elapse_devLines (s : State) (n : Nat) : (s.elapse n).devLines = s.devLines := rfl
@[simp] theorem State.elapse_ringWait (s : State) (n : Nat) : (s.elapse n).ringWait = s.ringWait := rfl
@[simp] theorem State.elapse_mgmt (s : State) (n : Nat) : (s.elapse n).mgmt = s.mgmt := rfl
@[simp] theorem State.elapse_scan (s : State) (n : Nat) : (s.elapse n).scan = s.scan := rfl
@[simp] theorem State.elapse_jobs (s : State) (n : Nat) : (s.elapse n).jobs = s.jobs := rfl
@[simp] theorem State.elapse_waitg (s : State) (n : Nat) : (s.elapse n).waitg = s.waitg := rfl
@[simp] theorem State.elapse_slots (s : State) (n : Nat) : (s.elapse n).slots = s.slots := rfl
@[simp] theorem State.elapse_log (s : State) (n : Nat) : (s.elapse n).log = s.log := rfl
@[simp] theorem State.elapse_loadErrs (s : State) (n : Nat) : (s.elapse n).loadErrs = s.loadErrs := rfl

end Sys2Proof.Machine
end

