-- ==== Sys2Proof/Laws/Find.lean ====
section
/-! SUPPORT. What the searches for grids, teams, groups and lanes find after an update, and what a group's lanes are after
a change of some of them. -/

namespace Sys2Proof.Machine

theorem Group.is_iff {tag team num : Nat} {g : Group} : Group.is tag team num g = true ↔ g.tag = tag ∧ g.team = team ∧ g.num = num := by
  simp [Group.is, Bool.and_eq_true, and_assoc]
theorem State.group?_is {s : State} {tag team num : Nat} {g : Group} (h : s.group? tag team num = some g) :
    g.tag = tag ∧ g.team = team ∧ g.num = num := Group.is_iff.1 (List.find?_some h)
theorem State.grid?_tag {s : State} {tag : Nat} {g : Grid} (h : s.grid? tag = some g) : g.tag = tag := by
  simpa using List.find?_some h
theorem State.team?_is {s : State} {tag idx : Nat} {t : Team} (h : s.team? tag idx = some t) : t.tag = tag ∧ t.idx = idx := by
  simpa using List.find?_some h

/-- A change of a group that keeps its name is found under that name. -/
theorem State.group?_updGroup (s : State) (tag team num : Nat) {f : Group → Group}
    (keep : ∀ g, (f g).tag = g.tag ∧ (f g).team = g.team ∧ (f g).num = g.num) :
    (s.updGroup tag team num f).group? tag team num = (s.group? tag team num).map f :=
  find?_updFirst _ (fun x h => by
    obtain ⟨a, b, c⟩ := keep x; obtain ⟨h1, h2, h3⟩ := Group.is_iff.1 h
    exact Group.is_iff.2 ⟨a.trans h1, b.trans h2, c.trans h3⟩)
theorem State.group?_updGroup_other (s : State) {tag team num a b c : Nat} {f : Group → Group}
    (keep : ∀ g, (f g).tag = g.tag ∧ (f g).team = g.team ∧ (f g).num = g.num) (ne : (a, b, c) ≠ (tag, team, num)) :
    (s.updGroup tag team num f).group? a b c = s.group? a b c := by
  have no : ∀ x : Group, x.tag = tag → x.team = team → x.num = num → Group.is a b c x = false := by
    intro x h1 h2 h3
    cases hx : Group.is a b c x with
    | false => rfl
    | true =>
      obtain ⟨k1, k2, k3⟩ := Group.is_iff.1 hx
      exact absurd (by rw [← k1, ← k2, ← k3, h1, h2, h3]) ne
  refine find?_updFirst_other _ (fun x h => ?_) (fun x h => ?_)
  · obtain ⟨h1, h2, h3⟩ := Group.is_iff.1 h; exact no x h1 h2 h3
  · obtain ⟨h1, h2, h3⟩ := Group.is_iff.1 h; obtain ⟨k1, k2, k3⟩ := keep x
    exact no _ (k1.trans h1) (k2.trans h2) (k3.trans h3)
@[simp] theorem State.updGroup_groups (s : State) (tag team num : Nat) (f : Group → Group) :
    (s.updGroup tag team num f).groups = updFirst (Group.is tag team num) f s.groups := rfl

theorem State.grid?_updGrid (s : State) (tag : Nat) {f : Grid → Grid} (keep : ∀ g, (f g).tag = g.tag) :
    (s.updGrid tag f).grid? tag = (s.grid? tag).map f :=
  find?_updFirst _ (fun x h => by simpa [keep x] using h)
theorem State.team?_updTeam (s : State) (tag idx : Nat) {f : Team → Team} (keep : ∀ t, (f t).tag = t.tag ∧ (f t).idx = t.idx) :
    (s.updTeam tag idx f).team? tag idx = (s.team? tag idx).map f :=
  find?_updFirst _ (fun x h => by simpa [keep x] using h)

/-! ### Lanes -/

@[simp] theorem Group.updMask_length (g : Group) (m : LaneMask) (f : Nat → Lane → Lane) : (g.updMask m f).lanes.length = g.lanes.length := by
  simp [Group.updMask]
theorem Group.updMask_lane (g : Group) (m : LaneMask) (f : Nat → Lane → Lane) (i : Nat) :
    (g.updMask m f).lanes[i]? = g.lanes[i]?.map (fun l => if m.getLsbD i then f i l else l) := by
  simp [Group.updMask, List.getElem?_mapIdx]
@[simp] theorem Group.updLane_length (g : Group) (i : Nat) (f : Lane → Lane) : (g.updLane i f).lanes.length = g.lanes.length := by
  simp [Group.updLane, length_updAt]
theorem Group.updLane_lane (g : Group) (k : Nat) (f : Lane → Lane) (i : Nat) :
    (g.updLane k f).lanes[i]? = if i = k then g.lanes[i]?.map f else g.lanes[i]? := by
  simp [Group.updLane, getElem?_updAt]

/-- A change of lanes that keeps v registers and predicates changes no register. -/
theorem Group.holds_updMask (g : Group) (m : LaneMask) {f : Nat → Lane → Lane}
    (keep : ∀ i x, (f i x).v = x.v ∧ (f i x).p = x.p) (l : Nat) (d : Dest) : (g.updMask m f).holds l d = g.holds l d := by
  cases d with
  | v n =>
    simp only [Group.holds, Group.updMask_lane]
    cases g.lanes[l]? with
    | none => rfl
    | some x => simp only [Option.map_some]; split <;> simp [(keep l x).1]
  | s n => rfl
  | p n =>
    simp only [Group.holds, Group.updMask_lane]
    cases g.lanes[l]? with
    | none => rfl
    | some x => simp only [Option.map_some]; split <;> simp [(keep l x).2]
  | none => rfl

@[simp] theorem Group.put_length (g : Group) (l : Nat) (w : Wr) : (g.put l w).lanes.length = g.lanes.length := by
  unfold Group.put; split <;> simp
theorem Group.put_names (g : Group) (l : Nat) (w : Wr) : (g.put l w).tag = g.tag ∧ (g.put l w).team = g.team ∧ (g.put l w).num = g.num := by
  unfold Group.put; split <;> simp [Group.updLane]

/-- A write is held, where its destination exists. -/
theorem Group.holds_put_same (g : Group) (l : Nat) (w : Wr) (h : g.has l w.dest = true) : (g.put l w).holds l w.dest = w.left := by
  obtain ⟨d, v⟩ := w
  cases d with
  | v n =>
    simp only [Group.has, decide_eq_true_eq] at h
    simp [Group.put, Group.holds, Group.updLane_lane, List.getElem?_eq_getElem h, Wr.left]
  | s n => simp [Group.put, Group.holds, Group.sreg, Wr.left]
  | p n =>
    simp only [Group.has, Bool.and_eq_true, decide_eq_true_eq] at h
    simp only [Group.put, Group.holds, Group.updLane_lane, if_true, List.getElem?_eq_getElem h.1, Option.map_some, Wr.left]
    have hb : ((1#96) <<< n).getLsbD n = true := by simp [h.2]
    by_cases hv : v = 0
    · simp [hv, h.2, b2n]
    · simp [hv, h.2, b2n]
  | none => simp [Group.has] at h

/-- A write leaves every other register as it was. -/
theorem Group.holds_put_other (g : Group) (k l : Nat) (w : Wr) (d : Dest) (h : w.dest = d → k ≠ l ∧ d.isS = false) :
    (g.put k w).holds l d = g.holds l d := by
  obtain ⟨e, v⟩ := w
  simp only at h
  cases e with
  | v n =>
    simp only [Group.put]
    cases d with
    | v m =>
      simp only [Group.holds, Group.updLane_lane]
      by_cases hl : l = k
      · rw [if_pos hl]
        have hm : m ≠ n := fun hm => (h (by rw [hm])).1 hl.symm
        cases g.lanes[l]? with
        | none => rfl
        | some x => simp [Sparse.get_set, hm]
      · rw [if_neg hl]
    | s m => rfl
    | p m =>
      simp only [Group.holds, Group.updLane_lane]
      by_cases hl : l = k
      · rw [if_pos hl]; cases g.lanes[l]? <;> rfl
      · rw [if_neg hl]
    | none => rfl
  | s n =>
    simp only [Group.put]
    cases d with
    | v m => rfl
    | s m =>
      have hm : m ≠ n := fun hm => by have := (h (by rw [hm])).2; simp [Dest.isS] at this
      simp [Group.holds, Group.sreg, Sparse.get_set, hm]
    | p m => rfl
    | none => rfl
  | p n =>
    simp only [Group.put]
    cases d with
    | v m =>
      simp only [Group.holds, Group.updLane_lane]
      by_cases hl : l = k
      · rw [if_pos hl]; cases g.lanes[l]? <;> rfl
      · rw [if_neg hl]
    | s m => rfl
    | p m =>
      simp only [Group.holds, Group.updLane_lane]
      by_cases hl : l = k
      · rw [if_pos hl]
        have hm : n ≠ m := fun hm => (h (by rw [hm])).1 hl.symm
        cases g.lanes[l]? with
        | none => rfl
        | some x =>
          have hb : ((1#96) <<< n).getLsbD m = false := by
            rw [BitVec.getLsbD_shiftLeft]
            by_cases hlt : m < n
            · simp [hlt]
            · have : m - n ≠ 0 := by omega
              simp [BitVec.getLsbD_one, this]
          simp only [Option.map_some]
          split
          · by_cases hm96 : m < 96
            · rw [BitVec.getLsbD_and, BitVec.getLsbD_not, hb]; simp [hm96]
            · simp [BitVec.getLsbD_of_ge _ _ (Nat.le_of_not_lt hm96)]
          · simp [BitVec.getLsbD_or, hb]
      · rw [if_neg hl]
    | none => rfl
  | none => rfl

end Sys2Proof.Machine
end

