-- ==== Sys2Proof/Laws/Issue.lean ====
section
/-! SUPPORT. What an issue does, said once: from a context in which the instruction issues, `issue` is its own effect; a
fixed-latency effect writes what its rule gives and nothing else; a variable-latency one leaves one result outstanding. -/

namespace Sys2Proof.Machine

/-! ### The context of an issue -/

/-- What a context says of the state it was taken from. -/
theorem envOf_spec {s : State} {opc : Nat} {f : Fields} {len : Nat} {e : Env} (h : envOf s opc f len = some e) :
    e.s = s ∧ e.opc = opc ∧ e.f = f ∧ e.len = len ∧ e.mask = s.cur.mask ∧ e.pc = s.cur.pc ∧
    s.grid? e.grid.tag = some e.grid ∧ s.team? e.grid.tag e.team.idx = some e.team ∧
    s.group? e.grid.tag e.team.idx e.grp.num = some e.grp ∧
    e.grid.tag = s.cur.tag ∧ e.team.idx = s.cur.team ∧ e.grp.num = s.cur.grp := by
  unfold envOf at h
  split at h
  · rename_i g t x hg ht hx
    cases h
    have h1 := State.grid?_tag hg
    have h2 := State.team?_is ht
    have h3 := State.group?_is hx
    simp only [h1, h2.2, h3.2.2]
    exact ⟨trivial, trivial, trivial, trivial, trivial, trivial, hg, ht, hx, trivial, trivial, trivial⟩
  · cases h

theorem envOf_quiet {s : State} {opc : Nat} {f : Fields} {len : Nat} {e : Env} (h : envOf s opc f len = some e) : e.quiet = [] := by
  unfold envOf at h
  split at h <;> cases h
  rfl
theorem Env.faultable_sub {e : Env} {ls : List Nat} {l : Nat} (h : l ∈ e.faultable ls) : l ∈ ls := by
  unfold Env.faultable at h
  split at h
  · exact (List.mem_filter.1 h).1
  · split at h
    · exact (List.mem_filter.1 h).1
    · exact h

theorem issueLen_eq {s : State} {opc len : Nat} {f : Fields} {e : Env} (h1 : drainFirst s opc f = s)
    (h2 : envOf s opc f len = some e) (h3 : e.mask ≠ 0#64) (h4 : e.kernelCheck = none) (h5 : ∀ l ∈ e.exec, e.spoilt l = false)
    (body : Env → State) : issueLen s opc f len body = body e := by
  have h6 : (e.faultable e.exec).filter e.spoilt = [] :=
    List.filter_eq_nil_iff.2 (fun l hl => by simp [h5 l (Env.faultable_sub hl)])
  have h7 : { e with quiet := e.exec.filter e.spoilt } = e := by
    have h8 : e.exec.filter e.spoilt = e.quiet := by
      rw [envOf_quiet h2]; exact List.filter_eq_nil_iff.2 (fun l hl => by simp [h5 l hl])
    rw [h8]
  simp [issueLen, h1, h2, h3, h4, h6, h7]
theorem issue_eq {s : State} {opc : Nat} {f : Fields} {e : Env} (h : Issues s opc f e) (body : Env → State) :
    issue s opc f body = body e := by
  obtain ⟨h1, h2, h3, h4, h5⟩ := h
  exact issueLen_eq h1 h2 h3 h4 h5 body
theorem issueB_eq {s : State} {opc : Nat} {g : BFields} {e : Env} (h : IssuesB s opc g e) (body : Env → State) :
    issueB s opc g body = body e := by
  obtain ⟨h1, h2, h3, h4, h5⟩ := h
  exact issueLen_eq h1 h2 h3 h4 h5 body

theorem Env.mem_set {e : Env} {l : Nat} (h : l ∈ e.set) : l < e.w ∧ e.mask.getLsbD l = true := (maskList_maskOf_bound _ _ _).1 h
theorem Env.mem_perf {e : Env} {l : Nat} (h : l ∈ e.perf) : l ∈ e.set ∧ e.guard l = true := by simpa [Env.perf] using h
theorem Env.mem_exec {e : Env} {l : Nat} (h : l ∈ e.exec) : l ∈ e.set := by
  unfold Env.exec at h
  split at h
  · exact List.mem_of_mem_take h
  · exact (Env.mem_perf h).1
theorem Env.set_nodup (e : Env) : e.set.Nodup := by
  unfold Env.set maskList
  exact List.filter_sublist.nodup List.nodup_range
theorem Env.exec_nodup (e : Env) : e.exec.Nodup := by
  unfold Env.exec
  split
  · exact (List.take_sublist 1 e.set).nodup e.set_nodup
  · exact List.filter_sublist.nodup e.set_nodup
theorem Env.exec_uniform {e : Env} (h : e.uniform = true) : e.exec.length ≤ 1 := by
  simp only [Env.exec, h, if_true, List.length_take]; omega
theorem Env.bit_lt {e : Env} {l : Nat} (h : e.mask.getLsbD l = true) : l < 64 := by
  apply Classical.byContradiction; intro hl
  rw [BitVec.getLsbD_of_ge _ _ (Nat.le_of_not_lt hl)] at h; cases h

/-! ### Writes of an execution -/

/-- Destinations of a lane's writes are distinct. -/
def Distinct (ws : List Wr) : Prop := ws.Pairwise (fun a b => a.dest = b.dest → a.dest = .none)

theorem Group.put_has (g : Group) (k : Nat) (w : Wr) (l : Nat) (d : Dest) : (g.put k w).has l d = g.has l d := by
  cases d <;> simp [Group.has]
@[simp] theorem Group.putAll_length (g : Group) (k : Nat) (ws : List Wr) : (g.putAll k ws).lanes.length = g.lanes.length := by
  unfold Group.putAll
  induction ws generalizing g with
  | nil => rfl
  | cons w ws ih => rw [List.foldl_cons, ih]; simp
theorem Group.putAll_cons (g : Group) (k : Nat) (w : Wr) (ws : List Wr) : g.putAll k (w :: ws) = (g.put k w).putAll k ws := rfl
theorem Group.putAll_names (g : Group) (k : Nat) (ws : List Wr) :
    (g.putAll k ws).tag = g.tag ∧ (g.putAll k ws).team = g.team ∧ (g.putAll k ws).num = g.num := by
  induction ws generalizing g with
  | nil => exact ⟨rfl, rfl, rfl⟩
  | cons w ws ih =>
    obtain ⟨a, b, c⟩ := ih (g.put k w); obtain ⟨x, y, z⟩ := g.put_names k w
    exact ⟨a.trans x, b.trans y, c.trans z⟩
theorem Group.holds_putAll_other (g : Group) (k l : Nat) (ws : List Wr) (d : Dest)
    (h : ∀ w ∈ ws, w.dest = d → k ≠ l ∧ d.isS = false) : (g.putAll k ws).holds l d = g.holds l d := by
  induction ws generalizing g with
  | nil => rfl
  | cons w ws ih =>
    rw [Group.putAll_cons, ih _ (fun w' h' => h w' (List.mem_cons_of_mem _ h')), Group.holds_put_other _ _ _ _ _ (h w List.mem_cons_self)]
theorem Group.holds_putAll_mem (g : Group) (k : Nat) (ws : List Wr) (nd : Distinct ws) (w : Wr) (h : w ∈ ws)
    (has : g.has k w.dest = true) : (g.putAll k ws).holds k w.dest = w.left := by
  induction ws generalizing g with
  | nil => cases h
  | cons v ws ih =>
    rw [Group.putAll_cons]
    obtain ⟨n1, n2⟩ := List.pairwise_cons.1 nd
    rcases List.mem_cons.1 h with rfl | h'
    · rw [Group.holds_putAll_other, Group.holds_put_same _ _ _ has]
      intro x hx e
      have := n1 x hx e.symm
      rw [this] at has; simp [Group.has] at has
    · exact ih (g.put k v) n2 h' (by rw [Group.put_has]; exact has)

/-- A lane under a write: its registers only. -/
theorem Group.put_lane (g : Group) (k : Nat) (w : Wr) (l : Nat) (x : Lane) (h : g.lanes[l]? = some x) :
    ∃ y, (g.put k w).lanes[l]? = some y ∧ y = { x with v := y.v, spoilt := y.spoilt, p := y.p } := by
  unfold Group.put
  split
  · rw [Group.updLane_lane, h]; split <;> exact ⟨_, rfl, rfl⟩
  · exact ⟨x, h, rfl⟩
  · rw [Group.updLane_lane, h]; split <;> exact ⟨_, rfl, rfl⟩
  · exact ⟨x, h, rfl⟩
theorem Group.putAll_lane (g : Group) (k : Nat) (ws : List Wr) (l : Nat) (x : Lane) (h : g.lanes[l]? = some x) :
    ∃ y, (g.putAll k ws).lanes[l]? = some y ∧ y = { x with v := y.v, spoilt := y.spoilt, p := y.p } := by
  induction ws generalizing g x with
  | nil => exact ⟨x, h, rfl⟩
  | cons w ws ih =>
    obtain ⟨y, hy, e⟩ := g.put_lane k w l x h
    obtain ⟨z, hz, e'⟩ := ih (g.put k w) y hy
    refine ⟨z, hz, ?_⟩
    rw [e'] ; rw [e]
theorem Group.put_same (g : Group) (k : Nat) (w : Wr) : g.Same (g.put k w) := by
  refine ⟨?_, by simp⟩
  unfold Group.put; split <;> rfl
theorem Group.Same.trans {a b c : Group} (h : a.Same b) (h' : b.Same c) : a.Same c := by
  refine ⟨?_, h'.2.trans h.2⟩
  have e := h'.1; rw [h.1] at e; exact e
theorem Group.Same.refl (a : Group) : a.Same a := ⟨rfl, rfl⟩
theorem Group.Same.names {a b : Group} (h : a.Same b) : b.tag = a.tag ∧ b.team = a.team ∧ b.num = a.num := by
  have e := h.1
  exact ⟨by rw [e], by rw [e], by rw [e]⟩
theorem Group.putAll_same (g : Group) (k : Nat) (ws : List Wr) : g.Same (g.putAll k ws) := by
  induction ws generalizing g with
  | nil => exact Group.Same.refl g
  | cons w ws ih => exact (g.put_same k w).trans (ih _)
theorem Group.updMask_same (g : Group) (m : LaneMask) (f : Nat → Lane → Lane) : g.Same (g.updMask m f) := ⟨rfl, by simp⟩

theorem Group.holds_orFlags (g : Group) (m : LaneMask) (fl : BitVec 5) (l : Nat) (d : Dest) :
    (g.updMask m (fun _ x => x.orFlags fl)).holds l d = g.holds l d :=
  Group.holds_updMask g m (f := fun _ x => x.orFlags fl) (fun _ _ => ⟨rfl, rfl⟩) l d

/-! ### Executions of a set -/

/-- The executions of some lanes applied to a group (the fold of `Env.apply`). -/
def Env.applyTo (e : Env) (out : Nat → Out) (g : Group) (ls : List Nat) : Group :=
  ls.foldl (fun g k => (g.putAll k (out k).writes).updMask (e.flagMask k) (fun _ l => l.orFlags (out k).flags)) g
/-- `Env.apply` is that fold, with the order of the s registers written (R42) noted. -/
theorem Env.apply_eq (e : Env) (out : Nat → Out) (g : Group) : ∃ ns t, e.apply g (e.outs out) = (e.applyTo out g e.exec).ahead ns t := by
  refine ⟨(e.outs out).flatMap (fun x => sDests x.2.writes), e.s.nextId, ?_⟩
  unfold Env.apply Env.outs Env.applyTo
  rw [List.foldl_map]
theorem Group.ahead_same (g : Group) (ns : List Nat) (t : Nat) : g.Same (g.ahead ns t) := ⟨rfl, rfl⟩
@[simp] theorem Group.ahead_lanes (g : Group) (ns : List Nat) (t : Nat) : (g.ahead ns t).lanes = g.lanes := rfl
theorem Group.holds_ahead (g : Group) (ns : List Nat) (t : Nat) (l : Nat) (d : Dest) : (g.ahead ns t).holds l d = g.holds l d := by
  cases d <;> rfl
theorem Env.applyTo_nil (e : Env) (out : Nat → Out) (g : Group) : e.applyTo out g [] = g := rfl
theorem Env.applyTo_cons (e : Env) (out : Nat → Out) (g : Group) (k : Nat) (ls : List Nat) :
    e.applyTo out g (k :: ls) =
      e.applyTo out ((g.putAll k (out k).writes).updMask (e.flagMask k) (fun _ l => l.orFlags (out k).flags)) ls := rfl

theorem Env.applyTo_same (e : Env) (out : Nat → Out) (g : Group) (ls : List Nat) : g.Same (e.applyTo out g ls) := by
  induction ls generalizing g with
  | nil => exact Group.Same.refl g
  | cons k ls ih => exact ((g.putAll_same k _).trans (Group.updMask_same _ _ _)).trans (ih _)
theorem Env.applyTo_other (e : Env) (out : Nat → Out) (g : Group) (ls : List Nat) (l : Nat) (d : Dest)
    (h : ∀ k ∈ ls, ∀ w ∈ (out k).writes, w.dest = d → k ≠ l ∧ d.isS = false) : (e.applyTo out g ls).holds l d = g.holds l d := by
  induction ls generalizing g with
  | nil => rfl
  | cons k ls ih =>
    rw [Env.applyTo_cons, ih _ (fun k' h' => h k' (List.mem_cons_of_mem _ h')),
      Group.holds_orFlags, Group.holds_putAll_other _ _ _ _ _ (h k List.mem_cons_self)]
theorem Env.applyTo_mem (e : Env) (out : Nat → Out) (g : Group) (ls : List Nat) (nd : ls.Nodup) (k : Nat) (hk : k ∈ ls)
    (ds : Distinct (out k).writes) (w : Wr) (hw : w ∈ (out k).writes) (has : g.has k w.dest = true)
    (one : w.dest.isS = true → ls.length ≤ 1) : (e.applyTo out g ls).holds k w.dest = w.left := by
  induction ls generalizing g with
  | nil => cases hk
  | cons j ls ih =>
    rw [Env.applyTo_cons]
    obtain ⟨n1, n2⟩ := List.nodup_cons.1 nd
    rcases List.mem_cons.1 hk with rfl | hk'
    · rw [Env.applyTo_other, Group.holds_orFlags, Group.holds_putAll_mem _ _ _ ds _ hw has]
      intro i hi v hv ev
      refine ⟨fun h => n1 (h ▸ hi), ?_⟩
      cases hs : w.dest.isS with
      | false => rfl
      | true =>
        have := one hs
        simp only [List.length_cons] at this
        have : ls = [] := List.length_eq_zero_iff.1 (by omega)
        rw [this] at hi; cases hi
    · refine ih _ n2 hk' ?_ (fun h => by have := one h; simp only [List.length_cons] at this; omega)
      cases hd : w.dest with
      | v n => rw [hd] at has; simpa [Group.has] using has
      | s n => rfl
      | p n => rw [hd] at has; simpa [Group.has] using has
      | none => rw [hd] at has; simp [Group.has] at has
/-- A lane under the executions: registers, and the flags that reach it. -/
theorem Env.applyTo_lane (e : Env) (out : Nat → Out) (g : Group) (ls : List Nat) (l : Nat) (x : Lane) (h : g.lanes[l]? = some x) :
    ∃ y, (e.applyTo out g ls).lanes[l]? = some y ∧ y = { x with v := y.v, spoilt := y.spoilt, p := y.p, fstat := y.fstat } ∧
      y.fstat = ls.foldl (fun a k => if (e.flagMask k).getLsbD l then a ||| (out k).flags else a) x.fstat := by
  induction ls generalizing g x with
  | nil => exact ⟨x, h, rfl, rfl⟩
  | cons k ls ih =>
    obtain ⟨y, hy, ey⟩ := g.putAll_lane k (out k).writes l x h
    have hz : ((g.putAll k (out k).writes).updMask (e.flagMask k) (fun _ l => l.orFlags (out k).flags)).lanes[l]? =
        some (if (e.flagMask k).getLsbD l then y.orFlags (out k).flags else y) := by
      rw [Group.updMask_lane, hy]; rfl
    obtain ⟨z, h1, h2, h3⟩ := ih _ _ hz
    rw [Env.applyTo_cons]
    have fy : y.fstat = x.fstat := by rw [ey]
    refine ⟨z, h1, ?_, ?_⟩
    · rw [h2, ey]; split <;> rfl
    · rw [h3, List.foldl_cons]
      split <;> simp [Lane.orFlags, fy]

/-- A lane that no execution reaches. -/
theorem Env.applyTo_out (e : Env) (out : Nat → Out) (g : Group) (ls : List Nat) (l : Nat)
    (h : ∀ k ∈ ls, k ≠ l ∧ (e.flagMask k).getLsbD l = false) : (e.applyTo out g ls).lanes[l]? = g.lanes[l]? := by
  have one : ∀ (g : Group) (k : Nat) (ws : List Wr), k ≠ l → (g.putAll k ws).lanes[l]? = g.lanes[l]? := by
    intro g k ws hk
    induction ws generalizing g with
    | nil => rfl
    | cons w ws ih =>
      rw [Group.putAll_cons, ih]
      unfold Group.put
      split
      · rw [Group.updLane_lane, if_neg (Ne.symm hk)]
      · rfl
      · rw [Group.updLane_lane, if_neg (Ne.symm hk)]
      · rfl
  induction ls generalizing g with
  | nil => rfl
  | cons k ls ih =>
    obtain ⟨h1, h2⟩ := h k List.mem_cons_self
    rw [Env.applyTo_cons, ih _ (fun k' h' => h k' (List.mem_cons_of_mem _ h')), Group.updMask_lane, one g k _ h1]
    simp [h2]

/-- The flags that the executions leave a lane. -/
theorem Env.flags_fold (e : Env) (fl : Nat → BitVec 5) (l : Nat) (hm : l < 64) (a : BitVec 5) :
    e.exec.foldl (fun a k => if (e.flagMask k).getLsbD l then a ||| fl k else a) a = a ||| e.flagsTo fl l := by
  have hn := e.exec_nodup
  unfold Env.flagsTo
  cases hu : e.uniform with
  | true =>
    have := Env.exec_uniform hu
    simp only [if_true]
    match hx : e.exec with
    | [] => simp
    | [k] => simp only [List.foldl_cons, List.foldl_nil, Env.flagMask, hu, if_true]; split <;> simp
    | _ :: _ :: _ => rw [hx] at this; simp at this
  | false =>
    simp only [Bool.false_eq_true, if_false]
    generalize e.exec = ls at hn
    induction ls generalizing a with
    | nil => simp
    | cons k ls ih =>
      obtain ⟨n1, n2⟩ := List.nodup_cons.1 hn
      rw [List.foldl_cons, ih _ n2]
      have hk : (e.flagMask k).getLsbD l = decide (l = k) := by
        rw [Env.flagMask, hu, if_neg Bool.false_ne_true, getLsbD_maskOf]; simp [hm]
      rw [hk]
      by_cases hlk : l = k
      · subst hlk
        simp [n1]
      · simp [hlk]

/-! ### Moving on -/

theorem Lane.backEdge_keeps (l : Lane) (pc : DWord) : (l.backEdge pc).v = l.v ∧ (l.backEdge pc).p = l.p ∧ (l.backEdge pc).fstat = l.fstat := by
  unfold Lane.backEdge
  split
  · exact ⟨rfl, rfl, rfl⟩
  · rename_i r rest hr
    split
    · have h : ∀ v, (l.setLc rest.length v).v = l.v ∧ (l.setLc rest.length v).p = l.p ∧ (l.setLc rest.length v).fstat = l.fstat := by
        intro v; unfold Lane.setLc; split
        · exact ⟨rfl, rfl, rfl⟩
        · split <;> exact ⟨rfl, rfl, rfl⟩
      dsimp only
      split <;> exact h _
    · exact ⟨rfl, rfl, rfl⟩
theorem Lane.past_keeps (l : Lane) (opc : Nat) (pc : DWord) (len : Nat) (gd : Bool) (t : Option DWord) :
    (l.past opc pc len gd t).v = l.v ∧ (l.past opc pc len gd t).p = l.p ∧ (l.past opc pc len gd t).fstat = l.fstat := by
  unfold Lane.past
  simp only
  split
  · exact ⟨rfl, rfl, rfl⟩
  · exact Lane.backEdge_keeps _ pc
theorem Lane.setLc_eq (l : Lane) (i : Nat) (v : Word) : ∃ a b c, l.setLc i v = ({ l with
    lc0 := a, lc1 := b, lc2 := c } : Lane) := by
  unfold Lane.setLc
  split
  · exact ⟨v, l.lc1, l.lc2, rfl⟩
  · split
    · exact ⟨l.lc0, v, l.lc2, rfl⟩
    · exact ⟨l.lc0, l.lc1, v, rfl⟩
theorem Lane.backEdge_same (l : Lane) (pc : DWord) : ∃ y q a b c ls, l.backEdge pc = ({ l with
    yielded := y, pc := q, lc0 := a, lc1 := b, lc2 := c, loops := ls } : Lane) := by
  unfold Lane.backEdge
  split
  · exact ⟨_, _, _, _, _, _, rfl⟩
  · rename_i r rest hr
    split
    · obtain ⟨a, b, c, h⟩ := l.setLc_eq rest.length (l.lc rest.length - 1#32)
      simp only [h]
      split
      · exact ⟨_, _, _, _, _, _, rfl⟩
      · exact ⟨_, _, _, _, _, _, rfl⟩
    · exact ⟨_, _, _, _, _, _, rfl⟩
theorem Lane.past_same (l : Lane) (opc : Nat) (pc : DWord) (len : Nat) (gd : Bool) (t : Option DWord) :
    l.Same (l.past opc pc len gd t) ∧ (l.past opc pc len gd t).since = l.since + 1 ∧ (l.past opc pc len gd t).st = l.st := by
  unfold Lane.past
  simp only
  split
  · exact ⟨rfl, rfl, rfl⟩
  · obtain ⟨y, q, a, b, c, ls, h⟩ := Lane.backEdge_same ({ l with
      since := l.since + 1, closer := isCloser opc, irrev := l.irrev || (gd && irrevocable opc),
      xfer := l.xfer || (gd && isXfer opc), pc := t.getD (pc + BitVec.ofNat 64 len) } : Lane) pc
    simp only [h]
    exact ⟨rfl, trivial, trivial⟩
/-- Without a loop's end there, a lane stands at its target, or at the next instruction. -/
theorem Lane.past_noEdge (l : Lane) (opc : Nat) (pc : DWord) (len : Nat) (gd : Bool) (t : Option DWord) (h : l.noEdge pc = true) :
    (l.past opc pc len gd t).pc = t.getD (pc + BitVec.ofNat 64 len) ∧ (l.past opc pc len gd t).yielded = l.yielded ∧
    (l.past opc pc len gd t).loops = l.loops ∧ (l.past opc pc len gd t).lc0 = l.lc0 ∧
    (l.past opc pc len gd t).lc1 = l.lc1 ∧ (l.past opc pc len gd t).lc2 = l.lc2 := by
  unfold Lane.noEdge at h
  unfold Lane.past Lane.backEdge
  cases hl : l.loops with
  | nil => simp only; split <;> exact ⟨rfl, rfl, rfl, rfl, rfl, rfl⟩
  | cons r rs =>
    rw [hl] at h
    simp only [Bool.not_eq_true', Bool.and_eq_false_iff, beq_eq_false_iff_ne] at h
    have : ¬ (r.last = pc ∧ r.depth = l.frames.length) := fun ⟨a, b⟩ => h.elim (fun x => x a) (fun x => x b)
    simp only [this, if_false]
    split <;> exact ⟨rfl, rfl, rfl, rfl, rfl, rfl⟩

/-- What a lane of the set is after the end of an issue: past the instruction, and draining where the marker says so. -/
def Env.after (e : Env) (s : State) (target : Nat → Option DWord) (i : Nat) (x : Lane) : Lane :=
  let y := x.past e.opc e.pc e.len (e.guard i) (target i)
  if (e.f.sw = false ∧ impliesMarker e.opc = false) ∨ ¬ (y.st = .running ∧ s.outstanding e.grid.tag e.team.idx e.grp.num i = true) then y
  else { y with st := .draining }

theorem updFirst_updFirst {β : Type} {p : β → Bool} {f g : β → β} (l : List β) (keep : ∀ x, p x = true → p (f x) = true) :
    updFirst p g (updFirst p f l) = updFirst p (fun x => g (f x)) l := by
  induction l with
  | nil => rfl
  | cons x xs ih =>
    by_cases h : p x = true
    · simp [updFirst, h, keep x h]
    · simp [updFirst, h, ih]
theorem State.updGroup_updGroup (s : State) (tag team num : Nat) (f g : Group → Group)
    (keep : ∀ x, (f x).tag = x.tag ∧ (f x).team = x.team ∧ (f x).num = x.num) :
    (s.updGroup tag team num f).updGroup tag team num g = s.updGroup tag team num (fun x => g (f x)) := by
  unfold State.updGroup
  simp only
  rw [updFirst_updFirst _ (fun x h => ?_)]
  obtain ⟨a, b, c⟩ := keep x; obtain ⟨h1, h2, h3⟩ := Group.is_iff.1 h
  exact Group.is_iff.2 ⟨a.trans h1, b.trans h2, c.trans h3⟩

theorem State.outstanding_updGroup (s : State) (a b c : Nat) (f : Group → Group) (tag team num l : Nat) :
    (s.updGroup a b c f).outstanding tag team num l = s.outstanding tag team num l := rfl

/-- The end of an issue, as one change of the group. -/
theorem Env.retire_eq (e : Env) (s : State) (target : Nat → Option DWord) :
    e.retire s target = s.updGroup e.grid.tag e.team.idx e.grp.num (fun g => g.updMask e.mask (fun i x => e.after s target i x)) := by
  unfold Env.retire State.mark
  split
  · rename_i h
    congr 1; funext g; congr 1; funext i x
    simp [Env.after, h]
  · rename_i h
    rw [State.updGroup_updGroup _ _ _ _
      (fun g => g.updMask e.mask (fun i l => l.past e.opc e.pc e.len (e.guard i) (target i))) _ (fun x => ⟨rfl, rfl, rfl⟩)]
    congr 1; funext g
    simp only [Group.updMask]
    congr 1
    apply List.ext_getElem?
    intro i
    simp only [List.getElem?_mapIdx, State.outstanding_updGroup]
    cases g.lanes[i]? with
    | none => rfl
    | some x =>
      simp only [Option.map_some, Option.some.injEq]
      by_cases hm : e.mask.getLsbD i = true
      · simp only [hm, if_true, Env.after, h, false_or]
        by_cases hy : (Lane.past x e.opc e.pc e.len (e.guard i) (target i)).st = .running ∧ s.outstanding e.grid.tag e.team.idx e.grp.num i = true
        · simp [hy]
        · simp only [hy, not_false_eq_true, if_true, if_false]
      · simp [hm]

theorem Env.after_keeps (e : Env) (s : State) (target : Nat → Option DWord) (i : Nat) (x : Lane) :
    (e.after s target i x).v = x.v ∧ (e.after s target i x).p = x.p ∧ (e.after s target i x).fstat = x.fstat := by
  have := x.past_keeps e.opc e.pc e.len (e.guard i) (target i)
  unfold Env.after
  simp only
  split <;> exact this
theorem Env.after_same (e : Env) (s : State) (target : Nat → Option DWord) (i : Nat) (x : Lane) :
    x.Same (e.after s target i x) ∧ (e.after s target i x).since = x.since + 1 ∧
    (e.f.sw = false → impliesMarker e.opc = false → (e.after s target i x).st = x.st) := by
  obtain ⟨h1, h2, h3⟩ := x.past_same e.opc e.pc e.len (e.guard i) (target i)
  unfold Env.after
  simp only
  split
  · exact ⟨h1, h2, fun _ _ => h3⟩
  · rename_i h
    refine ⟨?_, h2, fun a b => absurd (Or.inl ⟨a, b⟩) h⟩
    have e1 := h1
    unfold Lane.Same at e1 ⊢
    exact congrArg (fun z : Lane => ({ z with
      st := .draining } : Lane)) e1
theorem Env.after_noEdge (e : Env) (s : State) (i : Nat) (x : Lane) (h : x.noEdge e.pc = true) :
    (e.after s noTarget i x).pc = e.pc + BitVec.ofNat 64 e.len ∧ (e.after s noTarget i x).yielded = x.yielded ∧
    (e.after s noTarget i x).loops = x.loops ∧ (e.after s noTarget i x).lc0 = x.lc0 ∧ (e.after s noTarget i x).lc1 = x.lc1 ∧
    (e.after s noTarget i x).lc2 = x.lc2 := by
  have := x.past_noEdge e.opc e.pc e.len (e.guard i) none h
  unfold Env.after noTarget
  simp only
  split <;> exact this

theorem Lane.Same.trans {a b c : Lane} (h : a.Same b) (h' : b.Same c) : a.Same c := by
  unfold Lane.Same at *
  rw [h] at h'
  exact h'

/-- An effect on the group, then the end of the issue, as one change of the group. -/
theorem Env.retire_upd (e : Env) (u : State) {F : Group → Group} (hF : ∀ g : Group, g.Same (F g)) (target : Nat → Option DWord) :
    e.retire (u.updGroup e.grid.tag e.team.idx e.grp.num F) target =
      u.updGroup e.grid.tag e.team.idx e.grp.num (fun g => (F g).updMask e.mask (fun i x => e.after u target i x)) := by
  rw [Env.retire_eq, State.updGroup_updGroup _ _ _ _ _ _ (fun x => (hF x).names)]
  rfl

/-- The group after an effect on registers and flags and the end of the issue. -/
theorem Env.steps_of (e : Env) (u : State) {G : Group} (hG : e.grp.Same G)
    (hl : ∀ l x, e.grp.lanes[l]? = some x → ∃ y, G.lanes[l]? = some y ∧ y = { x with v := y.v, spoilt := y.spoilt, p := y.p, fstat := y.fstat } ∧
      (e.mask.getLsbD l = false → y = x)) :
    e.Steps (G.updMask e.mask (fun i x => e.after u noTarget i x)) := by
  refine ⟨hG.trans (Group.updMask_same _ _ _), fun l h => ?_⟩
  obtain ⟨y, hy, e1, e2⟩ := hl l _ (List.getElem?_eq_getElem h)
  rw [Group.updMask_lane, hy, Option.map_some]
  refine ⟨_, rfl, fun hm => ?_, fun hm => ?_⟩
  · rw [if_neg (by simp [hm]), e2 hm]
  · rw [if_pos hm]
    generalize hx : e.grp.lanes[l] = x at e1 e2 ⊢
    obtain ⟨a1, a2, a3⟩ := e.after_same u noTarget l y
    have xy : x.Same y := by unfold Lane.Same; rw [e1]
    have ysince : y.since = x.since := by rw [e1]
    have yst : y.st = x.st := by rw [e1]
    have yl : y.loops = x.loops ∧ y.frames = x.frames ∧ y.yielded = x.yielded ∧ y.lc0 = x.lc0 ∧ y.lc1 = x.lc1 ∧ y.lc2 = x.lc2 := by
      rw [e1]; exact ⟨rfl, rfl, rfl, rfl, rfl, rfl⟩
    refine ⟨xy.trans a1, by rw [a2, ysince], fun b c => (a3 b c).trans yst, fun hn => ?_⟩
    have hn' : y.noEdge e.pc = true := by unfold Lane.noEdge at hn ⊢; rw [yl.1, yl.2.1]; exact hn
    obtain ⟨b1, b2, b3, b4, b5, b6⟩ := e.after_noEdge u l y hn'
    exact ⟨b1, b2.trans yl.2.2.1, b3.trans yl.1, b4.trans yl.2.2.2.1, b5.trans yl.2.2.2.2.1, b6.trans yl.2.2.2.2.2⟩

theorem Group.holds_after (e : Env) (u : State) (target : Nat → Option DWord) (G : Group) (l : Nat) (d : Dest) :
    (G.updMask e.mask (fun i x => e.after u target i x)).holds l d = G.holds l d :=
  Group.holds_updMask G e.mask (f := fun i x => e.after u target i x)
    (fun i x => ⟨(e.after_keeps u target i x).1, (e.after_keeps u target i x).2.1⟩) l d

/-- A change of the current group under names that stay. -/
theorem Env.only_upd (e : Env) {s : State} {F : Group → Group} (hF : ∀ g : Group, g.Same (F g)) :
    e.Only s (s.updGroup e.grid.tag e.team.idx e.grp.num F) :=
  ⟨rfl, fun _ _ _ ne => State.group?_updGroup_other s (fun g => (hF g).names) ne⟩

/-! ### The two ways of completing -/

theorem filterMap_eq_nil {β γ : Type} {f : β → Option γ} {l : List β} (h : ∀ x ∈ l, f x = none) : l.filterMap f = [] := by
  induction l with
  | nil => rfl
  | cons x xs ih => rw [List.filterMap_cons, h x List.mem_cons_self]; exact ih (fun y hy => h y (List.mem_cons_of_mem _ hy))

/-- What a fixed-latency effect does from a context in which nothing traps. -/
theorem Env.fixed_spec {e : Env} {s : State} (hs : e.s = s) (hg : s.group? e.grid.tag e.team.idx e.grp.num = some e.grp)
    (out : Nat → Out) (fn : Env → Nat → Out) (hf : fn e = out) (nt : e.NoTrap out) (ds : ∀ l, Distinct (out l).writes) :
    e.Fixed s (fixed fn e) out := by
  have hff : e.faults (e.outs (fn e)) = [] := by
    rw [hf]
    refine filterMap_eq_nil (fun x hx => ?_)
    obtain ⟨l, hl, rfl⟩ := List.mem_map.1 hx
    obtain ⟨h1, h2⟩ := nt l hl
    simp [Env.faultOf, h1, h2]
  have ap : ∀ g : Group, g.Same (e.apply g (e.outs out)) := by
    intro g
    obtain ⟨ns, st, h⟩ := e.apply_eq out g
    rw [h]; exact (e.applyTo_same out g e.exec).trans (Group.ahead_same _ _ _)
  have ht : fixed fn e = s.updGroup e.grid.tag e.team.idx e.grp.num
      (fun g => (e.apply g (e.outs out)).updMask e.mask (fun i x => e.after s noTarget i x)) := by
    unfold fixed
    simp only [hff]
    rw [hs, hf]
    exact e.retire_upd s (F := fun g => e.apply g (e.outs out)) ap noTarget
  have hS : ∀ g : Group, g.Same ((e.apply g (e.outs out)).updMask e.mask (fun i x => e.after s noTarget i x)) :=
    fun g => (ap g).trans (Group.updMask_same _ _ _)
  have hgt : e.grp? (fixed fn e) = some ((e.apply e.grp (e.outs out)).updMask e.mask (fun i x => e.after s noTarget i x)) := by
    rw [ht, Env.grp?, State.group?_updGroup s _ _ _ (fun g => (hS g).names), hg]; rfl
  obtain ⟨ns, st, hap⟩ := e.apply_eq out e.grp
  have hal : (e.apply e.grp (e.outs out)).lanes = (e.applyTo out e.grp e.exec).lanes := by rw [hap]; rfl
  have hah : ∀ l d, (e.apply e.grp (e.outs out)).holds l d = (e.applyTo out e.grp e.exec).holds l d := by
    intro l d; rw [hap, Group.holds_ahead]
  have fm : ∀ k l, k ∈ e.exec → e.mask.getLsbD l = false → (e.flagMask k).getLsbD l = false := by
    intro k l hk hm
    unfold Env.flagMask
    split
    · exact hm
    · rw [getLsbD_maskOf]
      by_cases hkl : l = k
      · subst hkl; rw [(Env.mem_set (Env.mem_exec hk)).2] at hm; cases hm
      · simp [hkl]
  refine ⟨ht ▸ e.only_upd hS, _, hgt, e.steps_of s (ap e.grp) ?_, ⟨?_, ?_⟩, ?_⟩
  · intro l x hx
    obtain ⟨y, h1, h2, h3⟩ := e.applyTo_lane out e.grp e.exec l x hx
    refine ⟨y, by rw [hal]; exact h1, h2, fun hm => ?_⟩
    have := e.applyTo_out out e.grp e.exec l (fun k hk => ⟨fun hkl => (by
      have := (Env.mem_set (Env.mem_exec hk)).2
      rw [hkl, hm] at this; cases this), fm k l hk hm⟩)
    rw [h1, hx] at this
    exact Option.some.inj this
  · intro l hl w hw has one
    rw [Group.holds_after, hah]
    exact e.applyTo_mem out e.grp e.exec e.exec_nodup l hl (ds l) w hw has (fun hS => Env.exec_uniform (one hS))
  · intro l d h
    rw [Group.holds_after, hah]
    exact e.applyTo_other out e.grp e.exec l d h
  · intro l x y hx hy
    obtain ⟨z, h1, h2, h3⟩ := e.applyTo_lane out e.grp e.exec l x hx
    rw [Group.updMask_lane, hal, h1, Option.map_some, Option.some.injEq] at hy
    have hz : y.fstat = z.fstat := by
      rw [← hy]; split
      · exact (e.after_keeps s noTarget l z).2.2
      · rfl
    rw [hz, h3]
    by_cases hl : l < 64
    · exact e.flags_fold (fun k => (out k).flags) l hl x.fstat
    · have hm : e.mask.getLsbD l = false := BitVec.getLsbD_of_ge _ _ (Nat.le_of_not_lt hl)
      have h0 : e.flagsTo (fun k => (out k).flags) l = 0#5 := by
        unfold Env.flagsTo
        split
        · split
          · simp [hm]
          · rfl
        · have : e.exec.contains l = false := by
            cases hc : e.exec.contains l with
            | false => rfl
            | true =>
              have := (Env.mem_set (Env.mem_exec (List.contains_iff_mem.1 hc))).2
              rw [this] at hm; cases hm
          rw [this]; rfl
      rw [h0, BitVec.or_zero]
      have : ∀ (ls : List Nat) (a : BitVec 5), (∀ k ∈ ls, (e.flagMask k).getLsbD l = false) →
          ls.foldl (fun a k => if (e.flagMask k).getLsbD l then a ||| (out k).flags else a) a = a := by
        intro ls
        induction ls with
        | nil => intro a _; rfl
        | cons k ls ih =>
          intro a hk
          rw [List.foldl_cons, if_neg (by simp [hk k List.mem_cons_self])]
          exact ih a (fun k' h' => hk k' (List.mem_cons_of_mem _ h'))
      exact this _ _ (fun k hk => fm k l hk hm)

/-- What a variable-latency effect does from a context in which nothing faults. -/
theorem Env.later_spec {e : Env} {s : State} (hs : e.s = s) (hg : s.group? e.grid.tag e.team.idx e.grp.num = some e.grp)
    (out : Nat → Out) (fn : Env → Nat → Out) (hf : fn e = out) (nt : ∀ l ∈ e.exec, (out l).fault = none) :
    e.Later s (variable_ fn e) out := by
  have hff : (e.outs (fn e)).filterMap (fun x => x.2.fault.map (fun y => (x.1, y.1, y.2))) = [] := by
    rw [hf]
    refine filterMap_eq_nil (fun x hx => ?_)
    obtain ⟨l, hl, rfl⟩ := List.mem_map.1 hx
    simp [nt l hl]
  have ht : variable_ fn e = e.retire (if (e.outs out).isEmpty then s else s.addResult (e.resultOf s.nextId (e.outs out))) noTarget := by
    unfold variable_
    simp only [hff]
    rw [hs, hf]
  have key : ∀ (R : List Result) (N : Nat),
      (if e.exec = [] then R = s.results else
        ∃ r, R = s.results ++ [r] ∧ r.tag = e.grid.tag ∧ r.team = e.team.idx ∧ r.grp = e.grp.num ∧ r.pc = e.pc ∧
          r.issue = s.nextId ∧ r.uni = e.uniform ∧ r.coll = false ∧ r.lanes = (if e.uniform then e.mask else maskOf e.exec) ∧ r.writes = e.exec.map (fun l => (l, (out l).writes)) ∧
          r.flags = e.exec.map (fun l => (l, (out l).flags))) →
      e.Later s (e.retire ({ s with
        results := R, nextId := N } : State) noTarget) out := by
    intro R N hres
    rw [Env.retire_eq]
    let u : State := { s with
      results := R, nextId := N }
    refine ⟨rfl, hres, e.grp.updMask e.mask (fun i x => e.after u noTarget i x), ?_, e.steps_of u (Group.Same.refl e.grp) ?_,
      fun l d => Group.holds_after e u noTarget e.grp l d⟩
    · rw [Env.grp?, State.group?_updGroup u _ _ _ (f := fun g => g.updMask e.mask (fun i x => e.after u noTarget i x))
        (fun _ => ⟨rfl, rfl, rfl⟩)]
      exact congrArg (Option.map _) hg
    · exact fun l x hx => ⟨x, hx, rfl, fun _ => rfl⟩
  rw [ht]
  by_cases hx : e.exec = []
  · rw [if_pos (by simp [Env.outs, hx])]
    exact key s.results s.nextId (by rw [if_pos hx])
  · rw [if_neg (by simp [Env.outs, hx])]
    refine key _ _ ?_
    rw [if_neg hx]
    refine ⟨_, rfl, rfl, rfl, rfl, rfl, rfl, rfl, rfl, ?_, ?_, ?_⟩ <;> simp [Env.resultOf, Env.outs, Function.comp_def]

/-- An instruction whose effect is a fixed-latency one completes. -/
theorem completesFixed {i : Fields → Instr} {opc : Nat} (fn : Env → Nat → Out) {out : Env → Nat → Out}
    (hi : ∀ f s, exec (i f) s = .next (issue s opc f (fixed fn))) (hf : ∀ e, fn e = out e)
    (ds : ∀ e l, Distinct (out e l).writes) : CompletesFixed i opc out := by
  intro s f e h nt
  obtain ⟨h1, -, -, -, -, -, -, -, hg, -⟩ := envOf_spec h.2.1
  exact ⟨_, (hi f s).trans (by rw [issue_eq h]), e.fixed_spec h1 hg (out e) fn (hf e) nt (ds e)⟩
theorem completesFixedB {i : BFields → Instr} {opc : Nat} (fn : Env → Nat → Out) {out : Env → Nat → Out}
    (hi : ∀ g s, exec (i g) s = .next (issueB s opc g (fixed fn))) (hf : ∀ e, fn e = out e)
    (ds : ∀ e l, Distinct (out e l).writes) : CompletesFixedB i opc out := by
  intro s g e h nt
  obtain ⟨h1, -, -, -, -, -, -, -, hg, -⟩ := envOf_spec h.2.1
  exact ⟨_, (hi g s).trans (by rw [issueB_eq h]), e.fixed_spec h1 hg (out e) fn (hf e) nt (ds e)⟩
/-- An instruction whose effect is a variable-latency one completes. -/
theorem completesLater {i : Fields → Instr} {opc : Nat} (fn : Env → Nat → Out) {out : Env → Nat → Out}
    (hi : ∀ f s, exec (i f) s = .next (issue s opc f (variable_ fn))) (hf : ∀ e, fn e = out e) : CompletesLater i opc out := by
  intro s f e h nt
  obtain ⟨h1, -, -, -, -, -, -, -, hg, -⟩ := envOf_spec h.2.1
  exact ⟨_, (hi f s).trans (by rw [issue_eq h]), e.later_spec h1 hg (out e) fn (hf e) nt⟩

/-- Registers of one field are distinct destinations, whatever the span; one predicate is. -/
theorem Env.wrD_distinct (e : Env) (l span val : Nat) : Distinct (e.wrD l span val) := by
  unfold Env.wrD Distinct
  rw [List.pairwise_map]
  refine List.Pairwise.imp ?_ (List.nodup_range (n := span))
  intro a b ne
  simp only [Env.destAt]
  split <;> simp <;> omega
theorem wrP_distinct (x : BitVec 8) (b : Bool) : Distinct (wrP x b) := by
  unfold wrP Distinct; split <;> simp

end Sys2Proof.Machine
end

