-- ==== Sys2Proof/Laws/Value.lean ====
section
/-! SUPPORT. Bounds and bits of the values that the rules compute, and the destinations of their writes. -/

namespace Sys2Proof.Machine

theorem Env.gives_distinct (e : Env) (l a b : Nat) (f : BitVec 5) : Distinct (e.gives l a b f).writes := e.wrD_distinct l a b
theorem Env.givesP_distinct (e : Env) (b : Bool) (f : BitVec 5) : Distinct (e.givesP b f).writes := wrP_distinct _ _
theorem wrap_lt (w : Nat) (x : Int) : wrap w x < 2 ^ w := by
  unfold wrap
  have h : (0 : Int) < 2 ^ w := by exact_mod_cast Nat.two_pow_pos w
  have := Int.emod_lt_of_pos x h
  have := Int.emod_nonneg x (Int.ne_of_gt h)
  have e : ((2 ^ w : Nat) : Int) = 2 ^ w := by push_cast; rfl
  omega
theorem wrap_mod (w : Nat) (x : Int) : wrap w x % 2 ^ w = wrap w x := Nat.mod_eq_of_lt (wrap_lt w x)

theorem spanOf_lt (r : Nat → Nat) (h : ∀ n, r n < 2 ^ 32) (k n : Nat) : spanOf r n k < 2 ^ (32 * k) := by
  induction k generalizing n with
  | zero => simp [spanOf]
  | succ k ih =>
    have := ih (n + 1); have := h n
    rw [spanOf, Nat.mul_succ, Nat.pow_add]
    have h3 : spanOf r (n+1) k + 1 ≤ 2 ^ (32 * k) := ih (n+1)
    have := Nat.mul_le_mul_right (2^32) h3
    omega
theorem figLane_lt {w l fig par : Nat} (h : l < 64) (h0 : fig = 0) : figLane w l fig par < 64 := by subst h0; exact h
theorem Env.raw_lt {e : Env} {l : Nat} (h : l < 64) (x : BitVec 8) (m : BitVec 10) (k : Nat) : e.raw l x m (k + 1) < 2 ^ (32 * (k + 1)) := by
  unfold Env.raw
  simp only
  have hp := Nat.two_pow_pos (32 * (k + 1))
  have h64 : 64 ≤ 2 ^ (32 * (k + 1)) := Nat.le_trans (by decide : 64 ≤ 2 ^ 6) (Nat.pow_le_pow_right (by decide) (by omega))
  split
  · exact hp
  · rename_i hf
    split
    · exact spanOf_lt _ (fun n => BitVec.isLt _) _ _
    · exact spanOf_lt _ (fun n => BitVec.isLt _) _ _
    · exact hp
    · refine Nat.lt_of_lt_of_le ?_ h64
      by_cases h0 : modFig m = 0
      · rw [h0]; exact h
      · have : e.mask.getLsbD (figLane e.w l (modFig m) (modPar m)) = true := by
          simpa [h0] using hf
        exact Env.bit_lt this
    · exact Nat.mod_lt _ hp
    · exact hp
theorem sext_lt (w x : Nat) : sext w 32 x < 2 ^ 32 := wrap_lt _ _
theorem selScalar_lt (z : Bool) (s v : Nat) (h : v < 2 ^ 32) : selScalar z s v < 2 ^ 32 := by
  have part : ∀ w k : Nat, w ≤ 32 → (if z then (v >>> (w * k)) % 2 ^ w else sext w 32 ((v >>> (w * k)) % 2 ^ w)) < 2 ^ 32 := by
    intro w k hw; split
    · exact Nat.lt_of_lt_of_le (Nat.mod_lt _ (Nat.two_pow_pos _)) (Nat.pow_le_pow_right (by decide) hw)
    · exact sext_lt _ _
  unfold selScalar
  simp only
  split
  · exact h
  · split
    · exact part 16 0 (by decide)
    · split
      · exact part 16 1 (by decide)
      · split
        · omega
        · split
          · exact part 8 _ (by decide)
          · exact part 4 _ (by decide)
theorem Env.exec_lt {e : Env} {l : Nat} (h : l ∈ e.exec) : l < 64 := Env.bit_lt (Env.mem_set (Env.mem_exec h)).2
theorem Env.uA_lt {e : Env} {l : Nat} (h : l ∈ e.exec) : e.uA l < 2 ^ e.wid := by
  unfold Env.uA Env.wid subWidth
  split
  · exact Env.raw_lt (Env.exec_lt h) _ _ 1
  · exact selScalar_lt _ _ _ (Env.raw_lt (Env.exec_lt h) _ _ 0)
theorem Env.uB_lt {e : Env} {l : Nat} (h : l ∈ e.exec) : e.uB l < 2 ^ e.wid := by
  unfold Env.uB Env.wid subWidth
  split
  · exact Env.raw_lt (Env.exec_lt h) _ _ 1
  · exact selScalar_lt _ _ _ (Env.raw_lt (Env.exec_lt h) _ _ 0)
theorem b2n_eq (b : Bool) : b2n b = b.toNat := by cases b <;> rfl
theorem forBits_lt (b : Nat → Bool) (n : Nat) : forN n (fun i d => d + b2n (b i) * 2 ^ i) 0 < 2 ^ n := by
  induction n with
  | zero => simp [forN]
  | succ n ih => 
    have : b2n (b n) ≤ 1 := by cases b n <;> decide
    have h2 := Nat.mul_le_mul_right (2 ^ n) this
    rw [forN_succ, Nat.pow_succ]; omega
theorem forBits_bit (b : Nat → Bool) (n i : Nat) (h : i < n) : (forN n (fun i d => d + b2n (b i) * 2 ^ i) 0).testBit i = b i := by
  induction n with
  | zero => omega
  | succ n ih =>
    rw [forN_succ]
    have hl := forBits_lt b n
    by_cases hi : i = n
    · subst hi
      rw [Nat.add_comm, Nat.mul_comm, Nat.testBit_two_pow_mul_add _ hl]
      simp [b2n]; cases b i <;> rfl
    · rw [Nat.add_comm, Nat.mul_comm, Nat.testBit_two_pow_mul_add _ hl]
      simp [show i < n by omega, ih (by omega)]

end Sys2Proof.Machine
end

