-- ==== Sys2Proof/Laws/Moves.lean ====
section
/-! SUPPORT. Instructions that change lanes only, and faults taken: what the end of an issue leaves of each lane, and what
a fault leaves of the grid and the group. -/

namespace Sys2Proof.Machine

/-- An instruction whose meaning is an issue gives what its effect gives. -/
theorem Gives.issue {i : Instr} {s : State} {opc : Nat} {f : Fields} {e : Env} {body : Env → State} {P : State → Prop}
    (h : Issues s opc f e) (hx : exec i s = .next (Machine.issue s opc f body)) (hp : P (body e)) : Gives i s P :=
  ⟨_, hx, by rw [issue_eq h]; exact hp⟩
theorem Gives.issueB {i : Instr} {s : State} {opc : Nat} {f : BFields} {e : Env} {body : Env → State} {P : State → Prop}
    (h : IssuesB s opc f e) (hx : exec i s = .next (Machine.issueB s opc f body)) (hp : P (body e)) : Gives i s P :=
  ⟨_, hx, by rw [issueB_eq h]; exact hp⟩
/-- What a context says of the state, in short. -/
theorem Issues.ctx {s : State} {opc : Nat} {f : Fields} {e : Env} (h : Issues s opc f e) :
    e.s = s ∧ e.opc = opc ∧ e.f = f ∧ s.grid? e.grid.tag = some e.grid ∧ s.team? e.grid.tag e.team.idx = some e.team ∧
    s.group? e.grid.tag e.team.idx e.grp.num = some e.grp := by
  obtain ⟨a, b, c, -, -, -, d, x, y, -⟩ := envOf_spec h.2.1
  exact ⟨a, b, c, d, x, y⟩
theorem IssuesB.ctx {s : State} {opc : Nat} {f : BFields} {e : Env} (h : IssuesB s opc f e) :
    e.s = s ∧ e.opc = opc ∧ e.f = Fields.ofB opc f ∧ s.grid? e.grid.tag = some e.grid ∧ s.team? e.grid.tag e.team.idx = some e.team ∧
    s.group? e.grid.tag e.team.idx e.grp.num = some e.grp := by
  obtain ⟨a, b, c, -, -, -, d, x, y, -⟩ := envOf_spec h.2.1
  exact ⟨a, b, c, d, x, y⟩

/-- Checks that all performing lanes pass, or that all fail alike. -/
theorem Env.checked_ok {e : Env} {chk : Nat → Option (Nat × Nat)} (st : State) (h : ∀ l ∈ e.perf, chk l = none) : e.checked chk st = st := by
  unfold Env.checked
  rw [filterMap_eq_nil (fun l hl => by rw [h l hl]; rfl)]
theorem Env.checked_all {e : Env} {chk : Nat → Option (Nat × Nat)} (st : State) (h0 : e.perf ≠ []) (c a : Nat)
    (h : ∀ l ∈ e.perf, chk l = some (c, a)) : e.checked chk st = e.fail (e.perf.map (fun l => (l, c, a))) := by
  unfold Env.checked
  have : e.perf.filterMap (fun l => (chk l).map (fun x => (l, x.1, x.2))) = e.perf.map (fun l => (l, c, a)) := by
    revert h; generalize e.perf = ls; intro h
    induction ls with
    | nil => rfl
    | cons x xs ih => simp [h x (by simp), ih (fun y hy => h y (by simp [hy]))]
  rw [this]
  split
  · rename_i hh; simp at hh; exact absurd hh h0
  · rfl

/-- A lane past the instruction stands at its target, or at the next instruction: always after a call or a return, otherwise
where no loop ends. -/
theorem Env.after_at (e : Env) (s : State) (target : Nat → Option DWord) (i : Nat) (x : Lane)
    (h : x.noEdge e.pc = true ∨ ((target i).isSome = true ∧ (e.opc = 3 ∨ e.opc = 4 ∨ e.opc = 5))) :
    x.At (e.after s target i x) ((target i).getD e.nextPc) := by
  unfold Env.after Lane.At Env.nextPc
  have hp : x.past e.opc e.pc e.len (e.guard i) (target i) = ({ x with
      since := x.since + 1, closer := isCloser e.opc, irrev := x.irrev || (e.guard i && irrevocable e.opc),
      xfer := x.xfer || (e.guard i && isXfer e.opc), pc := (target i).getD (e.pc + BitVec.ofNat 64 e.len) } : Lane) := by
    unfold Lane.past
    simp only
    split
    · rfl
    · rename_i hc
      have hn : x.noEdge e.pc = true := h.elim id (fun hh => absurd (by
        obtain ⟨h1, h2⟩ := hh
        rcases h2 with h2 | h2 | h2 <;> simp [h1, h2]) hc)
      unfold Lane.noEdge at hn
      unfold Lane.backEdge
      cases hl : x.loops with
      | nil => rfl
      | cons r rs =>
        rw [hl] at hn
        simp only [Bool.not_eq_true', Bool.and_eq_false_iff, beq_eq_false_iff_ne] at hn
        have : ¬ (r.last = e.pc ∧ r.depth = x.frames.length) := fun ⟨a, b⟩ => hn.elim (fun x => x a) (fun x => x b)
        simp only [if_neg this]
  simp only [hp]
  split
  · exact ⟨rfl, Or.inl rfl⟩
  · rename_i hh
    exact ⟨rfl, Or.inr ⟨(Classical.not_not.1 (fun h' => hh (Or.inr h'))).1, rfl⟩⟩
/-- A transfer, but for a call or a return, leaves a lane at its target where no loop ends. -/
theorem Env.after_goes (e : Env) (s : State) {target : Nat → Option DWord} {i : Nat} {t : DWord} (h : target i = some t) (x : Lane) :
    e.Goes x (e.after s target i x) t := fun hn => by
  have := e.after_at s target i x (Or.inl hn); rwa [h] at this
/-- A call or a return leaves a lane at its target. -/
theorem Env.after_jump (e : Env) (s : State) {target : Nat → Option DWord} {i : Nat} {t : DWord} (h : target i = some t)
    (ho : e.opc = 3 ∨ e.opc = 4 ∨ e.opc = 5) (x : Lane) : x.At (e.after s target i x) t := by
  have := e.after_at s target i x (Or.inr ⟨by rw [h]; rfl, ho⟩); rwa [h] at this
/-- Without a transfer, and where no loop ends, a lane falls through. -/
theorem Env.after_falls (e : Env) (s : State) {target : Nat → Option DWord} {i : Nat} (h : target i = none) (x : Lane) :
    e.Falls x (e.after s target i x) := fun hn => by
  have := e.after_at s target i x (Or.inl hn); rwa [h] at this
theorem Env.after_since (e : Env) (s : State) (target : Nat → Option DWord) (i : Nat) (x : Lane) :
    (e.after s target i x).since = x.since + 1 := (e.after_same s target i x).2.1

theorem Env.lanes_upd (e : Env) (u : State) {G : Group → Group} (hu : u.group? e.grid.tag e.team.idx e.grp.num = some e.grp)
    (names : ∀ g, (G g).tag = g.tag ∧ (G g).team = g.team ∧ (G g).num = g.num) {m : Nat → Lane → Lane → Prop}
    (h1 : (G e.grp).s = e.grp.s ∧ (G e.grp).cv = e.grp.cv ∧ (G e.grp).insts = e.grp.insts ∧ (G e.grp).lanes.length = e.grp.lanes.length)
    (h2 : ∀ l x, e.grp.lanes[l]? = some x → ∃ y, (G e.grp).lanes[l]? = some y ∧ y.v = x.v ∧ y.p = x.p ∧
      (e.mask.getLsbD l = false → y = x) ∧ (e.mask.getLsbD l = true → m l x y)) :
    e.Lanes (u.updGroup e.grid.tag e.team.idx e.grp.num G) m := by
  refine ⟨G e.grp, ?_, h1.1, h1.2.1, h1.2.2.1, h1.2.2.2, h2⟩
  rw [Env.grp?, State.group?_updGroup u _ _ _ names, hu]; rfl

/-- A change of some lanes of the set, then the end of the issue. -/
theorem Env.lanes_retire (e : Env) (u : State) (hu : u.group? e.grid.tag e.team.idx e.grp.num = some e.grp) (M : LaneMask)
    (F : Nat → Lane → Lane) (target : Nat → Option DWord) {m : Nat → Lane → Lane → Prop} (hM : ∀ l, M.getLsbD l = true → e.mask.getLsbD l = true)
    (keep : ∀ i x, (F i x).v = x.v ∧ (F i x).p = x.p)
    (h : ∀ l x, e.grp.lanes[l]? = some x → e.mask.getLsbD l = true → m l x (e.after u target l (if M.getLsbD l then F l x else x))) :
    e.Lanes (e.retire (u.updGroup e.grid.tag e.team.idx e.grp.num (fun g => g.updMask M F)) target) m := by
  rw [e.retire_upd u (F := fun g => g.updMask M F) (fun g => g.updMask_same M F)]
  refine e.lanes_upd u (G := fun g => (g.updMask M F).updMask e.mask (fun i x => e.after u target i x)) hu
    (fun g => ⟨rfl, rfl, rfl⟩) ⟨rfl, rfl, rfl, by simp⟩ (fun l x hx => ?_)
  rw [Group.updMask_lane, Group.updMask_lane, hx]
  refine ⟨_, rfl, ?_, ?_, fun hm => ?_, fun hm => ?_⟩
  · simp only []; repeat' split
    all_goals simp [(e.after_keeps u target l _).1, keep]
  · simp only []; repeat' split
    all_goals simp [(e.after_keeps u target l _).2.1, keep]
  · have : M.getLsbD l = false := by
      cases hq : M.getLsbD l with
      | false => rfl
      | true => rw [hM l hq] at hm; cases hm
    simp only [hm, this, Bool.false_eq_true, if_false]
  · have := h l x hx hm
    simp only [hm, if_true]
    exact this
theorem Env.moves_retire {e : Env} {s : State} (hs : e.s = s) (hg : s.group? e.grid.tag e.team.idx e.grp.num = some e.grp) (M : LaneMask)
    (F : Nat → Lane → Lane) (target : Nat → Option DWord) {m : Nat → Lane → Lane → Prop} (hM : ∀ l, M.getLsbD l = true → e.mask.getLsbD l = true)
    (keep : ∀ i x, (F i x).v = x.v ∧ (F i x).p = x.p)
    (h : ∀ l x, e.grp.lanes[l]? = some x → e.mask.getLsbD l = true → m l x (e.after s target l (if M.getLsbD l then F l x else x))) :
    e.Moves s (e.retire (e.onMask M F) target) m := by
  unfold Env.onMask
  rw [hs]
  refine ⟨?_, e.lanes_retire s hg M F target hM keep h⟩
  rw [e.retire_upd s (F := fun g => g.updMask M F) (fun g => g.updMask_same M F)]
  exact e.only_upd (fun g => (g.updMask_same M F).trans (Group.updMask_same _ _ _))
/-- An instruction with no effect but to move on. -/
theorem Env.moves_plain {e : Env} {s : State} (hg : s.group? e.grid.tag e.team.idx e.grp.num = some e.grp)
    (target : Nat → Option DWord) {m : Nat → Lane → Lane → Prop}
    (h : ∀ l x, e.grp.lanes[l]? = some x → e.mask.getLsbD l = true → m l x (e.after s target l x)) :
    e.Moves s (e.retire s target) m := by
  rw [Env.retire_eq]
  refine ⟨e.only_upd (fun g => Group.updMask_same _ _ _), e.lanes_upd s
    (G := fun g => g.updMask e.mask (fun i x => e.after s target i x)) hg (fun g => ⟨rfl, rfl, rfl⟩) ⟨rfl, rfl, rfl, by simp⟩ (fun l x hx => ?_)⟩
  rw [Group.updMask_lane, hx]
  refine ⟨_, rfl, ?_, ?_, fun hm => ?_, fun hm => ?_⟩
  · simp only []; split <;> simp [(e.after_keeps s target l x).1]
  · simp only []; split <;> simp [(e.after_keeps s target l x).2.1]
  · simp only [hm, Bool.false_eq_true, if_false]
  · simp only [hm, if_true]; exact h l x hx hm

theorem Env.perf_mask {e : Env} {l : Nat} : e.perfMask.getLsbD l = true ↔ l ∈ e.perf := by
  unfold Env.perfMask
  rw [getLsbD_maskOf]
  simp only [Bool.and_eq_true, decide_eq_true_eq, List.contains_iff_mem]
  refine ⟨fun h => h.2, fun h => ⟨Env.bit_lt (Env.mem_set (Env.mem_perf h).1).2, h⟩⟩
theorem Env.perf_iff {e : Env} {l : Nat} : l ∈ e.perf ↔ l < e.w ∧ e.mask.getLsbD l = true ∧ e.guard l = true := by
  refine ⟨fun h => ⟨(Env.mem_set (Env.mem_perf h).1).1, (Env.mem_set (Env.mem_perf h).1).2, (Env.mem_perf h).2⟩, fun h => ?_⟩
  rw [Env.perf, List.mem_filter]
  refine ⟨?_, h.2.2⟩
  unfold Env.set maskList
  rw [List.mem_filter]
  exact ⟨List.mem_range.2 h.1, h.2.1⟩
theorem Env.lane_eq {e : Env} {l : Nat} {x : Lane} (h : e.grp.lanes[l]? = some x) : e.lane l = x := by
  unfold Env.lane; rw [List.getD_eq_getElem?_getD, h]; rfl

/-- Faults taken. -/
theorem Env.fail_faults {e : Env} {s : State} (hs : e.s = s) (hr : s.grid? e.grid.tag = some e.grid)
    (hg : s.group? e.grid.tag e.team.idx e.grp.num = some e.grp) (ls : List (Nat × Nat × Nat)) :
    e.Faults s (e.fail ls) (ls.map (fun x => e.record x.1 x.2.1 x.2.2)) := by
  have hn := State.group?_is hg
  have hrec : ls.map (fun x => faultRec e.grp x.1 x.2.1 e.pc x.2.2) = ls.map (fun x => e.record x.1 x.2.1 x.2.2) := by
    apply List.map_congr_left
    intro x _
    unfold faultRec Env.record Env.lane
    rw [List.getD_eq_getElem?_getD, hn.2.1]
    cases e.grp.lanes[x.1]? <;> rfl
  unfold Env.fail
  rw [hs, hrec]
  refine ⟨rfl, ?_, ?_, ?_, ?_⟩
  · show (s.updGrid e.grid.tag _).grid? e.grid.tag = _
    rw [State.grid?_updGrid s e.grid.tag (f := fun g => ({ g with
      faults := g.faults ++ ls.map (fun x => e.record x.1 x.2.1 x.2.2) } : Grid)) (fun g => rfl), hr]; rfl
  · intro tag ht
    refine find?_updFirst_other _ (fun x h => ?_) (fun x h => ?_) <;> simp_all
    exact fun h' => ht h'.symm
    exact fun h' => ht h'.symm
  · show (State.stopGroup _ _ _ _).group? _ _ _ = _
    unfold State.stopGroup
    rw [State.group?_updGroup _ _ _ _ (f := fun g => ({ g with
      stopped := true } : Group)) (fun g => ⟨rfl, rfl, rfl⟩)]
    exact congrArg (Option.map _) hg
  · intro tag team n ne
    unfold State.stopGroup
    rw [State.group?_updGroup_other _ (f := fun g => ({ g with
      stopped := true } : Group)) (fun g => ⟨rfl, rfl, rfl⟩) ne]
    rfl

end Sys2Proof.Machine
end

