-- ==== Sys2Proof/Laws/PerInstr.lean ====
section
/-! SUPPORT. Per instruction: the raw fields that an instruction's words hold name the same instruction again (R58 to R63, R80,
R280); a row without an encoding has none. -/

namespace Sys2Proof.Laws.Named

/-- What `rawOf` gives for an instruction is what `Raw.instr` reads as that instruction. -/
def Statement (i : Instr) : Prop := match Machine.rawOf i with
  | some r => r.instr = some i
  | none => True

theorem nop (sw : Bool) : Statement (.nop sw) := rfl
theorem nopExt (f : Fields) : Statement (.nopExt f) := rfl
theorem bra (f : Fields) : Statement (.bra f) := rfl
theorem brx (f : Fields) : Statement (.brx f) := rfl
theorem call (f : Fields) : Statement (.call f) := rfl
theorem callx (f : Fields) : Statement (.callx f) := rfl
theorem ret (sw : Bool) : Statement (.ret sw) := rfl
theorem retExt (f : Fields) : Statement (.retExt f) := rfl
theorem exit (sw : Bool) : Statement (.exit sw) := rfl
theorem exitExt (f : Fields) : Statement (.exitExt f) := rfl
theorem demote (sw : Bool) : Statement (.demote sw) := rfl
theorem demoteExt (f : Fields) : Statement (.demoteExt f) := rfl
theorem loop (f : Fields) : Statement (.loop f) := rfl
theorem lbrk (sw : Bool) : Statement (.lbrk sw) := rfl
theorem lbrkExt (f : Fields) : Statement (.lbrkExt f) := rfl
theorem canon (f : Fields) : Statement (.canon f) := rfl
theorem trap (f : Fields) : Statement (.trap f) := rfl
theorem brk (f : Fields) : Statement (.brk f) := rfl
theorem iadd (f : BFields) : Statement (.iadd f) := rfl
theorem iaddExt (f : Fields) : Statement (.iaddExt f) := rfl
theorem isub (f : BFields) : Statement (.isub f) := rfl
theorem isubExt (f : Fields) : Statement (.isubExt f) := rfl
theorem iaddx (f : Fields) : Statement (.iaddx f) := rfl
theorem imul (f : BFields) : Statement (.imul f) := rfl
theorem imulExt (f : Fields) : Statement (.imulExt f) := rfl
theorem imulh (f : Fields) : Statement (.imulh f) := rfl
theorem imad (f : Fields) : Statement (.imad f) := rfl
theorem imadw (f : Fields) : Statement (.imadw f) := rfl
theorem idiv (f : Fields) : Statement (.idiv f) := rfl
theorem irem (f : Fields) : Statement (.irem f) := rfl
theorem imin (f : Fields) : Statement (.imin f) := rfl
theorem imax (f : Fields) : Statement (.imax f) := rfl
theorem iabs (f : Fields) : Statement (.iabs f) := rfl
theorem ineg (f : Fields) : Statement (.ineg f) := rfl
theorem shl (f : BFields) : Statement (.shl f) := rfl
theorem shlExt (f : Fields) : Statement (.shlExt f) := rfl
theorem shr (f : BFields) : Statement (.shr f) := rfl
theorem shrExt (f : Fields) : Statement (.shrExt f) := rfl
theorem sar (f : BFields) : Statement (.sar f) := rfl
theorem sarExt (f : Fields) : Statement (.sarExt f) := rfl
theorem rot (f : Fields) : Statement (.rot f) := rfl
theorem fshf (f : Fields) : Statement (.fshf f) := rfl
theorem and (f : BFields) : Statement (.and f) := rfl
theorem andExt (f : Fields) : Statement (.andExt f) := rfl
theorem or (f : BFields) : Statement (.or f) := rfl
theorem orExt (f : Fields) : Statement (.orExt f) := rfl
theorem xor (f : BFields) : Statement (.xor f) := rfl
theorem xorExt (f : Fields) : Statement (.xorExt f) := rfl
theorem andn (f : BFields) : Statement (.andn f) := rfl
theorem andnExt (f : Fields) : Statement (.andnExt f) := rfl
theorem bfsel (f : Fields) : Statement (.bfsel f) := rfl
theorem popc (f : Fields) : Statement (.popc f) := rfl
theorem clz (f : Fields) : Statement (.clz f) := rfl
theorem ctz (f : Fields) : Statement (.ctz f) := rfl
theorem brev (f : Fields) : Statement (.brev f) := rfl
theorem bfx (f : Fields) : Statement (.bfx f) := rfl
theorem bfi (f : Fields) : Statement (.bfi f) := rfl
theorem lea (f : Fields) : Statement (.lea f) := rfl
theorem mov (f : BFields) : Statement (.mov f) := rfl
theorem movExt (f : Fields) : Statement (.movExt f) := rfl
theorem movi (f : Fields) : Statement (.movi f) := rfl
theorem iadd2 (f : Fields) : Statement (.iadd2 f) := rfl
theorem iadd4 (f : Fields) : Statement (.iadd4 f) := rfl
theorem vmin4 (f : Fields) : Statement (.vmin4 f) := rfl
theorem vmax4 (f : Fields) : Statement (.vmax4 f) := rfl
theorem idp4 (f : Fields) : Statement (.idp4 f) := rfl
theorem isad (f : Fields) : Statement (.isad f) := rfl
theorem icmp (f : Fields) : Statement (.icmp f) := rfl
theorem fcmp (f : Fields) : Statement (.fcmp f) := rfl
theorem pset (f : Fields) : Statement (.pset f) := rfl
theorem pmov (f : Fields) : Statement (.pmov f) := rfl
theorem sel (f : Fields) : Statement (.sel f) := rfl
theorem fadd (f : BFields) : Statement (.fadd f) := rfl
theorem faddExt (f : Fields) : Statement (.faddExt f) := rfl
theorem fsub (f : BFields) : Statement (.fsub f) := rfl
theorem fsubExt (f : Fields) : Statement (.fsubExt f) := rfl
theorem fmul (f : BFields) : Statement (.fmul f) := rfl
theorem fmulExt (f : Fields) : Statement (.fmulExt f) := rfl
theorem ffma (f : Fields) : Statement (.ffma f) := rfl
theorem fmin (f : Fields) : Statement (.fmin f) := rfl
theorem fmax (f : Fields) : Statement (.fmax f) := rfl
theorem frnd (f : Fields) : Statement (.frnd f) := rfl
theorem fclass (f : Fields) : Statement (.fclass f) := rfl
theorem fscale (f : Fields) : Statement (.fscale f) := rfl
theorem hadd2 (f : Fields) : Statement (.hadd2 f) := rfl
theorem hmul2 (f : Fields) : Statement (.hmul2 f) := rfl
theorem hfma2 (f : Fields) : Statement (.hfma2 f) := rfl
theorem hmin2 (f : Fields) : Statement (.hmin2 f) := rfl
theorem hmax2 (f : Fields) : Statement (.hmax2 f) := rfl
theorem frcp (f : Fields) : Statement (.frcp f) := rfl
theorem frsq (f : Fields) : Statement (.frsq f) := rfl
theorem fsqrt (f : Fields) : Statement (.fsqrt f) := rfl
theorem fdiv (f : Fields) : Statement (.fdiv f) := rfl
theorem fexp2 (f : Fields) : Statement (.fexp2 f) := rfl
theorem flog2 (f : Fields) : Statement (.flog2 f) := rfl
theorem fsin (f : Fields) : Statement (.fsin f) := rfl
theorem fcos (f : Fields) : Statement (.fcos f) := rfl
theorem ftanh (f : Fields) : Statement (.ftanh f) := rfl
theorem fcvt (f : Fields) : Statement (.fcvt f) := rfl
theorem f2i (f : Fields) : Statement (.f2i f) := rfl
theorem i2f (f : Fields) : Statement (.i2f f) := rfl
theorem cvtpk (f : Fields) : Statement (.cvtpk f) := rfl
theorem lshuf (f : Fields) : Statement (.lshuf f) := rfl
theorem lbcast (f : Fields) : Statement (.lbcast f) := rfl
theorem lvote (f : Fields) : Statement (.lvote f) := rfl
theorem lballot (f : Fields) : Statement (.lballot f) := rfl
theorem lred (f : Fields) : Statement (.lred f) := rfl
theorem lscan (f : Fields) : Statement (.lscan f) := rfl
theorem lmatch (f : Fields) : Statement (.lmatch f) := rfl
theorem cvset (f : Fields) : Statement (.cvset f) := rfl
theorem ldg (f : Fields) : Statement (.ldg f) := rfl
theorem stg (f : Fields) : Statement (.stg f) := rfl
theorem lds (f : Fields) : Statement (.lds f) := rfl
theorem sts (f : Fields) : Statement (.sts f) := rfl
theorem ldx (f : Fields) : Statement (.ldx f) := rfl
theorem stx (f : Fields) : Statement (.stx f) := rfl
theorem atomg (f : Fields) : Statement (.atomg f) := rfl
theorem casg (f : Fields) : Statement (.casg f) := rfl
theorem redg (f : Fields) : Statement (.redg f) := rfl
theorem atoms (f : Fields) : Statement (.atoms f) := rfl
theorem cass (f : Fields) : Statement (.cass f) := rfl
theorem reds (f : Fields) : Statement (.reds f) := rfl
theorem fence (f : Fields) : Statement (.fence f) := rfl
theorem ifence (f : Fields) : Statement (.ifence f) := rfl
theorem pref (f : Fields) : Statement (.pref f) := rfl
theorem cctl (f : Fields) : Statement (.cctl f) := rfl
theorem cpy (f : Fields) : Statement (.cpy f) := rfl
theorem cpyg (f : Fields) : Statement (.cpyg f) := rfl
theorem cpyhint (f : Fields) : Statement (.cpyhint f) := rfl
theorem cpystat (f : Fields) : Statement (.cpystat f) := rfl
theorem xbinit (f : Fields) : Statement (.xbinit f) := rfl
theorem xbexpect (f : Fields) : Statement (.xbexpect f) := rfl
theorem xbarrive (f : Fields) : Statement (.xbarrive f) := rfl
theorem xbwait (f : Fields) : Statement (.xbwait f) := rfl
theorem xbtest (f : Fields) : Statement (.xbtest f) := rfl
theorem barw (f : Fields) : Statement (.barw f) := rfl
theorem bara (f : Fields) : Statement (.bara f) := rfl
theorem cbarw (f : Fields) : Statement (.cbarw f) := rfl
theorem cbara (f : Fields) : Statement (.cbara f) := rfl
theorem mma (f : Fields) : Statement (.mma f) := rfl
theorem mmag (f : Fields) : Statement (.mmag f) := rfl
theorem azero (f : Fields) : Statement (.azero f) := rfl
theorem acmt (f : Fields) : Statement (.acmt f) := rfl
theorem adrain (f : Fields) : Statement (.adrain f) := rfl
theorem aload (f : Fields) : Statement (.aload f) := rfl
theorem amerge (f : Fields) : Statement (.amerge f) := rfl
theorem acfg (f : Fields) : Statement (.acfg f) := rfl
theorem t5pack (f : Fields) : Statement (.t5pack f) := rfl
theorem t5unpk (f : Fields) : Statement (.t5unpk f) := rfl
theorem t5chk (f : Fields) : Statement (.t5chk f) := rfl
theorem mxq (f : Fields) : Statement (.mxq f) := rfl
theorem rdsr (f : Fields) : Statement (.rdsr f) := rfl
theorem wrsr (f : Fields) : Statement (.wrsr f) := rfl
theorem ldk (f : Fields) : Statement (.ldk f) := rfl
theorem rand (f : Fields) : Statement (.rand f) := rfl
theorem wkfetch (f : Fields) : Statement (.wkfetch f) := rfl
theorem rfetch (h : HFields) : Statement (.rfetch h) := rfl
theorem bfxt (h : HFields) : Statement (.bfxt h) := rfl
theorem swait (h : HFields) : Statement (.swait h) := rfl
theorem disp (h : HFields) : Statement (.disp h) := rfl
theorem collectiveIssue (tag team grp inst : Nat) : Statement (.collectiveIssue tag team grp inst) := trivial
theorem collectiveStranded (tag team grp : Nat) : Statement (.collectiveStranded tag team grp) := trivial
theorem syncCanonRelease (tag team grp : Nat) : Statement (.syncCanonRelease tag team grp) := trivial
theorem resultReturn (id : Nat) : Statement (.resultReturn id) := trivial
theorem accessAtHome (id : Nat) (ecc : Ecc) : Statement (.accessAtHome id ecc) := trivial
theorem barrierSignal (id : Nat) : Statement (.barrierSignal id) := trivial
theorem copyDelivery (tag team seq : Nat) (ecc : Ecc) : Statement (.copyDelivery tag team seq ecc) := trivial
theorem cpyhintFill (tag team id : Nat) : Statement (.cpyhintFill tag team id) := trivial
theorem matrixInstanceEffect (tag team id : Nat) : Statement (.matrixInstanceEffect tag team id) := trivial
theorem commitMarkerRetire (tag team id : Nat) : Statement (.commitMarkerRetire tag team id) := trivial
theorem dispenserClaim (id : Nat) : Statement (.dispenserClaim id) := trivial
theorem taggedReductionHold (id : Nat) : Statement (.taggedReductionHold id) := trivial
theorem promenadeApply (tag slice : Nat) : Statement (.promenadeApply tag slice) := trivial
theorem teamPlacement (tag : Nat) (places : List Place) : Statement (.teamPlacement tag places) := trivial
theorem teamRetire (tag team : Nat) : Statement (.teamRetire tag team) := trivial
theorem gridCompletion (tag : Nat) : Statement (.gridCompletion tag) := trivial
theorem gridFault (tag : Nat) : Statement (.gridFault tag) := trivial
theorem launch (q : Nat) : Statement (.launch q) := trivial
theorem waitsig (q : Nat) : Statement (.waitsig q) := trivial
theorem waitsigSatisfied (q : Nat) : Statement (.waitsigSatisfied q) := trivial
theorem signalWrite (q : Nat) : Statement (.signalWrite q) := trivial
theorem signalAdd (q : Nat) : Statement (.signalAdd q) := trivial
theorem barrier (q : Nat) : Statement (.barrier q) := trivial
theorem barrierCommandComplete (q : Nat) : Statement (.barrierCommandComplete q) := trivial
theorem tick (q : Nat) : Statement (.tick q) := trivial
theorem tickEdge (q : Nat) : Statement (.tickEdge q) := trivial
theorem turnEndQuantum (pid : Nat) : Statement (.turnEndQuantum pid) := trivial
theorem turnEndIdle (pid : Nat) : Statement (.turnEndIdle pid) := trivial
theorem load (r : Req) (addr len handleAt : Nat) : Statement (.load r addr len handleAt) := trivial
theorem unload (r : Req) (handle : Nat) : Statement (.unload r handle) := trivial
theorem qcreate (r : Req) (desc : Nat) : Statement (.qcreate r desc) := trivial
theorem qreset (r : Req) (desc : Nat) : Statement (.qreset r desc) := trivial
theorem map (r : Req) (proc va len leaf : Nat) : Statement (.map r proc va len leaf) := trivial
theorem unmap (r : Req) (proc va len : Nat) : Statement (.unmap r proc va len) := trivial
theorem regcode (r : Req) (proc va len table count : Nat) : Statement (.regcode r proc va len table count) := trivial
theorem freply (r : Req) (id : Nat) (mapped : Bool) : Statement (.freply r id mapped) := trivial
theorem kill (r : Req) (tag : Nat) : Statement (.kill r tag) := trivial
theorem partition (r : Req) (rec : Nat) : Statement (.partition r rec) := trivial
theorem serialiseStop (r : Req) (tag image cap cause : Nat) : Statement (.serialiseStop r tag image cap cause) := trivial
theorem serialiseSnapshot (r : Req) (tag image cap cause : Nat) : Statement (.serialiseSnapshot r tag image cap cause) := trivial
theorem serialiseImageWrite (tag : Nat) : Statement (.serialiseImageWrite tag) := trivial
theorem serialiseTimeout (tag : Nat) : Statement (.serialiseTimeout tag) := trivial
theorem replant (r : Req) (image part : Nat) : Statement (.replant r image part) := trivial
theorem faultlog (r : Req) (addr cap : Nat) : Statement (.faultlog r addr cap) := trivial
theorem translationFaultService (id leaf : Nat) : Statement (.translationFaultService id leaf) := trivial
theorem pageMigration (id pa : Nat) (data : List (Nat × Byte)) : Statement (.pageMigration id pa data) := trivial
theorem faultReplyTimeout (id : Nat) : Statement (.faultReplyTimeout id) := trivial
theorem swaitWake (hart : Nat) : Statement (.swaitWake hart) := trivial
theorem l2WayMaskWrite (die offset value : Nat) : Statement (.l2WayMaskWrite die offset value) := trivial
theorem l2WayMaskAll (die pid value : Nat) : Statement (.l2WayMaskAll die pid value) := trivial
theorem registerWrite (reg : DevReg) (value : Nat) : Statement (.registerWrite reg value) := trivial
theorem clockStepDown : Statement (.clockStepDown) := trivial
theorem clockStepUp : Statement (.clockStepUp) := trivial
theorem powerLimitStop : Statement (.powerLimitStop) := trivial
theorem powerEventClear : Statement (.powerEventClear) := trivial
theorem reset (b : Boot) : Statement (.reset b) := trivial
theorem birnisRd (link header : Nat) : Statement (.birnisRd link header) := trivial
theorem birnisWr (link header data : Nat) : Statement (.birnisWr link header data) := trivial
theorem birnisAt (link header : Nat) : Statement (.birnisAt link header) := trivial
theorem birnisSig (link header : Nat) : Statement (.birnisSig link header) := trivial
theorem birnisRsp (link header data : Nat) : Statement (.birnisRsp link header data) := trivial
theorem birnisErr (link header : Nat) : Statement (.birnisErr link header) := trivial
theorem linkTimeout (tid : Nat) : Statement (.linkTimeout tid) := trivial
theorem linkTraining (link peer : Nat) : Statement (.linkTraining link peer) := trivial
theorem linkDown (link : Nat) : Statement (.linkDown link) := trivial
theorem linksLostExpiry : Statement (.linksLostExpiry) := trivial
theorem watchdogExpiry : Statement (.watchdogExpiry) := trivial
theorem job (r : Req) (addr : Nat) : Statement (.job r addr) := trivial
theorem rpoint (r : Req) (job point : Nat) : Statement (.rpoint r job point) := trivial
theorem rpointComplete (job point : Nat) : Statement (.rpointComplete job point) := trivial
theorem recover (r : Req) (job : Nat) (lost : List Nat) (part : Nat) : Statement (.recover r job lost part) := trivial
theorem fillComplete (job fill len : Nat) : Statement (.fillComplete job fill len) := trivial
theorem attest (r : Req) (nonce addr : Nat) : Statement (.attest r nonce addr) := trivial
theorem lcrecStart (r : Req) (tag table rec : Nat) : Statement (.lcrecStart r tag table rec) := trivial
theorem lcrecStop (r : Req) (tag : Nat) : Statement (.lcrecStop r tag) := trivial
theorem waitgraph (r : Req) (addr cap period : Nat) : Statement (.waitgraph r addr cap period) := trivial
theorem waitgraphSample : Statement (.waitgraphSample) := trivial
theorem debugAttach (r : Req) (tag : Nat) (sites : List Site) : Statement (.debugAttach r tag sites) := trivial
theorem debugDetach (r : Req) (tag : Nat) : Statement (.debugDetach r tag) := trivial
theorem debugResume (r : Req) (tag : Nat) : Statement (.debugResume r tag) := trivial
theorem mctpControl (msg : List Byte) : Statement (.mctpControl msg) := trivial
theorem mctpUnsupported (kind : Nat) (msg : List Byte) : Statement (.mctpUnsupported kind msg) := trivial
theorem pldmBase (msg : List Byte) : Statement (.pldmBase msg) := trivial
theorem pldmPlatform (q : PldmQuery) : Statement (.pldmPlatform q) := trivial
theorem pldmFirmwareUpdate (msg : List Byte) : Statement (.pldmFirmwareUpdate msg) := trivial
theorem trst : Statement (.trst) := trivial
theorem bypass : Statement (.bypass) := trivial
theorem samplePreload (preload : Nat) : Statement (.samplePreload preload) := trivial
theorem extest : Statement (.extest) := trivial
theorem idcode : Statement (.idcode) := trivial
theorem adapterAccessComplete (tid data : Nat) : Statement (.adapterAccessComplete tid data) := trivial
theorem processEnd (proc : Nat) : Statement (.processEnd proc) := trivial

end Sys2Proof.Laws.Named
end

