-- ==== Sys2Proof/Tests/Slice0.lean ====
section
/-! SUPPORT. Tests: ill-formed terms that the checks refuse, words of the spec's encodings with what they stand for, worked
results of the spec in one step, and for each statement a state and operands that meet its hypotheses. The words are composed
from R58 to R63, R80 and R280; the results are the spec's own. -/

namespace Sys2Proof.Tests
open Machine

-- One theorem is checked at a time: many at once would hold their evaluations in memory together.
set_option Elab.async false

/-! ### Helpers -/

/-- X-form fields with the operands D, A, B, C and SUB; unguarded, nothing else set. -/
def fx (d a b c : BitVec 8) (sub : BitVec 5) : Fields :=
  { form := .x, sw := false, sub := sub, d := d, a := a, b := b, c := c, prd := 127, pn := false, rnd := 0, sat := false, ctl := 0,
    moda := 0, modb := 0, modc := 0, lit := 0 }
def readsAs (ws : List Word) (i : Instr) : Bool := match decode ws with
  | .ok (j, []) => decide (j = i)
  | _ => false
/-- Words and the instruction they must decode to. -/
def reads (l : List (List Word × Instr)) : Bool := l.all (fun x => readsAs x.1 x.2)
def wordsNat (ws : List Word) : Nat := ws.foldr (fun w n => w.toNat + 2 ^ 32 * n) 0
/-- Reset with an instruction's words placed, a kernel of two roomy teams' worth of everything, and changes of the grid, the
team and the group. -/
def place (ws : List Word) (g : Grid → Grid := id) (t : Team → Team := id) (x : Group → Group := id) : State :=
  let s := State.reset.withFetchWord (32 * ws.length) (wordsNat ws)
  { s with
    grids := s.grids.map (fun y => g { y with kcb := { y.kcb with cluster := 2, scratch := 4096, disp := true, tiles := List.replicate 16 (16, 16, true) } })
    teams := s.teams.map (fun y => t { y with tiles := ({ placedKcb with tiles := List.replicate 16 (16, 16, true) } : Kcb).tileStart,
                                              shadows := ({ placedKcb with tiles := List.replicate 16 (16, 16, true) } : Kcb).tileStart })
    groups := s.groups.map x }
/-- Every lane with some v registers set. -/
def withV (rs : List (Nat × Nat)) (x : Group) : Group :=
  { x with lanes := x.lanes.map (fun l => { l with v := rs.foldl (fun v r => Sparse.set 0#32 v r.1 (BitVec.ofNat 32 r.2)) l.v }) }
/-- The state in which the placed instruction executes, and the instruction. -/
def issued (s : State) : Option (State × Instr) := match s.nextAct with
  | (.issue a b c, u) => match u.turn a b c with
    | some (.run v i) => some (v, i)
    | _ => none
  | _ => none
/-- Nothing that an instruction waits for is outstanding, and no executing lane reads what is spoilt. -/
def ready (v : State) (o : Nat) (f : Fields) (e : Env) : Bool :=
  decide ((drainFirst v o f).groups = v.groups) && decide ((drainFirst v o f).cur = v.cur) && e.mask != 0#64 && e.kernelCheck == none &&
    e.exec.all (fun l => !e.spoilt l)
theorem ready_drains {v : State} {o : Nat} {f : Fields} {e : Env} (h : ready v o f e = true) : drainFirst v o f = v := by
  simp only [ready, Bool.and_eq_true, decide_eq_true_eq] at h
  obtain ⟨⟨⟨⟨hg, hc⟩, -⟩, -⟩, -⟩ := h
  have : drainFirst v o f = { v with groups := (drainFirst v o f).groups, cur := (drainFirst v o f).cur } := by
    unfold drainFirst; split <;> rfl
  rw [this, hg, hc]
/-- The placed instruction executes, in a state and a context that meet a test. -/
def issuesBy (s : State) (p : State → Nat → Fields → Env → Bool) : Bool := match issued s with
  | none => false
  | some (v, i) => match rawOf i with
    | some (.b opc g) => (envOf v opc.toNat (Fields.ofB opc.toNat g) 4).any (p v opc.toNat (Fields.ofB opc.toNat g))
    | some (.w opc f) => (envOf v opc.toNat f (Form.len f.form)).any (p v opc.toNat f)
    | _ => false
/-- The instruction issues (R35, R358), and its context meets a test. -/
def issues (s : State) (p : State → Env → Bool := fun _ _ => true) : Bool :=
  issuesBy s (fun v opc f e => ready v opc f e && p v e)
def ok (l : List Bool) : Bool := l.all id
/-- No flag traps, so no result without a fault of its own is trapped. -/
def quiet (_ : State) (e : Env) : Bool := e.grid.kcb.fptrap == 0#5
/-- Lane 0 after one step. -/
def lane0 (s : State) : Option Lane := match step s with
  | .next t => t.groups.head?.bind (·.lanes.head?)
  | _ => none
def reg (n : Nat) (l : Option Lane) : Option Nat := l.map (fun l => (Sparse.get 0#32 l.v n).toNat)
/-- Register 9 of lane 0 after one step, from registers 3, 5 and 7. -/
def result (ws : List Word) (a b c : Nat) : Option Nat := reg 9 (lane0 (place ws (x := withV [(3, a), (5, b), (7, c)])))
/-- The first value of the result that one step leaves outstanding. -/
def pending (ws : List Word) (a b c : Nat) : Option Nat := match step (place ws (x := withV [(3, a), (5, b), (7, c)])) with
  | .next t => (((t.results.head?.bind (·.writes.head?)).bind (·.2.head?)).map (·.val))
  | _ => none

/-- A context satisfies the hypothesis of no trap when no flag is enabled and no lane has a fault. -/
theorem noTrap_of_quiet (e : Env) (out : Nat → Out) (h : e.grid.kcb.fptrap = 0#5) (h' : ∀ l ∈ e.exec, (out l).fault = none) : e.NoTrap out :=
  fun l hl => ⟨h' l hl, by rw [h]; exact BitVec.and_zero⟩


/-! ### Words of every encoded instruction -/

def controlWords : List (List Word × Instr) := [
  ([0x20000000], .nop true),
  ([0x8000F0F0, 0xF0F00300, 0x00000000], .nopExt { fx 240 240 240 240 0 with prd := 1, pn := true }),
  ([0x8020F000, 0x00090200, 0x00000000], .bra { fx 240 0 0 9 0 with prd := 1 }),
  ([0x8040F002, 0xF0F0FE00, 0x00000000], .brx (fx 240 2 240 240 0)),
  ([0x806010FF, 0xFFF8FE00, 0x00000000], .call (fx 16 255 255 248 0)),
  ([0x808010C2, 0xF0F0FE00, 0x00000000], .callx (fx 16 194 240 240 0)),
  ([0x00A00000], .ret false),
  ([0x80A0F0F0, 0xF0F00400, 0x00000000], .retExt { fx 240 240 240 240 0 with prd := 2 }),
  ([0x00C00000], .exit false),
  ([0x80C0F0F0, 0xF0F00600, 0x00000000], .exitExt { fx 240 240 240 240 0 with prd := 3 }),
  ([0x00E00000], .demote false),
  ([0x80E0F0F0, 0xF0F00800, 0x00000000], .demoteExt { fx 240 240 240 240 0 with prd := 4 }),
  ([0x8100F003, 0x0009FE01, 0x00000000], .loop { fx 240 3 0 9 0 with ctl := 1 }),
  ([0x01200000], .lbrk false),
  ([0x8120F0F0, 0xF0F00A00, 0x00000000], .lbrkExt { fx 240 240 240 240 0 with prd := 5 }),
  ([0x8140F000, 0x0102FE00, 0x00000000], .canon (fx 240 0 1 2 0)),
  ([0x8160F001, 0x0203FE00, 0x00000000], .trap (fx 240 1 2 3 0)),
  ([0x8180F004, 0x0506FE00, 0x00000000], .brk (fx 240 4 5 6 0))]
def integerWords : List (List Word × Instr) := [
  ([0x0400C082], .iadd ⟨false, 3, 1, 2⟩),
  ([0x84020802, 0x04F0FE00, 0x00000000], .iaddExt (fx 8 2 4 240 2)),
  ([0x0420C082], .isub ⟨false, 3, 1, 2⟩),
  ([0x84220802, 0x04F0FE00, 0x00000000], .isubExt (fx 8 2 4 240 2)),
  ([0x0460C082], .imul ⟨false, 3, 1, 2⟩),
  ([0x84610802, 0x04F0FE00, 0x00000000], .imulExt (fx 8 2 4 240 1)),
  ([0x05A0C082], .shl ⟨false, 3, 1, 2⟩),
  ([0x85A20802, 0x05F0FE00, 0x00000000], .shlExt (fx 8 2 5 240 2)),
  ([0x05C0C082], .shr ⟨false, 3, 1, 2⟩),
  ([0x85C20802, 0x05F0FE00, 0x00000000], .shrExt (fx 8 2 5 240 2)),
  ([0x05E0C082], .sar ⟨false, 3, 1, 2⟩),
  ([0x85E20802, 0x05F0FE00, 0x00000000], .sarExt (fx 8 2 5 240 2)),
  ([0x0640C082], .and ⟨false, 3, 1, 2⟩),
  ([0x86420802, 0x04F0FE00, 0x00000000], .andExt (fx 8 2 4 240 2)),
  ([0x0660C082], .or ⟨false, 3, 1, 2⟩),
  ([0x86620802, 0x04F0FE00, 0x00000000], .orExt (fx 8 2 4 240 2)),
  ([0x0680C082], .xor ⟨false, 3, 1, 2⟩),
  ([0x86820802, 0x04F0FE00, 0x00000000], .xorExt (fx 8 2 4 240 2)),
  ([0x06A0C082], .andn ⟨false, 3, 1, 2⟩),
  ([0x86A20802, 0x04F0FE00, 0x00000000], .andnExt (fx 8 2 4 240 2)),
  ([0x844C0802, 0x0407FE00, 0x00000000], .iaddx (fx 8 2 4 7 12)),
  ([0x84810803, 0x05F0FE00, 0x00000000], .imulh (fx 8 3 5 240 1)),
  ([0x86010803, 0x05F0FE00, 0x00000000], .rot (fx 8 3 5 240 1)),
  ([0x84A00903, 0x0507FE00, 0x00000000], .imad (fx 9 3 5 7 0)),
  ([0x84C00803, 0x0506FE00, 0x00000000], .imadw (fx 8 3 5 6 0)),
  ([0xC4E10903, 0xF2F0FE00, 0x00000000, 0x00000007, 0x00000000], .idiv { fx 9 3 242 240 1 with form := .xl, lit := 7#64 }),
  ([0xC5010903, 0xF2F0FE00, 0x00000000, 0x00000007, 0x00000000], .irem { fx 9 3 242 240 1 with form := .xl, lit := 7#64 }),
  ([0xC5210903, 0xF2F0FE00, 0x00000000, 0x00000007, 0x00000000], .imin { fx 9 3 242 240 1 with form := .xl, lit := 7#64 }),
  ([0xC5410903, 0xF2F0FE00, 0x00000000, 0x00000007, 0x00000000], .imax { fx 9 3 242 240 1 with form := .xl, lit := 7#64 }),
  ([0x85600903, 0xF0F0FE20, 0x00000000], .iabs { fx 9 3 240 240 0 with sat := true }),
  ([0x85800903, 0xF0F0FE20, 0x00000000], .ineg { fx 9 3 240 240 0 with sat := true }),
  ([0x86240903, 0x0507FE00, 0x00000000], .fshf (fx 9 3 5 7 4)),
  ([0x86C50903, 0x0507FE0A, 0x00000000], .bfsel { fx 9 3 5 7 5 with ctl := 10 }),
  ([0x86E00903, 0xF0F0FE00, 0x00000000], .popc (fx 9 3 240 240 0)),
  ([0x87000903, 0xF0F0FE00, 0x00000000], .clz (fx 9 3 240 240 0)),
  ([0x87200903, 0xF0F0FE00, 0x00000000], .ctz (fx 9 3 240 240 0)),
  ([0x87400903, 0xF0F0FE00, 0x00000000], .brev (fx 9 3 240 240 0)),
  ([0x87600903, 0x05F0FE00, 0x00000000], .bfx (fx 9 3 5 240 0)),
  ([0x87800903, 0x0507FE00, 0x00000000], .bfi (fx 9 3 5 7 0)),
  ([0x87A80802, 0x05F0FE00, 0x00000000], .lea (fx 8 2 5 240 8)),
  ([0x07C0C002], .mov ⟨false, 3, 0, 2⟩),
  ([0x87C009F0, 0x05F0FE00, 0x00000000], .movExt (fx 9 240 5 240 0)),
  ([0xC7E008F0, 0xF2F0FE00, 0x00000000, 0x9ABCDEF0, 0x12345678], .movi { fx 8 240 242 240 0 with form := .xl, lit := 1311768467463790320#64 }),
  ([0x4400C080, 0x00000005, 0x00000000], .iaddExt { fx 3 1 0xF2 240 0 with form := .bl, lit := 5#64 })]
def packedWords : List (List Word × Instr) := [
  ([0x88000903, 0x05F0FE00, 0x00000000], .iadd2 (fx 9 3 5 240 0)),
  ([0x88200903, 0x05F0FE00, 0x00000000], .iadd4 (fx 9 3 5 240 0)),
  ([0x88400903, 0x05F0FE00, 0x00000000], .vmin4 (fx 9 3 5 240 0)),
  ([0x88600903, 0x05F0FE00, 0x00000000], .vmax4 (fx 9 3 5 240 0)),
  ([0x88800903, 0x0507FE00, 0x00000000], .idp4 (fx 9 3 5 7 0)),
  ([0x88A00903, 0x0507FE00, 0x00000000], .isad (fx 9 3 5 7 0))]
def predicateWords : List (List Word × Instr) := [
  ([0xCA080100, 0xF2F0FE00, 0x00000000, 0x00000004, 0x00000000], .icmp { fx 1 0 242 240 8 with form := .xl, lit := 4#64 }),
  ([0x8A280203, 0x05F0FE00, 0x00000000], .fcmp (fx 2 3 5 240 8)),
  ([0x8A410301, 0x02F0FE00, 0x00000000], .pset (fx 3 1 2 240 1)),
  ([0x8A600301, 0xF0F0FE00, 0x00000000], .pmov (fx 3 1 240 240 0)),
  ([0x8A800903, 0x0501FE00, 0x00000000], .sel (fx 9 3 5 1 0))]
def floatWords : List (List Word × Instr) := [
  ([0x0C00C082], .fadd ⟨false, 3, 1, 2⟩),
  ([0x8C000903, 0x05F0FEA0, 0x00000000], .faddExt { fx 9 3 5 240 0 with rnd := 2, sat := true }),
  ([0x0C20C082], .fsub ⟨false, 3, 1, 2⟩),
  ([0x8C200903, 0x05F0FEA0, 0x00000000], .fsubExt { fx 9 3 5 240 0 with rnd := 2, sat := true }),
  ([0x0C40C082], .fmul ⟨false, 3, 1, 2⟩),
  ([0x8C400903, 0x05F0FEA0, 0x00000000], .fmulExt { fx 9 3 5 240 0 with rnd := 2, sat := true }),
  ([0x8C600903, 0x0507FE04, 0x00000000], .ffma { fx 9 3 5 7 0 with ctl := 4 }),
  ([0x8C800903, 0x05F0FE00, 0x00000000], .fmin (fx 9 3 5 240 0)),
  ([0x8CA00903, 0x05F0FE00, 0x00000000], .fmax (fx 9 3 5 240 0)),
  ([0x8D000903, 0x05F0FE00, 0x00000000], .fscale (fx 9 3 5 240 0)),
  ([0x8CC00903, 0xF0F0FE40, 0x00000000], .frnd { fx 9 3 240 240 0 with rnd := 1 }),
  ([0x8CE20903, 0xF0F0FE00, 0x00000000], .fclass (fx 9 3 240 240 2)),
  ([0x8E010903, 0x05F0FE00, 0x00000000], .hadd2 (fx 9 3 5 240 1)),
  ([0x8E210903, 0x05F0FE00, 0x00000000], .hmul2 (fx 9 3 5 240 1)),
  ([0x8E610903, 0x05F0FE00, 0x00000000], .hmin2 (fx 9 3 5 240 1)),
  ([0x8E810903, 0x05F0FE00, 0x00000000], .hmax2 (fx 9 3 5 240 1)),
  ([0x8E400903, 0x0507FE00, 0x00000000], .hfma2 (fx 9 3 5 7 0)),
  ([0x90000903, 0xF0F0FE00, 0x00000000], .frcp (fx 9 3 240 240 0)),
  ([0x90200903, 0xF0F0FE00, 0x00000000], .frsq (fx 9 3 240 240 0)),
  ([0x90400903, 0xF0F0FE00, 0x00000000], .fsqrt (fx 9 3 240 240 0)),
  ([0x90800903, 0xF0F0FE00, 0x00000000], .fexp2 (fx 9 3 240 240 0)),
  ([0x90A00903, 0xF0F0FE00, 0x00000000], .flog2 (fx 9 3 240 240 0)),
  ([0x90C00903, 0xF0F0FE00, 0x00000000], .fsin (fx 9 3 240 240 0)),
  ([0x90E00903, 0xF0F0FE00, 0x00000000], .fcos (fx 9 3 240 240 0)),
  ([0x91000903, 0xF0F0FE00, 0x00000000], .ftanh (fx 9 3 240 240 0)),
  ([0x90600903, 0x05F0FE00, 0x00000000], .fdiv (fx 9 3 5 240 0)),
  ([0x92090903, 0xF0F0FE40, 0x00000000], .fcvt { fx 9 3 240 240 9 with rnd := 1 }),
  ([0x92220803, 0xF0F0FE00, 0x00000000], .f2i (fx 8 3 240 240 2)),
  ([0x92410903, 0xF0F0FE00, 0x00000000], .i2f (fx 9 3 240 240 1)),
  ([0x92610903, 0x05F0FE00, 0x00000000], .cvtpk (fx 9 3 5 240 1))]
def laneWords : List (List Word × Instr) := [
  ([0x94030903, 0x05F0FE01, 0x00000000], .lshuf { fx 9 3 5 240 3 with ctl := 1 }),
  ([0x94200903, 0xC1F0FE00, 0x00000000], .lbcast (fx 9 3 193 240 0)),
  ([0x94410301, 0xF0F0FE00, 0x00000000], .lvote (fx 3 1 240 240 1)),
  ([0x94600901, 0xF0F0FE00, 0x00000000], .lballot (fx 9 1 240 240 0)),
  ([0x94880903, 0xF0F0FE00, 0x00000000], .lred (fx 9 3 240 240 8)),
  ([0x94B00903, 0xF0F0FE00, 0x00000000], .lscan (fx 9 3 240 240 16)),
  ([0x94C00903, 0xF0F0FE00, 0x00000000], .lmatch (fx 9 3 240 240 0)),
  ([0x94E00201, 0xF0F0FE00, 0x00000000], .cvset (fx 2 1 240 240 0))]
def memoryWords : List (List Word × Instr) := [
  ([0x96050802, 0xF0F0FE05, 0x00000000], .ldg { fx 8 2 240 240 5 with ctl := 5 }),
  ([0x96450802, 0xF0F0FE00, 0x00000000], .lds { fx 8 2 240 240 5 with ctl := 0 }),
  ([0x96850802, 0xF0F0FE01, 0x00000000], .ldx { fx 8 2 240 240 5 with ctl := 1 }),
  ([0x9624F002, 0x05F0FE09, 0x00000000], .stg { fx 240 2 5 240 4 with ctl := 9 }),
  ([0x9664F002, 0x05F0FE00, 0x00000000], .sts { fx 240 2 5 240 4 with ctl := 0 }),
  ([0x96A4F002, 0x05F0FE01, 0x00000000], .stx { fx 240 2 5 240 4 with ctl := 1 }),
  ([0x97080902, 0x05F0FE0D, 0x00000000], .atomg { fx 9 2 5 240 8 with ctl := 13 }),
  ([0x97200902, 0x0507FE0D, 0x00000000], .casg { fx 9 2 5 7 0 with ctl := 13 }),
  ([0x9748F002, 0x05F0FE0D, 0x00000000], .redg { fx 240 2 5 240 8 with ctl := 13 }),
  ([0x97680902, 0x05F0FE0C, 0x00000000], .atoms { fx 9 2 5 240 8 with ctl := 12 }),
  ([0x97800902, 0x0507FE0C, 0x00000000], .cass { fx 9 2 5 7 0 with ctl := 12 }),
  ([0x97A8F002, 0x05F0FE0C, 0x00000000], .reds { fx 240 2 5 240 8 with ctl := 12 }),
  ([0x9800F0F0, 0xF0F0FE06, 0x00000000], .fence { fx 240 240 240 240 0 with ctl := 6 }),
  ([0x9820F0F0, 0xF0F0FE02, 0x00000000], .ifence { fx 240 240 240 240 0 with ctl := 2 }),
  ([0x9841F002, 0xF0F0FE00, 0x00000000], .pref (fx 240 2 240 240 1)),
  ([0x9862F0C4, 0xF0F0FE00, 0x00000000], .cctl (fx 240 196 240 240 2))]
def copyWords : List (List Word × Instr) := [
  ([0x9A000902, 0x0407FE00, 0x00000000], .cpy (fx 9 2 4 7 0)),
  ([0x9A200802, 0x04F0FE00, 0x00000000], .cpyg (fx 8 2 4 240 0)),
  ([0x9A40F002, 0x04F0FE00, 0x00000000], .cpyhint (fx 240 2 4 240 0)),
  ([0x9A6109F0, 0xF0F0FE00, 0x00000000], .cpystat (fx 9 240 240 240 1)),
  ([0x9A81F002, 0x05F0FE02, 0x00000000], .xbinit { fx 240 2 5 240 1 with ctl := 2 }),
  ([0x9AA3F002, 0x05F0FE00, 0x00000000], .xbexpect (fx 240 2 5 240 3)),
  ([0x9AC0F002, 0xF0F0FE00, 0x00000000], .xbarrive (fx 240 2 240 240 0)),
  ([0x9AE00302, 0x05F0FE00, 0x00000000], .xbwait (fx 3 2 5 240 0)),
  ([0x9B000302, 0x05F0FE00, 0x00000000], .xbtest (fx 3 2 5 240 0)),
  ([0x9B200103, 0xF0F0FE00, 0x00000000], .barw (fx 1 3 240 240 0)),
  ([0x9B400203, 0xF0F0FE00, 0x00000000], .bara (fx 2 3 240 240 0)),
  ([0x9B60F003, 0xF0F0FE00, 0x00000000], .cbarw (fx 240 3 240 240 0)),
  ([0x9B80F003, 0xF0F0FE00, 0x00000000], .cbara (fx 240 3 240 240 0))]
def matrixWords : List (List Word × Instr) := [
  ([0x9C0001C2, 0xC4C6FE00, 0x00000000], .mma (fx 1 194 196 198 0)),
  ([0x9C2001C2, 0xC4C6FE00, 0x00000000], .mmag (fx 1 194 196 198 0)),
  ([0x9C4001F0, 0xF0F0FE00, 0x00000000], .azero (fx 1 240 240 240 0)),
  ([0x9C6001F0, 0xF0F0FE00, 0x00000000], .acmt (fx 1 240 240 240 0)),
  ([0x9C8009C2, 0xC401FE00, 0x00000000], .adrain (fx 9 194 196 1 0)),
  ([0x9CA001C2, 0xF0F0FE00, 0x00000000], .aload (fx 1 194 240 240 0)),
  ([0x9CC00102, 0xF0F0FE00, 0x00000000], .amerge (fx 1 2 240 240 0)),
  ([0x9CE001C2, 0xF0F0FE00, 0x00000000], .acfg (fx 1 194 240 240 0)),
  ([0x9D010903, 0x0507FE00, 0x00000000], .t5pack (fx 9 3 5 7 1)),
  ([0x9D220803, 0xF001FE00, 0x00000000], .t5unpk (fx 8 3 240 1 2)),
  ([0x9D400903, 0xF001FE00, 0x00000000], .t5chk (fx 9 3 240 1 0)),
  ([0x9D610903, 0x05F0FE00, 0x00000000], .mxq (fx 9 3 5 240 1))]
def systemWords : List (List Word × Instr) := [
  ([0x9E000903, 0xF0F0FE00, 0x00000000], .rdsr (fx 9 3 240 240 0)),
  ([0x9E201003, 0xF0F0FE00, 0x00000000], .wrsr (fx 16 3 240 240 0)),
  ([0x9E410803, 0xF0F0FE00, 0x00000000], .ldk (fx 8 3 240 240 1)),
  ([0x9E600903, 0xC2F0FE05, 0x00000000], .rand { fx 9 3 194 240 0 with ctl := 5 }),
  ([0x9E80C4C2, 0xF0F0FE00, 0x00000000], .wkfetch (fx 196 194 240 240 0))]


/-! ### Ill-formed terms, one for each check -/

/-- R60: a field that a B form leaves unused is 0. R80: MOVI has no X form. R120: SUB. R71: CTL. R69: RND. R70: SAT. R215: the scope
of XBINIT. R69: a guard of 96 to 126, and 127 with PN. R42: a guarded uniform write. R64: a reserved operand, a number where
there is no operand, a modifier where there is no source, an odd pair. R65: an unread literal, a literal of an X form, a 32-bit
literal that is no sign extension. R67: a select of an instruction without. R68: a figure on an s register. R134: a predicate
of 96. R132, R129: a guarded CANON and LOOP. R73: an XL branch with a count beside its literal, an offset of no whole words, a
LOOP of offset 0 or 2 (R129). R138: a block that starts at 1. R177: an unlisted status register. R178: WRSR of a read-only one. R182: an
odd triple. R229: an auxiliary word off its 32 bytes. R60: a BL form with a C. R280: a funct7 not listed. -/
theorem test_ill_formed : ([
    .mov ⟨false, 3, 1, 2⟩, .movi (fx 8 240 4 240 0), .imulExt (fx 8 2 4 240 2), .imulExt { fx 8 2 4 240 0 with ctl := 1 },
    .imulExt { fx 8 2 4 240 0 with rnd := 1 }, .imulExt { fx 8 2 4 240 0 with sat := true }, .xbinit { fx 240 2 5 240 1 with ctl := 1 },
    .imulExt { fx 8 2 4 240 0 with prd := 96 }, .imulExt { fx 8 2 4 240 0 with pn := true }, .imulExt { fx 0xC8 0xC2 0xC4 240 0 with prd := 3 },
    .imulExt (fx 8 0xF3 4 240 0), .imulExt (fx 8 2 4 7 0), .imulExt { fx 8 2 4 240 0 with modc := 1 }, .iaddExt (fx 9 2 4 240 2),
    .imulExt { fx 8 2 4 240 0 with form := .xl }, .imulExt { fx 8 2 4 240 0 with lit := 1 },
    .imulExt { fx 8 2 0xF2 240 0 with form := .xl, lit := 0x80000000 }, .fdiv { fx 9 3 5 240 0 with moda := 0x40 },
    .imulExt { fx 8 0xC2 4 240 0 with moda := 0x008 }, .icmp (fx 96 2 4 240 0), .canon { fx 240 0 0 0 0 with prd := 1 },
    .loop { fx 240 3 0 9 0 with prd := 1 }, .bra { fx 240 0 0 1 0 with form := .xl, lit := 8 }, .bra { fx 240 0 0 0 0 with form := .xl, lit := 6 },
    .loop (fx 240 3 0 0 0), .loop (fx 240 3 0 2 0), .pmov (fx 9 1 240 240 1), .rdsr (fx 9 0x0D 240 240 0), .wrsr (fx 0x14 3 240 240 0), .wkfetch (fx 0xC5 0xC2 240 240 0),
    .mma { fx 1 0xC2 0xC4 0xC6 0 with form := .xl, lit := 1 },
    .iaddExt { fx 3 1 0xF2 5 0 with form := .bl, lit := 5 }, .swait ⟨4, 0, 5, 0⟩] : List Instr).all (fun i => !i.wf) = true := by decide +kernel


/-! ### Decoding and issuing: every encoded instruction, by family -/

theorem test_decode_control : reads controlWords = true := by decide +kernel
theorem test_decode_integer : reads integerWords = true := by decide +kernel
theorem test_decode_packed_and_predicate : reads (packedWords ++ predicateWords) = true := by decide +kernel
theorem test_decode_float : reads floatWords = true := by decide +kernel
theorem test_decode_lane_and_memory : reads (laneWords ++ memoryWords) = true := by decide +kernel
theorem test_decode_copy_and_matrix : reads (copyWords ++ matrixWords) = true := by decide +kernel
theorem test_decode_system : reads systemWords = true := by decide +kernel
/-- R280: the four words of a queue processor; `rfetch x10, x11, x12` is the spec's own. -/
theorem test_decode_queue_processor : [0x00C5850B, 0x0262950B, 0x0202A00B, 0x00C5B50B].map (fun w => decodeHart (BitVec.ofNat 32 w)) =
  [some (.rfetch ⟨0, 12, 11, 10⟩), some (.bfxt ⟨1, 6, 5, 10⟩), some (.swait ⟨1, 0, 5, 0⟩), some (.disp ⟨0, 12, 11, 10⟩)] := by decide +kernel
/-- R280: funct3 4 to 7 and unlisted funct7 are no instructions. R58: a reserved bit of word 2; an unassigned opcode. -/
theorem test_decode_refuses : decodeHart 0x00C5C50B#32 = none ∧ decodeHart 0x02C5850B#32 = none ∧
    (match decode [0x8C600401#32, 0x0203FE00#32, 2#32] with | .error (.bad .opcode) => true | _ => false) = true ∧
    (match decode [0x01A00000#32] with | .error (.bad .opcode) => true | _ => false) = true ∧
    (match decode [0x8C600401#32, 0x0203FE00#32] with | .error .short => true | _ => false) = true := by decide +kernel
/-- The host's reading of a table word. -/
theorem test_table_word : decodeTableWord 32 0x00C00000 = some (.exit false) ∧ decodeTableWord 32 0x00C5850B = some (.rfetch ⟨0, 12, 11, 10⟩) := by
  decide +kernel

/-! ### Worked results of the spec, in one step -/

/-- "Worked results" of the integer chapter. -/
theorem test_worked_iadd : result [0x84000903, 0x05F0FE00, 0] 0x7FFFFFF0 0x20 0 = some 0x80000010 ∧
    result [0x84000903, 0x05F0FE20, 0] 0x7FFFFFF0 0x20 0 = some 0x7FFFFFFF := by decide +kernel
theorem test_worked_iadd4 : result [0x88210903, 0x05F0FE20, 0] 0x10FF8001 0x01018001 0 = some 0x11FFFF02 ∧
    result [0x88200903, 0x05F0FE20, 0] 0x10FF8001 0x01018001 0 = some 0x11008002 := by decide +kernel
theorem test_worked_imulh : result [0x84800903, 0x05F0FE00, 0] 0x80000000 2 0 = some 0xFFFFFFFF ∧
    result [0x84810903, 0x05F0FE00, 0] 0x80000000 2 0 = some 1 := by decide +kernel
theorem test_worked_idiv : pending [0x84E00903, 0x05F0FE00, 0] 0xFFFFFFF9 2 0 = some 0xFFFFFFFD ∧
    pending [0x85000903, 0x05F0FE00, 0] 0xFFFFFFF9 2 0 = some 0xFFFFFFFF ∧
    pending [0x84E10903, 0x05F0FE00, 0] 7 0 0 = some 0xFFFFFFFF ∧ pending [0x85010903, 0x05F0FE00, 0] 7 0 0 = some 7 := by decide +kernel
theorem test_worked_idiv_overflow : pending [0x84E00903, 0x05F0FE00, 0] 0x80000000 0xFFFFFFFF 0 = some 0x80000000 ∧
    pending [0x85000903, 0x05F0FE00, 0] 0x80000000 0xFFFFFFFF 0 = some 0 := by decide +kernel
theorem test_worked_shifts : result [0x85E00903, 0x05F0FE00, 0] 0xFFFFFFF9 1 0 = some 0xFFFFFFFC ∧
    result [0x85E00903, 0x05F0FE00, 0] 0xFFFFFFF9 40 0 = some 0xFFFFFFFF ∧ result [0x85A00903, 0x05F0FE00, 0] 1 32 0 = some 0 := by decide +kernel
theorem test_worked_fields : result [0x87600903, 0x05F0FE00, 0] 0xABCD 0x0804 0 = some 0xFFFFFFBC ∧
    result [0x87610903, 0x05F0FE00, 0] 0xABCD 0x0804 0 = some 0xBC ∧ result [0x87800903, 0x0507FE00, 0] 5 0x0404 0xABCD = some 0xAB5D := by decide +kernel
theorem test_worked_counts : result [0x87000903, 0xF0F0FE00, 0] 0 0 0 = some 32 ∧ result [0x87200903, 0xF0F0FE00, 0] 0x100 0 0 = some 8 := by decide +kernel
/-- R167: the table of conversions (its first, fourth, sixth and last rows that take 32 bits). -/
theorem test_worked_conversions : result [0x920B0903, 0xF0F0FE20, 0] 0x43FA0000 0 0 = some 0x7E ∧ result [0x920A0903, 0xF0F0FE00, 0] 0x3EAAAAAB 0 0 = some 0x3EAB ∧
    result [0x92200903, 0xF0F0FE40, 0] 0xC0300000 0 0 = some 0xFFFFFFFE ∧ result [0x92410903, 0xF0F0FE20, 0] 0 0 0 = some 0 ∧
    result [0x92440903, 0xF0F0FE00, 0] 65520 0 0 = some 0x7C00 ∧ result [0x92610903, 0x05F0FE00, 0] 0x3F800000 0xC0000000 0 = some 0xC0003C00 := by decide +kernel
/-- R181: the steps for counter 0, key 0x5EED, j 0. -/
theorem test_worked_rand : result [0xDE600903, 0xF2F0FE00, 0, 0x5EED, 0] 0 0 0 = some 0x660A87C2 := by decide +kernel
/-- R135: the compare of R41 sets p1 where v0 is below 4. -/
theorem test_icmp : (lane0 (place [0xCA080100, 0xF2F0FE00, 0, 4, 0] (x := withV [(0, 3)]))).map (fun l => l.p.getLsbD 1) = some true ∧
    (lane0 (place [0xCA080100, 0xF2F0FE00, 0, 4, 0] (x := withV [(0, 4)]))).map (fun l => l.p.getLsbD 1) = some false := by decide +kernel
/-- R124: the guarded branch of R41 goes 36 bytes on where p1 is set and 12 where it is not. -/
theorem test_bra : (lane0 (place [0x8020F000, 0x00090200, 0] (x := fun g => { g with lanes := g.lanes.map (fun l => { l with p := 2 }) }))).map (·.pc) =
    some 0x10024#64 ∧ (lane0 (place [0x8020F000, 0x00090200, 0])).map (·.pc) = some 0x1000C#64 := by decide +kernel
/-- R128: EXIT ends every lane of the set. -/
theorem test_exit : (match step (place [0x00C00000]) with
    | .next t => (t.groups.head?.map (fun g => g.lanes.map (·.st))).getD [] == List.replicate 8 .exited
    | _ => false) = true := by decide +kernel
/-- R133: TRAP with code 0x010203 is recorded for every lane, and the group issues no more. -/
theorem test_trap : (match step (place [0x8160F001, 0x0203FE00, 0]) with
    | .next t => (t.grids.head?.map (fun g => g.faults.map (fun r => (r.code, r.lane, r.addr)))).getD [] ==
        (List.range 8).map (fun l => (0x13, l, 0x010203)) && (t.groups.map (·.stopped)) == [true]
    | _ => false) = true := by decide +kernel
/-- R280: an unlisted custom word of a queue processor enters its handler with cause 2. -/
theorem test_hart_trap : (match step { State.reset.withFetchWord 32 0x00C5850B with dram := State.reset.dram.writeN placedAt 4 0x00C5C50B } with
    | .next t => (t.harts.head?.map (fun h => (h.mcause, h.mtval, h.mepc, h.mode))) == some (2#64, 0x00C5C50B#64, 0x10000#64, 3)
    | _ => false) = true := by decide +kernel
/-- R280: a queue processor runs the base instructions: ADDI x5, x0, 7 and, of the compressed ones, C.LI x5, 7. -/
theorem test_hart_base : [(0x00700293, 4), (0x429D, 2)].all (fun x =>
    match step { State.reset.withFetchWord 32 0x00C5850B with dram := State.reset.dram.writeN placedAt 4 x.1 } with
    | .next t => (t.hart? 0).any (fun h => h.getX 5 == 7#64 && h.pc.toNat == placedAt + x.2)
    | _ => false) = true := by decide +kernel

/-! ### A state and operands for the hypotheses of each statement -/

def kernelTag : Nat := (place [0x00A00000]).groups.headD default |>.tag
def inLanes (p : Env → Nat → Bool) (_ : State) (e : Env) : Bool := !e.perf.isEmpty && e.perf.all (p e)
/-- A text section of the process at the placed instruction, with a start, and a transfer point that names v7, 16 bytes on. -/
def textObject : CodeObj := { (default : CodeObj) with handle := 0, proc := 1, text := 0x10000, textLen := 64, starts := [0, 12, 16], points := [(16, 7)], rodata := 0x30000, rodataLen := 8 }
def withText (s : State) : State := { s with objects := [textObject] }
def lanesAre (f : Lane → Lane) (x : Group) : Group := { x with lanes := x.lanes.map f }
def fullWidth (e : Env) : Bool := e.grp.lanes.length == e.w

/-- One in three of a list. -/
def thin : List α → List α
  | a :: _ :: _ :: r => a :: thin r
  | l => l
/-- The fixed- and variable-latency statements (IntegerArithmetic, Division, Shifts, RotatesSelectsAndFields, Bitwise, BitCounts,
MovesAndAddresses, PackedIntegers, PredicatesAndCompares, TernaryBytes among the matrix words): one word in three issues
from where it is placed, and no flag traps. -/
theorem test_meets_integer : ok [
    (thin (integerWords ++ packedWords ++ predicateWords)).all (fun x => issues (place x.1) quiet)] = true := by decide +kernel
/-- FloatArithmetic, FloatSelectAndPacked, SpecialFunctions, Conversions. -/
theorem test_meets_float : ok [
    (thin floatWords).all (fun x => issues (place x.1) quiet)] = true := by decide +kernel
/-- MatrixEffects (MXQ), TernaryBytes, StatusRegisters (RDSR, RAND), NopAndDemote, FencesAndCacheControl. -/
theorem test_meets_plain : ok [
    (thin (controlWords ++ laneWords ++ memoryWords ++ copyWords ++ matrixWords ++ systemWords)).all (fun x => issues (place x.1) quiet)] = true := by decide +kernel
/-- WidthAndSaturation, SpecialValues, FloatSelectAndPacked (FRND, FMIN). -/
theorem test_meets_values : (255 : Nat) < 2 ^ 8 ∧ Fmt.fp32.val 0x7F800001 = .nan true ∧ Fmt.fp32.val 0x7FC00000 = .nan false ∧
    (match Fmt.fp32.val 0xBF800000 with | .fin r => decide (r.mant ≠ 0) && r.neg | _ => false) = true ∧
    [(Fmt.e2m1, 0x7), (.e4m3, 0x7E), (.fp16, 0x7BFF)].all (fun x => match x.1.val x.2 with | .fin r => !r.sticky | _ => false) = true ∧
    Fmt.fp32.val 0xFF800000 = .inf true ∧ Fmt.e4m3.val 0x7F = .nan false ∧ 0xFF800000 < 2 ^ Fmt.fp32.width := by decide +kernel
/-- FloatArithmetic: a value that a mode rounds away and one it does not, one that overflows, one below the smallest subnormal; a quotient with
a remainder; Conversions: a number beyond the range of its integers and one inside. -/
theorem test_meets_rounding :
    (round .fp16 .rup false (.fin ⟨false, 3, -26, false⟩) = (1, flUnderflow ||| flInexact)) ∧ (round .fp16 .rtz false (.fin ⟨false, 3, -26, false⟩) = (0, flUnderflow ||| flInexact)) ∧
    (round .e4m3 .rne false (.fin ⟨false, 500, 0, false⟩) = (0x7F, flOverflow ||| flInexact)) ∧ 2 ^ (Fmt.fp32.frac + 2) ≤ ((⟨false, 1, 0, false⟩ : Rl).div ⟨false, 3, 0, false⟩).mant ∧
    ((⟨false, 1, 0, false⟩ : Rl).div ⟨false, 3, 0, false⟩).sticky = true ∧ (roundInt 32 true .rne false (.fin ⟨true, 1, 31, false⟩) = (2 ^ 31, 0)) ∧
    (roundInt 32 true .rne true (.fin ⟨false, 1, 31, false⟩) = (2 ^ 31 - 1, 0)) := by decide +kernel
/-- WidthAndSaturation: an issue of lanes 1 to 7, whose figure names lane 0 for lane 1 and lane 1 for lane 2; registers, a pair, s registers, zero, the
lane index and the literal; a uniform issue; a guard. -/
theorem test_meets_operands : ok [
    issues (place [0x84600902, 0x05F0FE00, 0x02400000] (x := fun g => { g with lanes := g.lanes.modify 0 (fun l => { l with st := .exited }) })) (fun _ e =>
      modFig e.f.moda == 1 && e.mask == 0xFE#64 && !e.mask.getLsbD (figLane e.w 7 1 1) && e.mask.getLsbD (figLane e.w 1 1 1)),
    [0x02#8, 0xC2#8, 0xF0#8, 0xF1#8, 0xF2#8].map (fun x => (decide (x.toNat < 0xC0), decide (0xC0 ≤ x.toNat ∧ x.toNat < 0xF0))) ==
      [(true, false), (false, true), (false, false), (false, false), (false, false)],
    issues (place [0x9E80C4F0, 0xF0F0FE00, 0]) (fun _ e => e.uniform && e.exec == [0]),
    issues (place [0x84600902, 0x05F00700, 0]) (fun _ e => e.f.prd == 3 && e.f.pn && !e.uniform && decide (e.f.d.toNat < 96))] = true := by decide +kernel
/-- The words of an instruction on registers 3, 5 and 7, on 3 and 5, and on 3, with register or predicate 9 for its result; a B form. -/
def onRegs (opc : Nat) : List Word := [BitVec.ofNat 32 (2 * 2 ^ 30 + opc * 2 ^ 21 + 9 * 256 + 3), 0x0507FE00, 0]
def onTwo (opc : Nat) (sub : Nat := 0) : List Word := [BitVec.ofNat 32 (2 * 2 ^ 30 + opc * 2 ^ 21 + sub * 2 ^ 16 + 9 * 256 + 3), 0x05F0FE00, 0]
def onOne (opc : Nat) (sub : Nat := 0) : List Word := [BitVec.ofNat 32 (2 * 2 ^ 30 + opc * 2 ^ 21 + sub * 2 ^ 16 + 9 * 256 + 3), 0xF0F0FE00, 0]
def inB (opc : Nat) : List Word := [BitVec.ofNat 32 (opc * 2 ^ 21 + 9 * 2 ^ 14 + 3 * 2 ^ 7 + 5)]
/-- FloatTraps: each instruction on operands that raise a flag (signalling NaNs, in each half for the packed ones; an integer that a
binary32 does not hold), under a kernel that traps on every one. -/
theorem test_meets_FloatTraps :
    let on (ws : List Word) (x : Nat) (out : Env → Nat → Out) : Bool :=
      issues (place ws (g := fun g => { g with kcb := { g.kcb with fptrap := 31#5 } }) (x := withV [(3, x), (5, x), (7, x)]))
        (fun _ e => e.exec.any (fun l => (out e l).flags &&& e.grid.kcb.fptrap != 0#5))
    let n := 0x7F800001
    let h := 0x7C017C01
    ok [on (inB 0x60) n Env.faddOut, on (inB 0x61) n Env.fsubOut, on (inB 0x62) n Env.fmulOut,
      on (onTwo 0x60) n Env.faddOut, on (onTwo 0x61) n Env.fsubOut, on (onTwo 0x62) n Env.fmulOut, on (onRegs 0x63) n Env.ffmaOut,
      on (onTwo 0x64) n (Env.fselOut false), on (onTwo 0x65) n (Env.fselOut true), on (onOne 0x66) n Env.frndOut, on (onTwo 0x68) n Env.fscaleOut,
      on (onTwo 0x70) h Env.haddOut, on (onTwo 0x71) h Env.hmulOut, on (onRegs 0x72) h Env.hfmaOut, on (onTwo 0x73) h (Env.hselOut false),
      on (onTwo 0x74) h (Env.hselOut true), on (onOne 0x90 9) n Env.fcvtOut, on (onOne 0x91) n Env.f2iOut, on (onOne 0x92) 0x1000001 Env.i2fOut,
      on (onTwo 0x93 1) n Env.cvtpkOut, on (onTwo 0x51) n Env.fcmpOut] = true := by decide +kernel
/-- StatusRegisters: WRSR of `fstat` with 31 and of lc0; with 32, a fault. -/
theorem test_meets_StatusRegisters : ok [
    issues (place [0x9E201003, 0xF0F0FE00, 0] (x := withV [(3, 31)])) (inLanes fun e l => decide (e.a32 l < 32)),
    issues (place [0x9E201103, 0xF0F0FE00, 0] (x := withV [(3, 32)])) quiet,
    issues (place [0x9E201003, 0xF0F0FE00, 0] (x := withV [(3, 32)])) (inLanes fun e l => decide (32 ≤ e.a32 l))] = true := by decide +kernel
/-- KernelConstants: the last pair of the launch record; the last word of the constant space; a misplaced offset. -/
theorem test_meets_KernelConstants : ok [
    issues (place [0x9E410803, 0xF0F0FE00, 0] (x := withV [(3, 56)])) (inLanes fun e l => e.sub.testBit 1 == false && decide (e.a32 l % 8 = 0 ∧ e.a32 l + 8 ≤ 64)),
    issues (withText (place [0x9E420903, 0xF0F0FE00, 0] (x := withV [(3, 4)])))
      (fun v e => e.sub.testBit 1 && v.object? e.grid.handle == some textObject &&
        e.exec.all (fun l => decide (e.a32 l % 4 = 0 ∧ e.a32 l + 4 ≤ 8)) &&
        (chkList (fun s l => s.chkVa e.team.core e.grid.part e.grid.proc (0x30000 + e.a32 l) (e.a32 l) .rd) e.exec v).1 == e.exec.map (fun l => (l, .ok (.dram 0x30004)))),
    issues (place [0x9E400903, 0xF0F0FE00, 0] (x := withV [(3, 2)])) (inLanes fun e l => !e.uniform && decide (e.a32 l % 4 ≠ 0) && !(e.lane l).demoted)] = true := by decide +kernel
/-- WorkClaims: one item, and the largest count; a claim at the dispenser. -/
theorem test_meets_WorkClaims : ok [
    issues (place [0x9E80C4F0, 0xF0F0FE00, 0]) (fun _ e => e.f.a == 0xF0#8),
    issues (place [0x9E80C4C2, 0xF0F0FE00, 0] (x := fun g => { g with s := [(2, 65536#32)] })) (fun _ e => e.a32 (e.set.headD 0) == 65536),
    [0, 65537].all (fun n => issues (place [0x9E80C4C2, 0xF0F0FE00, 0] (x := fun g => { g with s := Sparse.set 0#32 [] 2 (BitVec.ofNat 32 n) })) (fun _ e => e.a32 (e.set.headD 0) == n && e.set.head? == some 0)),
    (let s := { place [0x00A00000] with fetches := [{ (default : Fetch) with id := 7, tag := kernelTag, n := 3 }] }
     (s.fetches.find? (fun y => y.id == 7)).isSome && (s.grid? kernelTag).isSome)] = true := by decide +kernel
/-- ResultReturn: a result of one lane, of one lane's s register, of a uniform set and of two lanes, with flags that no kernel traps; one of
a lane, one of a uniform set and a collective's of two lanes with a flag that the kernel traps. -/
theorem test_meets_ResultReturn : ok [
    ok ([({ (default : Result) with lanes := 1, writes := [(0, [⟨.v 9, 5⟩])], flags := [(0, 1#5)] } : Result),
      { (default : Result) with lanes := 1, writes := [(0, [⟨.s 9, 5⟩])] }, { (default : Result) with lanes := 2, uni := true, writes := [(0, [⟨.s 9, 5⟩])] },
      { (default : Result) with lanes := 1, coll := true, writes := [(0, [⟨.v 9, 5⟩]), (1, [⟨.v 9, 6⟩])], flags := [(0, 1#5), (1, 16#5)] }].map (fun r =>
     let r := { r with id := 7, tag := kernelTag }
     let s := { place [0x00A00000] with results := [r] }
     s.results.find? (fun x => x.id == 7) == some r && s.mayReturn r && (s.grid? kernelTag).any (fun g => r.flags.all (fun x => x.2 &&& g.kcb.fptrap == 0#5)) &&
       decide ((r.writes.map (·.1)).Nodup) && r.writes.all (fun x => decide ((x.2.map (·.dest)).Nodup)) && (s.group? kernelTag 0 0).any (fun g => g.has 0 (.v 9) && g.has 0 (.s 9)))),
    (let r : Result := { (default : Result) with id := 7, tag := kernelTag, lanes := 1, writes := [(0, [⟨.v 9, 5⟩])], flags := [(0, 1#5)] }
     let s := { place [0x00A00000] (g := fun g => { g with kcb := { g.kcb with fptrap := 31#5 } }) with results := [r] }
     s.results.find? (fun x => x.id == 7) == some r && s.mayReturn r && (s.group? kernelTag 0 0).isSome && !r.uni && !r.coll &&
       (s.grid? kernelTag).any (fun gr => r.flags.any (fun x => r.lanes.getLsbD x.1 && x.2 &&& gr.kcb.fptrap != 0#5))),
    (let r : Result := { (default : Result) with id := 7, tag := kernelTag, coll := true, lanes := 6, writes := [(1, [⟨.v 9, 5⟩]), (2, [⟨.v 9, 6⟩])], flags := [(1, 1#5), (2, 1#5)] }
     let s := { place [0x00A00000] (g := fun g => { g with kcb := { g.kcb with fptrap := 31#5 } }) with results := [r] }
     s.results.find? (fun x => x.id == 7) == some r && s.mayReturn r && (s.group? kernelTag 0 0).isSome && !r.uni && decide ((r.flags.map (·.1)).Pairwise (· < ·)) &&
       (s.grid? kernelTag).any (fun gr => (r.flags.filter (fun x => r.lanes.getLsbD x.1 && x.2 &&& gr.kcb.fptrap != 0#5)).map (·.1) == [1, 2])),
    (let r : Result := { (default : Result) with id := 7, tag := kernelTag, uni := true, low := 1, lanes := 6, writes := [(0, [⟨.s 9, 5⟩])], flags := [(0, 1#5)] }
     let s := { place [0x00A00000] (g := fun g => { g with kcb := { g.kcb with fptrap := 31#5 } }) with results := [r] }
     s.results.find? (fun x => x.id == 7) == some r && s.mayReturn r && (s.group? kernelTag 0 0).isSome &&
       (s.grid? kernelTag).any (fun gr => 1#5 &&& gr.kcb.fptrap != 0#5))] = true := by decide +kernel
/-- BranchesAndCalls: BRA and BRX to the transfer point, CALL and CALLX at depth 1,022; in run-time code a branch that stays in its
loop's body. -/
theorem test_meets_BranchesAndCalls : ok [
    issues (place [0x80601000, 0x0009FE00, 0] (x := lanesAre fun l => { l with frames := List.replicate 1022 ⟨0x10010#64, 0⟩ }))
      (fun _ e => fullWidth e && e.perf.all (fun l => decide ((e.lane l).frames.length ≠ 1023 ∧ (e.lane l).w0 + e.f.d.toNat + e.role.budget ≤ e.role.stack) &&
        !e.leavesBody l (e.pc + BitVec.ofInt 64 (Fields.branchOff e.f)))),
    issues { place [0x8020F000, 0x0009FE00, 0] (x := lanesAre fun l => { l with loops := [⟨0x10000#64, 0x10030#64, 0, false⟩] }) with
        runcode := [{ (default : RunCode) with proc := 1, va := 0x10000, len := 0x10000 }] }
      (fun _ e => e.inRun && fullWidth e && e.perf.all (fun l => !e.leavesBody l (e.pc + BitVec.ofInt 64 (Fields.branchOff e.f)) && e.leavesBody l 0x10034#64)),
    issues (place [0x8020F000, 0x0009FE00, 0]) (fun _ e => fullWidth e && e.perf.all (fun l => !e.leavesBody l (e.pc + BitVec.ofInt 64 (Fields.branchOff e.f)))),
    issues (withText (place [0x8040F002, 0xF0F0FE00, 0] (x := withV [(2, 0x10010)]) (g := fun g => { g with kcb := { g.kcb with roles := [{ groups := 1, budget := 8, stack := 1024, entry := 0 }] } })))
      (fun _ e => fullWidth e && e.perf.all (fun l => e.s.checkTransfer e.grid e.role false (e.a64 l) == none && !e.leavesBody l (BitVec.ofNat 64 (e.a64 l)))),
    issues (withText (place [0x80801002, 0xF0F0FE00, 0] (x := fun g => lanesAre (fun l => { l with frames := List.replicate 1022 ⟨0x10010#64, 0⟩, w0 := 1000 }) (withV [(1002, 0x10010)] g))
        (g := fun g => { g with kcb := { g.kcb with roles := [{ groups := 1, budget := 8, stack := 1024, entry := 0 }] } })))
      (fun _ e => fullWidth e && e.perf.all (fun l => e.s.checkTransfer e.grid e.role false (e.a64 l) == none && decide ((e.lane l).frames.length ≠ 1023) &&
        decide ((e.lane l).w0 + e.f.d.toNat + e.role.budget ≤ e.role.stack)))] = true := by decide +kernel
/-- TransferFaults: CALL and CALLX at depth 1,023, and with a window that no longer fits; CALLX and BRX to a target with no transfer
point; each check of a computed transfer; RET to such an address, and in a loop of run-time code. -/
theorem test_meets_TransferFaults : ok [
    ok ([fun (l : Lane) => { l with frames := List.replicate 1023 ⟨0x10010#64, 0⟩ }, fun l => { l with w0 := 817 }].map (fun x =>
      let deep (e : Env) (l : Nat) : Bool := decide ((e.lane l).frames.length = 1023 ∨ e.role.stack < (e.lane l).w0 + e.f.d.toNat + e.role.budget)
      issues (place [0x80601000, 0x0009FE00, 0] (x := lanesAre x)) (fun _ e => e.perf.any (deep e) &&
          e.perf.all (fun l => !e.leavesBody l (e.pc + BitVec.ofInt 64 (Fields.branchOff e.f)))) &&
        issues (place [0x80801002, 0xF0F0FE00, 0] (x := lanesAre x)) (fun _ e => e.perf.any (deep e) && e.perf.all (fun l => deep e l && !e.leavesBody l 0x10010#64)))),
    issues (withText (place [0x80801002, 0xF0F0FE00, 0] (x := withV [(2, 0x1000C)])))
      (fun _ e => e.perf.all (fun l => decide ((e.lane l).frames.length ≠ 1023 ∧ (e.lane l).w0 + e.f.d.toNat + e.role.budget ≤ e.role.stack) &&
        !e.leavesBody l (BitVec.ofNat 64 (e.a64 l))) && e.perf.any (fun l => e.s.checkTransfer e.grid e.role false (e.a64 l) == some 0x03)),
    issues (withText (place [0x8040F002, 0xF0F0FE00, 0] (x := withV [(2, 0x10002)])))
      (fun _ e => e.perf.all (fun l => !e.leavesBody l (BitVec.ofNat 64 (e.a64 l))) && e.perf.any (fun l => e.s.checkTransfer e.grid e.role false (e.a64 l) == some 0x06)),
    (let s := withText (place [0x00A00000])
     (s.proc? 1).any (fun p => (match walk s.dram p.root (2 ^ 40) .ex with | .leaf _ _ _ _ _ _ => false | _ => true) &&
       (match walk s.dram p.root 0x10010 .ex with | .leaf _ _ _ _ _ _ => true | _ => false)) &&
     !canonicalVa (2 ^ 56) && canonicalVa 0x10010 && s.textOf 1 0x10010 == some textObject && !textObject.starts.contains 4 && textObject.starts.contains 12 && (textObject.points.find? (fun z => z.1 == 12)).isNone &&
     (textObject.points.find? (fun z => z.1 == 16)).isSome),
    [[0x00A00000], [0x80A0F0F0, 0xF0F0FE00, 0]].all (fun w =>
      issues (withText (place w (x := lanesAre fun l => { l with frames := [⟨0x10002#64, 4⟩], w0 := 4 }))) (inLanes fun e l => match (e.lane l).frames with
        | fr :: _ => !e.inRun && e.s.checkTransfer e.grid e.role true fr.ret.toNat == some 0x06
        | [] => false) &&
      (let s := place w (x := lanesAre fun l => { l with loops := [⟨0x10000#64, 0x10030#64, 0, false⟩] })
       issues { s with runcode := [{ proc := (s.grids.headD default).proc, va := 0x10000, len := 65536, base := 0, canon := [] }] }
         (inLanes fun e l => e.inRun && (e.lane l).loopHere.isSome)))] = true := by decide +kernel
/-- ReturnsAndExits: RET with a frame, at depth 0; EXIT. -/
theorem test_meets_ReturnsAndExits : ok [
    [[0x00A00000], [0x80A0F0F0, 0xF0F0FE00, 0]].all (fun w => issues (withText (place w (x := lanesAre fun l => { l with frames := [⟨0x1000C#64, 4⟩], w0 := 4 })))
      (fun _ e => !e.inRun && fullWidth e && e.perf.all (fun l => match (e.lane l).frames with
        | fr :: _ => e.s.checkTransfer e.grid e.role true fr.ret.toNat == none
        | [] => false))),
    [[0x00A00000], [0x80A0F0F0, 0xF0F0FE00, 0], [0x00C00000], [0x80C0F0F0, 0xF0F0FE00, 0]].all (fun w => issues (place w)
      (fun _ e => !e.inRun && fullWidth e && e.perf.all (fun l => (e.lane l).frames.isEmpty)))] = true := by decide +kernel
/-- HardwareLoops: LOOP with two loops open, a count of 0 and of 5, with three; LBRK in a loop and in none. -/
theorem test_meets_HardwareLoops : ok [
    ok ([0, 5].map (fun n => issues (place [0x8100F003, 0x0009FE00, 0] (x := fun g => lanesAre (fun l => { l with loops := List.replicate 2 ⟨0x10000#64, 0x10030#64, 0, false⟩ }) (withV [(3, n)] g)))
      (fun _ e => fullWidth e && e.perf.all (fun l => e.a32 l == n && decide ((e.lane l).loops.length < 3) && !e.leavesBody l 0x10028#64)))),
    [[0x01200000], [0x8120F0F0, 0xF0F0FE00, 0]].all (fun w => issues (place w) (inLanes fun e l => (e.lane l).loopHere.isNone)),
    issues (place [0x8100F003, 0x0009FE00, 0] (x := lanesAre fun l => { l with loops := List.replicate 3 ⟨0x10000#64, 0x10030#64, 0, false⟩ }))
      (inLanes fun e l => (e.lane l).loops.length == 3),
    [[0x01200000], [0x8120F0F0, 0xF0F0FE00, 0]].all (fun w => issues (place w (x := lanesAre fun l => { l with loops := [⟨0x10000#64, 0x10030#64, 0, false⟩] }))
      (fun _ e => fullWidth e && e.perf.all (fun l => match (e.lane l).loops with
        | r :: _ => r.depth == (e.lane l).frames.length
        | [] => false)))] = true := by decide +kernel
/-- CanonicalPoints: a CANON without a debugger, its sync set empty and not; two parked lanes that wait for none but each other. -/
theorem test_meets_CanonicalPoints : ok [
    issues (place [0x8140F000, 0x0000FE00, 0]) (fun _ e => e.grid.dbg == none),
    issues { place [0x8140F000, 0x0000FE00, 0] (x := lanesAre fun l => { l with sigma := 3 }) with
        objects := [{ textObject with canon := [{ (default : CanonEnt) with sync := true }] }] }
      (fun v e => (v.canonEnt e.grid (v.ordAt e.grid.proc e.pc.toNat 0)).any (·.sync) && e.perf.all (fun l => (e.lane l).sigma != 0#64)),
    (let s := place [0x8140F000, 0x0000FE00, 0] (x := fun g => { g with lanes := (g.lanes.take 2).map (fun l => { l with st := .atSync, sigma := 3 }) })
     (s.group? kernelTag 0 0).any (fun g => s.unstopped g && g.syncReady == 3#64 && decide (g.lanes.length ≤ 64)) && (match s.fetch 0 1 0x10000 with | .ok (.canon _) 12 => true | _ => false))] = true := by decide +kernel
/-- DeliberateFaults: TRAP and BRK with lanes that perform, without and with a debugger; TRAP with none. -/
theorem test_meets_DeliberateFaults : ok [
    [[0x8160F001, 0x0203FE00, 0], [0x8180F001, 0x0203FE00, 0]].all (fun w => issues (place w) (fun _ e => !e.perf.isEmpty && e.grid.dbg == none)),
    issues (place [0x8180F001, 0x0203FE00, 0] (g := fun g => { g with dbg := some ⟨[], [], []⟩ })) (fun _ e => !e.perf.isEmpty && e.grid.dbg != none),
    issues (place [0x8160F001, 0x02030200, 0]) (fun _ e => e.perf.isEmpty)] = true := by decide +kernel
/-- CollectiveArrivals: a first arrival at every collective; a second at one; performing lanes outside the set, all of them where it is empty; a
guarded-off lane outside it. -/
theorem test_meets_CollectiveArrivals : ok [
    (laneWords ++ matrixWords.filter (fun x => match opFields x.2 with | some (o, _) => isCollective o | none => false)).all (fun x => issues (place x.1)
      (fun _ e => (e.grp.inst? e.pc e.depth (e.f.ctl.toNat % 8)).isNone && (let m := if e.f.ctl.toNat % 8 = 0 then e.grp.live else Sparse.get 0#64 e.grp.cv (e.f.ctl.toNat % 8)
        e.mask &&& ~~~m == 0#64 || e.f.ctl.toNat % 8 != 0))),
    issues (place [0x94010903, 0x05F0FE01, 0] (x := fun g => { g with cv := [(1, 0xFF#64)] })) (fun _ e => e.mask &&& ~~~(Sparse.get 0#64 e.grp.cv 1) == 0#64),
    [0x0F#64, 0#64].all (fun m => issues (place [0x94010903, 0x05F0FE01, 0] (x := fun g => { g with cv := Sparse.set 0#64 [] 1 m })) (fun _ e =>
      (e.grp.inst? e.pc e.depth 1).isNone && e.perf.filter (fun l => !(Sparse.get 0#64 e.grp.cv 1).getLsbD l) == (if m = 0 then e.perf else [4, 5, 6, 7]))),
    issues (place [0x94010903, 0x05F00601, 0] (x := fun g => { g with cv := [(1, 0x0F#64)], lanes := g.lanes.mapIdx (fun i l => if i < 4 then { l with p := 8#96 } else l) })) (fun _ e =>
      (e.perf.filter (fun l => !(Sparse.get 0#64 e.grp.cv 1).getLsbD l)).isEmpty && !e.perf.isEmpty && e.mask &&& ~~~(Sparse.get 0#64 e.grp.cv 1) != 0#64),
    issues (place [0x94800903, 0xF0F0FE00, 0] (x := fun g => { g with
        lanes := (g.lanes.take 4).map (fun l => { l with st := .atCollective 5 }) ++ g.lanes.drop 4,
        insts := [{ (default : Inst) with id := 5, pc := 0x10000, opc := 0xA4, arrivals := [⟨0, true, 0, 0, 0⟩] }] }))
      (fun _ e => e.grp.inst? e.pc e.depth 0 == e.grp.insts.head? && e.mask &&& ~~~e.grp.live == 0#64)] = true := by decide +kernel
/-- CollectiveIssues: a complete vote-like instance, a complete CVSET; one whose missing members have exited; two that wait for each other's lanes,
with a lane at a synchronising CANON; a matrix instance with a member whose guard is true, and with none. -/
theorem test_meets_CollectiveIssues : ok [
    [0xA0, 0xA7].all (fun o =>
      let i : Inst := { (default : Inst) with id := 5, pc := 0x10000, opc := o, arrivals := (List.range 8).map (fun l => ⟨l, true, 1, 0, 0⟩), done := some 9 }
      let s := place [0x00A00000] (x := fun g => { g with insts := [i] })
      (s.grid? kernelTag).isSome && (s.group? kernelTag 0 0).any (fun g => s.unstopped g && s.results.isEmpty && g.insts.find? (fun x => x.id == 5) == some i && g.insts.all (fun x => x.done.all (fun u => decide (9 ≤ u))))),
    (let i : Inst := { (default : Inst) with id := 5, pc := 0x10000, opc := 0xA2, f := fx 3 1 240 240 0, members := 3, arrivals := [⟨0, true, 1, 0, 0⟩] }
     let j : Inst := { i with f := { i.f with ctl := 1 } }
     let s := place [0x00A00000] (x := fun g => { g with insts := [j], lanes := g.lanes.modify 1 (fun l => { l with st := .exited }) })
     (s.grid? kernelTag).isSome && (s.group? kernelTag 0 0).any (fun g => s.unstopped g && g.insts.contains j && (j.set g &&& ~~~ j.arrivedMask &&& g.live) == 0#64)),
    (let i : Inst := { (default : Inst) with id := 5, pc := 0x10000, opc := 0xA2, f := fx 3 1 240 240 0, members := 0xFF, arrivals := [⟨0, true, 1, 0, 0⟩] }
     let j : Inst := { i with id := 6, pc := 0x1000C, arrivals := [⟨1, true, 1, 0, 0⟩] }
     let s := place [0x00A00000] (x := fun g => { g with insts := [i, j], lanes := g.lanes.mapIdx (fun k l => { l with sigma := 3, st := if k = 0 then .atCollective 5 else if k = 1 then .atCollective 6 else .atSync }) })
     (s.grid? kernelTag).isSome && (s.group? kernelTag 0 0).any (fun g => s.unstopped g && g.syncReady == 0#64 && g.insts == [i, j] &&
       g.lanes.all (fun x => x.st == .atSync || g.insts.any (fun k => k.done.isNone && x.st == .atCollective k.id)))),
    ok ([true, false].map (fun b =>
      let i : Inst := { (default : Inst) with id := 5, pc := 0x10000, opc := 0xE2, arrivals := (List.range 8).map (fun l => ⟨l, b, 0, 0, 0⟩), done := some 9 }
      let s := place [0x00A00000] (x := fun g => { g with insts := [i] })
      (s.grid? kernelTag).isSome && (s.team? kernelTag 0).isSome && (s.group? kernelTag 0 0).any (fun g => s.unstopped g && g.insts.find? (fun x => x.id == 5) == some i &&
        g.insts.all (fun x => x.done.all (fun u => decide (9 ≤ u)))) &&
        s.groups.all (fun h => h.insts.all (fun x => x.done.all (fun v => decide (9 ≤ v)))) &&
        (s.grid? kernelTag).any (fun gr => (i.parts gr.kcb.width).any (·.guard) == b)))] = true := by decide +kernel
/-- LaneValues: a shuffle from outside, from a lane that did not arrive and from one that did; a broadcast of both; a combination of
words; a second guard-true contribution, of a signalling NaN. -/
theorem test_meets_LaneValues : let ps : List Arrival := [⟨0, true, 7, 8, 0⟩, ⟨1, false, 5, 0, 0⟩, ⟨2, true, 0x7F800001, 0, 0⟩]
    (8 : Int) ≤ (8 : Nat) ∧ arrivalAt ps 0 = some ⟨0, true, 7, 8, 0⟩ ∧ (0 : Int) ≤ 3 ∧ (3 : Int) < (8 : Nat) ∧ arrivalAt ps 3 = none ∧
    arrivalAt ps (9 % 8) = some ⟨1, false, 5, 0, 0⟩ ∧ arrivalAt ps (11 % 8) = none ∧ 0xFFFFFFFF < 2 ^ 32 ∧
    (ps.filter (·.guard))[1]? = some ⟨2, true, 0x7F800001, 0, 0⟩ := by decide +kernel

/-- Places found for every lane of a list, at the identity of the one mapped page or in the team's own scratchpad. -/
def found (sp : Space) (size : Nat) (k : Acc) (ls : Env → List Nat) (loc : Env → Nat → Loc) (v : State) (e : Env) : Bool :=
  !(ls e).isEmpty && (e.chkAll sp size k e.addr (ls e) v).1 == (ls e).map (fun l => (l, .ok (loc e l)))
def atDram (e : Env) (l : Nat) : Loc := .dram (e.addr l)
def inOwn (e : Env) (l : Nat) : Loc := .scr e.team.core (e.team.base + e.addr l)
def awake (e : Env) : List Nat := e.perf.filter (fun l => !(e.lane l).demoted)

/-- AddressChecks: each check of an address, one address failing it, or passing all; a TLB that holds its leaf, and one that does not. -/
theorem test_meets_AddressChecks : ok [
    issues (place [0x96440802, 0xF0F0FE00, 0]) (fun v e => decide (6 % 4 ≠ 0 ∧ 4092 % 4 = 0 ∧ 2 ≤ 2 * 2 ^ 32 / 2 ^ 32 ∧ 0x100000004 / 2 ^ 32 < 2) &&
      !canonicalVa (2 ^ 56 * 3) && canonicalVa 0x20000 && (match (v.translate e.grid.proc 0x20000 .rd).1 with | .at_ _ => true | _ => false) &&
      (match (v.translate e.grid.proc (2 ^ 40) .rd).1 with | .bad _ => true | .miss _ => true | _ => false)),
    issues { place [0x96440802, 0xF0F0FE00, 0] with teams := [{ (default : Team) with tag := kernelTag, idx := 0, resident := true }, { (default : Team) with tag := kernelTag, idx := 1 }] }
      (fun v e => (v.team? e.grid.tag (e.team.idx / e.grid.kcb.cluster * e.grid.kcb.cluster + 0x100000004 / 2 ^ 32)).isSome),
    (let s := place [0x96440802, 0xF0F0FE00, 0]
     let t : TlbEnt := { core := 0, proc := 1, level := 2, page := 0, entry := 0x7F, at_ := 0x3000 }
     ({ s with tlb := [t] } : State).tlb? 0 1 0x20000 == some t && permits t.entry .rd && t.entry.testBit 6 && (s.tlb? 0 1 0x20000).isNone && s.walkers.isEmpty && (s.proc? 1).isSome),
    (let s := place [0x96440802, 0xF0F0FE00, 0]
     issues { s with dram := s.dram.writeN 0x3008 8 (2 ^ 64 - 1) } (fun v e => match (v.translate e.grid.proc 0x40000000 .rd).1 with | .bad _ => canonicalVa 0x40000000 | _ => false))] = true := by decide +kernel
/-- What the checks of the lanes of an instruction find: misses, and faults of the lanes that a test names. -/
def finds (sp : Space) (size : Nat) (k : Acc) (ls : Env → List Nat) (miss : Bool) (v : State) (e : Env) : Bool :=
  let cs := (e.chkAll sp size k e.addr (ls e) v).1
  (cs.any (fun x => match x.2 with | .miss _ _ => true | _ => false)) == miss && (miss || cs.any (fun x => match x.2 with | .fault _ _ => true | _ => false))
/-- LoadsAndStoresLeave, AtomicsLeave, BarrierObjects: addresses off their alignment, one in memory that does not translate, and one that a
demoted lane of a load has. -/
theorem test_meets_stops : ok [
    ok ([(0x96060802, Acc.rd), (0x9626F002, .wr)].flatMap (fun w => [(0x20011, false), (0x40000000, true)].map (fun a =>
      issues (place [BitVec.ofNat 32 w.1, if w.2 = .rd then 0xF0F0FE00 else 0x08F0FE00, 0] (x := withV [(2, a.1)])) (finds .global 16 w.2 Env.perf a.2)))),
    ok ([(0x96460802, Acc.rd, Space.own), (0x9666F002, .wr, .own), (0x96860802, .rd, .cluster), (0x96A6F002, .wr, .cluster)].map (fun w =>
      issues (place [BitVec.ofNat 32 w.1, (if w.2.1 = .rd then 0xF0F0FE00 else 0x08F0FE00) + (if w.2.2 = .own then 0 else 1), 0] (x := withV [(2, 4096)])) (finds w.2.2 16 w.2.1 Env.perf false))),
    ok (memoryWords.map (fun x => match opFields x.2 with
    | some (o, _) => if o < 0xB8 ∨ 0xBD < o then true else
      (if o ≤ 0xBA then [(0x20001, false), (0x40000000, true)] else [(0x10000, false)]).all (fun (a : Nat × Bool) =>
        issues (place x.1 (x := withV ((List.range 4).map (fun r => (2 * r, a.1))))) (finds (if o ≤ 0xBA then .global else .own) 4 .rw awake a.2))
    | none => false)),
    issues (place [0x96060802, 0xF0F0FE00, 0] (x := fun g => { withV [(2, 0x20010)] g with lanes := (withV [(2, 0x20010)] g).lanes.modify 3 (fun l =>
      { l with demoted := true, v := Sparse.set 0#32 l.v 2 0x20011#32 }) })) (fun v e => (e.chkAll .global 16 .rd e.addr e.exec v).1 == e.exec.map (fun l =>
        (l, if l = 3 then .fault 0x06 0x20011 else .ok (atDram e l))) && (e.lane 3).demoted && !e.uniform)] = true := by decide +kernel
/-- LoadsAndStoresLeave: a 16-byte load and store at an aligned address, in each space. -/
theorem test_meets_LoadsAndStoresLeave : ok [
    issues (place [0x96060802, 0xF0F0FE00, 0] (x := withV [(2, 0x20010)])) (found .global 16 .rd Env.exec atDram),
    issues (place [0x9626F002, 0x08F0FE00, 0] (x := withV [(2, 0x20010)])) (found .global 16 .wr awake atDram),
    issues (place [0x96460802, 0xF0F0FE00, 0] (x := withV [(2, 4080)])) (found .own 16 .rd Env.exec inOwn),
    issues (place [0x9666F002, 0x08F0FE00, 0] (x := withV [(2, 4080)])) (found .own 16 .wr awake inOwn),
    issues (place [0x96860802, 0xF0F0FE01, 0] (x := withV [(2, 4080)])) (found .cluster 16 .rd Env.exec inOwn),
    issues (place [0x96A6F002, 0x08F0FE01, 0] (x := withV [(2, 4080)])) (found .cluster 16 .wr awake inOwn)] = true := by decide +kernel
/-- AtomicsLeave: every atomic, with one demoted lane. -/
theorem test_meets_AtomicsLeave : ok [
    ok (memoryWords.map (fun x => match opFields x.2 with
    | some (o, _) => if o < 0xB8 ∨ 0xBD < o then true else
      issues (place x.1 (x := fun g => { g with lanes := g.lanes.modify 3 (fun l => { l with demoted := true }) }))
        (fun v e => if o ≤ 0xBA then found .global 4 .rw awake atDram v e else found .own 4 .rw awake inOwn v e)
    | none => false))] = true := by decide +kernel
/-- TaggedReductionsLeave: a floating REDG in a deterministic grid. -/
theorem test_meets_TaggedReductionsLeave : ok [
    issues (place [0x9749F002, 0x05F0FE00, 0] (g := fun g => { g with kcb := { g.kcb with det := true } }))
      (fun v e => e.grid.kcb.det && e.sub == 9 && found .global 4 .rw awake atDram v e && (awake e).all (fun l => !(atDram e l).isSys && (e.lane l).tseq == 0))] = true := by decide +kernel
def anAccess : Access := { (default : Access) with id := 7, tag := kernelTag, lanes := 1, size := 4, loc := .dram 0x20000, dest := .v 9 }
/-- FencesAndCacheControl: a fence and an IFENCE that are next of their lane; one lane's `l1inv`. -/
theorem test_meets_FencesAndCacheControl : ok [
    ok ([AccKind.fence, .ifence].map (fun k =>
      let a : Access := { anAccess with kind := k, scope := 2, ord := 1 }
      let s : State := { place [0x00A00000] with accs := [a] }
      s.accs.find? (fun x => x.id == 7) == some a && s.eligible a)),
    issues (place [0x9860F002, 0xF0F0FE00, 0] (x := fun g => { withV [(2, 0x20000)] g with lanes := (withV [(2, 0x20000)] g).lanes.take 1 })) (fun v e =>
      e.sub == 0 && e.perf == [0] && (v.chkGlobal e.team.core e.grid.part e.grid.proc (e.addr 0) 1 .rd).1 == .ok (.dram 0x20000))] = true := by decide +kernel
/-- AccessEffects: an access of each kind that is over at once, in memory and in a scratchpad. -/
theorem test_meets_AccessEffects : ok [
    ok ([AccKind.store, .atom 0 true, .cas true, .load true, .ldk].flatMap (fun k => [Loc.dram 0x20000, .scr 0 0x100].map (fun l =>
    let a : Access := { anAccess with kind := k, loc := l }
    let s : State := { place [0x00A00000] with accs := [a] }
    s.accs.find? (fun x => x.id == 7) == some a && s.eligible a && !s.poisoned a.loc a.size && a.lanes != 0#64 && s.l1.isEmpty &&
      (l == .dram 0x20000 || l == .scr (0x100 / Config.scratchBytes) (0x100 % Config.scratchBytes)))))] = true := by decide +kernel
/-- UpdatesAndBytes. -/
theorem test_meets_UpdatesAndBytes : ok [decide ((0 : Nat) < 32), decide ((2 ^ 32 - 1 : Nat) < 2 ^ 32), Memory.wf [(5, 1)]] = true := by decide +kernel

/-- The lanes that copy, and what the checks of R203 find. -/
def copyFinds (e : Env) (l : Nat) : Option (Nat × Nat) :=
  copyChk e.copyDir e.copyMc (e.copyGb && e.copyDir == .s2g) e.copyMask e.grid.kcb.cluster e.grid.kcb.scratch (e.copyOps l)
/-- CopiesPosted: eight copies with room, without room, with a pitch that fails the first check; hints with room and without;
CPYSTAT; a destination off its sector; each later check with an operand that fails it. -/
theorem test_meets_CopiesPosted : ok [
    issues (place [0x9A000902, 0x04F0FE00, 0] (x := withV [(2, 0x20000), (4, 0x10001), (9, 32)]))
      (fun _ e => (awake e).all (fun l => copyFinds e l == none) && decide (e.team.copies.length + (awake e).length ≤ e.grid.kcb.copyq)),
    issues (place [0x9A200802, 0x04F0FE00, 0] (x := withV [(2, 0x20000), (4, 0x10001), (8, 0x40000)]))
      (fun _ e => (awake e).all (fun l => copyFinds e l == none) && decide (e.team.copies.length + (awake e).length ≤ e.grid.kcb.copyq)),
    issues (place [0x9A000902, 0x04F0FE00, 0] (x := withV [(2, 0x20000), (4, 0x10001), (9, 32)]) (t := fun t => { t with copies := List.replicate 9 default }))
      (fun _ e => (awake e).all (fun l => copyFinds e l == none) && decide (e.grid.kcb.copyq < e.team.copies.length + (awake e).length)),
    issues (place [0x9A000902, 0x04F0FE00, 0]) (fun _ e => (awake e).any (fun l => copyFinds e l != none)),
    issues (place [0x9A40F002, 0x04F0FE00, 0] (x := withV [(2, 0x20000), (4, 0x10001)])) (fun _ e => (awake e).all (fun l =>
      shapeOk false false (e.b64 l) && decide (e.a64 l % 32 = 0) && firstBad (e.a64 l) (e.b64 l) == none) && decide (e.team.copies.length + (awake e).length ≤ e.grid.kcb.copyq)),
    issues (place [0x9A40F002, 0x04F0FE00, 0] (t := fun t => { t with copies := List.replicate 16 default })) (fun _ e => decide (e.grid.kcb.copyq ≤ e.team.copies.length)),
    !(shapeOk true false 0) && shapeOk true false 0x10001 && decide (33 % 32 ≠ 0),
    [(⟨0, 33, 0x10001, none⟩, 0x06), (⟨0, 32, 0x10001, some 8⟩, 0x06), (⟨0, 32, 0x10001, some 16⟩, 0x09)].all (fun (x : CopyOps × Nat) => (copyChk .g2s true false 4 2 64 x.1).any (fun y => y.1 == x.2)),
    [(⟨64, 32, 0x10001, none⟩, 0x08), (⟨0, 32, 0x10001, some 64⟩, 0x08), (⟨0, 2 ^ 56, 0x10001, none⟩, 0x05)].all (fun (x : CopyOps × Nat) => (copyChk .g2s true false 3 2 64 x.1).any (fun y => y.1 == x.2)),
    (copyChk .g2g false false 0 2 64 ⟨0, 32, 0x10001, some (2 ^ 56)⟩) == some (0x05, 2 ^ 56),
    (firstBad (2 ^ 56 - 32) 0x10002 == some (2 ^ 56)) && (firstBad 0 0x10002).isNone] = true := by decide +kernel
def barWords (opc sub ctl d : Nat) (b : Nat) : List Word := [BitVec.ofNat 32 (2 * 2 ^ 30 + opc * 2 ^ 21 + sub * 2 ^ 16 + d * 256 + 2), BitVec.ofNat 32 (b * 2 ^ 24 + 0xF0FE00 + ctl), 0]
/-- BarrierObjects: every instruction on a scratchpad object, XBINIT on a global one, with counts at their bounds and beyond;
objects invalid, poisoned and valid, with counts that stay and that leave their range; a signal at its place, with a waiter that it
frees; a roll that is full, whose next page is mapped and is not; observations of an invalid, a waiting and a done object. -/
theorem test_meets_BarrierObjects : ok [
    issues (place (barWords 0xD4 0 0 0xF0 5) (x := withV [(2, 0x100), (5, 2 ^ 23 - 1)])) (fun v e => found .own 16 .wr Env.perf inOwn v e && e.perf.all (fun l => decide (0 < e.b32 l ∧ e.b32 l < 2 ^ 23))),
    issues (place (barWords 0xD4 1 2 0xF0 5) (x := withV [(2, 0x20000), (5, 1)])) (fun v e => (match (e.rollRoom v 1).1 with | .ok _ => true | _ => false) && found .global 16 .wr Env.perf atDram v e && e.perf.all (fun l => decide (0 < e.b32 l ∧ e.b32 l < 2 ^ 23))),
    issues (place (barWords 0xD5 0 0 0xF0 5) (x := withV [(2, 0x100), (5, 2 ^ 31 - 1)])) (fun v e => found .own 16 .rw Env.perf inOwn v e && e.perf.all (fun l => decide (e.b32 l < 2 ^ 31))),
    issues (place (barWords 0xD5 0 0 0xF0 5) (x := withV [(2, 0x100), (5, 2 ^ 31)])) (fun v e => found .own 16 .rw Env.perf inOwn v e && e.perf.any (fun l => decide (2 ^ 31 ≤ e.b32 l))),
    issues (place (barWords 0xD6 0 0 0xF0 0xF0) (x := withV [(2, 0x100)])) (found .own 16 .rw Env.perf inOwn),
    issues (place (barWords 0xD6 0 0 0xF0 5) (x := withV [(2, 0x100)])) (fun v e => found .own 16 .rw Env.perf inOwn v e && e.perf.any (fun l => decide (e.b32 l < 1))),
    issues (place (barWords 0xD7 0 0 3 5) (x := withV [(2, 0x100)])) (found .own 16 .rd Env.perf inOwn),
    issues (place (barWords 0xD8 0 0 3 5) (x := withV [(2, 0x100)])) (found .own 16 .rd Env.perf inOwn),
    !xbValid 0 && xbValid (16 + 3 * 2 ^ 8) && !xbPoison (16 + 3 * 2 ^ 8) && xbValid (48 + 3 * 2 ^ 8) && xbPoison (48 + 3 * 2 ^ 8) && xbApend (16 + 3 * 2 ^ 8) == 3 && decide ((3 : Int) - 2 ^ 24 < -(2 ^ 23)),
    (let x : Sig := { (default : Sig) with id := 7, tag := kernelTag, loc := .scr 0 0x100 }
     let s : State := { place [0x00A00000] with sigs := [x] }
     s.sigs.find? (fun y => y.id == 7) == some x && s.sigReady x && !s.poisoned x.loc 16 && x.copy.isNone && x.loc == .scr (0x100 / Config.scratchBytes) (0x100 % Config.scratchBytes) &&
       (s.grid? x.tag).isSome && (s.group? x.tag x.team x.grp).isSome && (signalObj 0 0 0).2 == some 0x0A),
    ok ([0, 2 ^ 23].map (fun n => issues (place (barWords 0xD4 0 0 0xF0 5) (x := withV [(2, 0x100), (5, n)])) (fun v e =>
      found .own 16 .wr Env.perf inOwn v e && e.perf.all (fun l => decide (e.b32 l = 0 ∨ 2 ^ 23 ≤ e.b32 l))))),
    ok ([(0xD4, Acc.wr), (0xD5, .rw), (0xD6, .rw), (0xD7, .rd), (0xD8, .rd)].flatMap (fun o => [(0, 0x108, false), (1, 0x40000000, true)].map (fun (a : Nat × Nat × Bool) =>
      issues (place (barWords o.1 a.1 (if o.1 = 0xD4 ∧ a.1 = 1 then 2 else 0) (if o.1 < 0xD7 then 0xF0 else 3) 5) (x := withV [(2, a.2.1), (5, 1)])) (finds (if a.1 = 0 then .own else .global) 16 o.2 Env.perf a.2.2)))),
    ok ([0x40000000, 2 ^ 56].map (fun b => issues (place (barWords 0xD4 1 2 0xF0 5) (x := withV [(2, 0x20000), (5, 1)]) (g := fun g => { g with rollCap := 0, backing := b }))
      (fun v e => found .global 16 .wr Env.perf atDram v e && e.perf.head? == some 0 && decide (e.grid.rollCap < 1) &&
        (match (e.rollRoom v 1).1 with | .miss _ _ => b == 0x40000000 | .fault _ _ => b == 2 ^ 56 | _ => false)))),
    (let w : XWait := { loc := .scr 0 0x100, addr := 0x100, phase := 0, pd := some 3, armed := true }
     (({ place [0x00A00000] (x := lanesAre fun l => { l with st := .atXbar w }) with sigs := [{ (default : Sig) with id := 7, tag := kernelTag, loc := .scr 0 0x100 }] } : State).group? kernelTag 0 0).any (fun g =>
       g.lanes.all (fun l => l.st == .atXbar w)) && xbPhase (signalObj (16 + 2 ^ 8 + 3 * 2 ^ 64) 1 0).1 != w.phase),
    ok ([(0, AccKind.xbtest), (16 + 3 * 2 ^ 8, .xbtest), (17 + 3 * 2 ^ 8, .xbtest), (0, .xbwait), (16 + 3 * 2 ^ 8, .xbwait), (17 + 3 * 2 ^ 8, .xbwait), (48, .xbwait)].map (fun x =>
      let a : Access := { (default : Access) with id := 7, tag := kernelTag, lanes := 1, size := 16, loc := .scr 0 0x100, kind := x.2, dest := .p 3, dest2 := .p 4 }
      let s : State := { place [0x00A00000] (x := lanesAre fun l => { l with st := if x.2 = .xbwait then .atXbar { loc := a.loc, addr := 0x100, phase := 0, pd := some 3, armed := false } else .running }) with
        accs := [a], scratch := Memory.writeN [] 0x100 16 x.1 }
      s.accs.find? (fun y => y.id == 7) == some a && s.eligible a && !s.poisoned a.loc a.size && s.scratch.readN 0x100 16 == x.1 &&
        (s.grid? kernelTag).isSome && (s.group? kernelTag 0 0).any (fun g => g.lanes[0]?.isSome)))] = true := by decide +kernel
/-- TeamAndClusterBarriers: short of the count, at it (the count given and 0, all live lanes), beyond the limit. -/
theorem test_meets_TeamAndClusterBarriers : ok [
    ok ([0xD9, 0xDA].flatMap (fun o => [(9, 8), (8, 8), (0, 8)].map (fun c =>
      issues (place (barWords o 0 0 1 0xF0) (x := withV [(2, c.1)])) (fun v e => e.team.tb[e.f.d.toNat]? == some ⟨0, none, [], []⟩ && e.perf.length == c.2 &&
        e.perf.all (fun l => e.a32 l == c.1 && (e.lane l).st != .exited && decide (c.1 ≤ 8 ∨ c.1 = 9)) && decide (c.1 ≠ 0 ∨ v.liveCount e.grid.tag e.team.idx = 8)))) ++
    [0xDB, 0xDC].flatMap (fun o => [9, 8, 0].map (fun c => issues (place (barWords o 0 0 0xF0 0xF0) (x := withV [(2, c)])) (fun v e =>
        e.perf.all (fun l => e.a32 l == c && (e.lane l).st != .exited && decide (c ≤ e.grid.kcb.lanes * e.grid.kcb.cluster)) &&
        decide (c ≠ 0 ∨ ((v.clusterTeams e.grid (e.grid.clusterOf e.team.idx)).map (v.liveCount e.grid.tag)).sum = 8)))) ++
    [issues (place (barWords 0xD9 0 0 1 0xF0) (x := withV [(2, 7)]) (t := fun t => { t with tb := List.replicate 16 ⟨0, some 7, [], []⟩ })) (fun _ e => e.perf.all (fun l => decide (e.a32 l ≤ e.grid.kcb.lanes))),
     issues (place (barWords 0xD9 0 0 1 0xF0) (x := withV [(2, 9)])) (inLanes fun e l => decide (e.grid.kcb.lanes < e.a32 l)),
     issues (place (barWords 0xDB 0 0 0xF0 0xF0) (x := withV [(2, 17)])) (inLanes fun e l => decide (e.grid.kcb.lanes * e.grid.kcb.cluster < e.a32 l))])] = true := by decide +kernel
/-- A state whose one team has a matrix instance at the head of its order, words 0, 1 and 2 of its participants given. -/
def matrixed (opc : Nat) (f : Fields) (ps : List Arrival) (m : Memory := []) : State :=
  { place [0x00A00000] (t := fun t => { t with matq := [{ (default : MatInst) with id := 7, opc := opc, f := f, arrivals := ps }] })
      (g := fun g => { g with kcb := { g.kcb with scratch := 0x4000 } }) with scratch := m }
/-- The instance takes effect, and its grid, team and self meet a test. -/
def takes (s : State) (p : Grid → Team → MatInst → Bool) : Bool :=
  (s.grid? kernelTag).any (fun gr => (s.team? kernelTag 0).any (fun u => match u.matq with
    | i :: _ => matReady s gr u i && !s.matHeld gr u i && i.id == 7 && p gr u i
    | [] => false))
def lead (a b c : Nat) : List Arrival := [⟨0, false, 1, 2, 9⟩, ⟨1, true, a, b, c⟩, ⟨3, true, a, b, c⟩]
def agreed (i : MatInst) : Bool := i.act.all (fun a => a.c == i.lead.c)
/-- An operand's descriptor. -/
def operand (base pitch : Nat) : Nat := base + pitch * 2 ^ 32
/-- MatrixEffects: each accumulator instruction alone at the head of the matrix order; an addition to an exact tile; ACFG of an E out of range and
of a tile that is not exact; AMERGE of tiles that differ; MXQ, of zeros and of numbers, and at the scratchpad. -/
theorem test_meets_MatrixEffects : ok [
    [0xE2, 0xE7, 0xE6, 0xE3].all (fun o => takes (matrixed o (fx 1 2 240 240 0) (lead 5 0 0)) (fun _ u i => i.opc == o &&
      u.tiles.all (fun x => x.spoilt.isEmpty) && (u.tiles.getD 1 default).exact && decide (-2048 ≤ sgn 32 i.lead.a ∧ sgn 32 i.lead.a ≤ 2047))),
    (let x : Tile := { (default : Tile) with exact := true, e := -10 }
     x.exact && decide (x.e ≤ 0 ∧ (x.at 3).toInt + 5 * 2 ^ 10 < 2 ^ 127 ∧ (-(2 ^ 127) : Int) ≤ (x.at 3).toInt + 5 * 2 ^ 10)),
    [0xFFFFF7FF, 2048].all (fun a => takes (matrixed 0xE7 (fx 1 2 240 240 0) (lead a 0 0)) (fun _ _ i => decide (sgn 32 i.lead.a < -2048 ∨ 2047 < sgn 32 i.lead.a))),
    takes { matrixed 0xE7 (fx 1 2 240 240 0) (lead 0 0 0) with teams := (matrixed 0xE7 (fx 1 2 240 240 0) (lead 0 0 0)).teams.map (fun t => { t with tiles := t.tiles.map (fun x => { x with exact := false }) }) }
      (fun _ u _ => !(u.tiles.getD 1 default).exact),
    (match issued (place [0x9CC00102, 0xF0F0FE00, 0] (g := fun g => { g with kcb := { g.kcb with tiles := (16, 16, false) :: (16, 16, true) :: List.replicate 14 (16, 16, false) } })) with
     | some (v, .amerge f) => decide ((drainFirst v 0xE6 f).groups = v.groups) && (envOf v 0xE6 f (Form.len f.form)).any (fun e => !e.perf.isEmpty && e.mask != 0#64 &&
         e.grid.kcb.tiles.getD f.d.toNat (0, 0, false) != e.grid.kcb.tiles.getD f.a.toNat (0, 0, false))
     | _ => false),
    (match Fmt.bf16.val 0x8000, Fmt.bf16.val 0x4120 with | .fin r, .fin q => r.mant == 0 && r.neg && q.mant != 0 | _, _ => false),
    (let a : Access := { (default : Access) with id := 7, tag := kernelTag, lanes := 1, size := 64, loc := .scr 0 0x100, kind := .mxq true false 0, dat := 0x200, dest := .v 9 }
     let s : State := { place [0x00A00000] with accs := [a] }
     s.accs.find? (fun y => y.id == 7) == some a && s.eligible a && !s.poisoned a.loc a.size && (s.team? kernelTag 0).isSome),
    issues (place [0x9D600903, 0x05F0FE00, 0] (x := withV [(3, 128), (5, 1024)])) (fun _ e => e.exec.all (fun l => e.mxqChk l == none)),
    (match Fmt.fp32.val (ofLe (leBytes 4 0x7F800000)) with | .fin _ => false | _ => true)] = true := by decide +kernel
/-- MatrixEffects: MMA of INT8 and of a T5 operand of zeros, MMAG with a table that selects tile 0; ALOAD; ADRAIN without and with
column scales. -/
theorem test_meets_MatrixEffects_operands : ok [
    [(0xE0, (0x10044 : Nat), (0 : Nat)), (0xE0, 0x10074, 0), (0xE1, 0x10044, 0x2000)].all (fun x =>
      let s := matrixed x.1 { fx 1 2 2 3 0 with lit := BitVec.ofNat 64 x.2.2 } (lead (operand 0 5) (operand 0x1000 1) x.2.1)
      takes s (fun gr u i => agreed i && s.poison.isEmpty && (u.tiles.getD 1 default).spoilt.isEmpty &&
        (match matCheck s u gr.kcb.scratch i (u.tiles.getD 1 default) with
         | .ok r => u.lastMat.isNone && (wFb r.w != 7 || (List.range r.rowsB).all (fun row => (List.range r.lenB).all (fun b =>
             !t5Illegal (s.scratch.read (scrKey u.core (u.base + dAddr (r.baseB 0) r.db row b))).toNat)))
         | .error _ => false))),
    (let s := matrixed 0xE5 (fx 1 2 240 240 0) (lead (operand 0 2) 0 0)
     takes s (fun gr u i => let x := u.tiles.getD 1 default
       s.poison.isEmpty && (descCheck gr.kcb.scratch x.rows (x.cols * 4) i.lead.a none).isNone)),
    [(240#8, none), (2#8, some (0x800, 64))].all (fun y =>
      let s := matrixed 0xE4 (fx 3 1 y.1 1 18) (lead (operand 0 2) 0x800 5)
      takes s (fun gr u i => let x := u.tiles.getD 2 default
        s.poison.isEmpty && x.spoilt.isEmpty && (descCheck gr.kcb.scratch x.rows (x.cols * drainSize 1) i.lead.a y.2).isNone &&
          Operand.ofField i.f.d == .v 3 && !i.act.isEmpty))] = true := by decide +kernel
/-- MatrixEffects: participants whose format words differ; a pair that is not admitted; a base off its unit; a byte that is no T5 code. -/
theorem test_meets_MatrixEffects_faults :
    let on (ps : List Arrival) (m : Memory) (p : State → Grid → Team → MatInst → Bool) : Bool :=
      let s := matrixed 0xE0 (fx 1 2 2 3 0) ps m
      takes s (fun gr u i => (s.group? kernelTag 0 i.grp).isSome && p s gr u i)
    ok [on (lead 0 0 5 ++ [⟨4, true, 0, 0, 6⟩]) [] (fun _ _ _ i => !(i.act.filter (fun x => x.c != i.lead.c)).isEmpty),
      on (lead (operand 0 5) (operand 0x1000 1) 0x10045) [] (fun _ _ u i => agreed i && (matReq i (u.tiles.getD 1 default)).isNone),
      on (lead (operand 4 5) (operand 0x1000 1) 0x10044) [] (fun s gr u i => agreed i &&
        (match matCheck s u gr.kcb.scratch i (u.tiles.getD 1 default) with | .error x => x.code == 0x06 | .ok _ => false)),
      on (lead (operand 0 5) (operand 0x1000 1) 0x10074) [(0x1000, 0xF3#8)] (fun s gr u i => agreed i && s.poison.isEmpty &&
        (match matCheck s u gr.kcb.scratch i (u.tiles.getD 1 default) with
         | .ok r => u.lastMat.isNone && wFb r.w == 7 && decide (0 < r.rowsB ∧ 0 < r.lenB) && dAddr (r.baseB 0) r.db 0 0 == 0x1000 && t5Illegal 0xF3 &&
             u.base == 0 && u.core == 0
         | .error _ => false))] = true := by decide +kernel
def aCopy : Copy := { (default : Copy) with seq := 7, dir := .s2x, src := 0x100, dst := 0x200, shape := 0x10001, stamp := 1 }
def aRed : TagRed := { (default : TagRed) with addr := 0x20000, val := 0x3F800000 }
/-- A state with a copy of team 0 of a cluster of two, and the copy's grid and team. -/
def copying (c : Copy) : State :=
  let s := place [0x00A00000] (t := fun t => { t with copies := [c] })
  { s with teams := s.teams ++ s.teams.map (fun t => { t with idx := 1, base := 4096, copies := [] }) }
def reaches (s : State) (gr : Grid) (u : Team) (va : Nat) (k : Acc) : Bool :=
  !s.offLimits gr.proc va && (s.translateAt u.core gr.part gr.proc va k).1 == .at_ (.dram va)
/-- DeliveriesAndReductions: the one delivery of a copy, with a barrier and without, and one of two; within a cluster, to and from
memory, of several ranks, to one that has no team, and between addresses, with a barrier in memory. -/
theorem test_meets_DeliveriesAndReductions : ok [
    ok ([aCopy, { aCopy with bar := some 0x300 }, { aCopy with shape := 0x10002 }, { aCopy with mc := true, mask := 2, bar := some 0x300 },
        { aCopy with mc := true, mask := 4, bar := some 0x300 }, { aCopy with dir := .g2s, src := 0x40000, bar := some 0x300 },
        { aCopy with dir := .g2s, src := 0x40000, mc := true, mask := 3, made := 1 }, { aCopy with dir := .g2s, src := 0x40000, mc := true, mask := 4 },
        { aCopy with dir := .s2g, dst := 0x40000, gb := true, bar := some 0x40100 }, { aCopy with dir := .g2g, src := 0x40040, dst := 0x40000 }].map (fun c =>
      let s := copying c
      (s.grid? kernelTag).any (fun gr => (s.team? kernelTag 0).any (fun u => u.copies.find? (fun x => !x.hint && x.seq == 7) == some c && s.copyReady gr u c &&
        c.buf.isNone && s.poison.isEmpty && (c.dir == .s2x || c.dir == .s2g || reaches s gr u c.src .rd) && (c.dir == .s2x || c.dir == .g2s || reaches s gr u c.dst .wr) &&
        (!c.gb || reaches s gr u (c.bar.getD 0) .rw) && (s.team? kernelTag 1).isSome && gr.kcb.cluster == 2))))] = true := by decide +kernel
/-- DeliveriesAndReductions: a hint that goes and one that waits for a tick grid's; a reduction on its way with room and without; one held
for a team that has retired. -/
theorem test_meets_DeliveriesAndReductions_held : ok [
    ok ([true, false].map (fun r =>
      let s := place [0x00A00000] (t := fun t => { t with resident := r, copies := [{ aCopy with hint := true }] })
      (s.grid? kernelTag).any (fun gr => (s.team? kernelTag 0).any (fun u => (u.copies.find? (fun x => x.hint && x.seq == 7)).isSome &&
        (r && (gr.tick || !s.tickHint u.core)) == r)))),
    ok ([0, 16].map (fun n =>
      let s : State := { place [0x00A00000] (g := fun g => { g with held := List.replicate n aRed }) with reds := [{ (default : RedPending) with id := 7, tag := kernelTag, red := aRed }] }
      (s.reds.find? (fun r => r.id == 7)).isSome && (s.grid? kernelTag).isSome && (s.buffered aRed.slice).length == n && aRed.spilled.isNone &&
        s.grids.all (fun h => h.freeSpill.isNone) && (s.group? kernelTag 0 0).isSome)),
    (let s := place [0x00A00000] (g := fun g => { g with held := [aRed], started := 2 }) (t := fun t => { t with idx := 1 })
     (s.grid? kernelTag).any (fun g => g.held.all (fun x => x.slice == 0 && decide (x.team < s.frontier g) && x.spilled.isNone && (s.owner? (.dram x.addr)).isNone && !s.poisoned (.dram x.addr) 4)))] = true := by decide +kernel

/-- The tables of the mapped GiB, accessed and dirty. -/
def lowPages : Memory := [(0x1000, 1#8), (0x1001, 0x20#8), (0x2000, 1#8), (0x2001, 0x30#8), (0x3000, 0x7F#8)]
/-- What the device reads next of queue 0 meets a test. -/
def readsNext (s : State) (p : QueueSt → Desc → Nat → State → Bool) : Bool := match s.nextCmd 0 with
  | .ok (q, d, c, u) => p q d c u
  | .error _ => false
/-- Every pair of a state and a test: the device reads a next command that meets the test. -/
def readAll (l : List (State × (QueueSt → Desc → Nat → State → Bool))) : Bool := l.all (fun x => readsNext x.1 x.2)
/-- The device reads bytes at an address of process 1 that meet a test. -/
def readsAt (s : State) (va n : Nat) (p : List Byte → State → Bool) : Bool := match s.devRead 1 va n with
  | (.ok bs, u) => p bs u
  | _ => false
/-- A part in its running phase with every octet in service, fabric number 0, the least limits of R342 and links 0 and 1 to
device 3 up; one process whose low GiB is mapped on itself, one partition of one octet, the placed grid gone. -/
def box : State :=
  let rec_ : Nat := 1 + (2 ^ 120 - 1) * 2 ^ 32 + 200000 * 2 ^ 192 + 100000 * 2 ^ 224 + 1000 * 2 ^ 256 + 10000 * 2 ^ 288 + 8 * 2 ^ 896
  let m := State.reset.mgmt
  { State.reset.placeProcess.2 with
    mgmt := { m with phase := .running, record := BitVec.ofNat 3200 rec_ }
    links := { role := 1, peer := 3, pid := 0, up := true, downAt := 0 } :: { role := 1, peer := 3, pid := 0, up := false, downAt := 0 } :: List.replicate 16 Link.reset
    dram := lowPages
    parts := [{ (default : Part) with count := 1, owner := 1, runlist := 0x22000, nproc := 2, proc := 1, quantum := 10000, qlist := 0x23000 }] }
def put8 (s : State) (a v : Nat) : State := { s with dram := s.dram.writeN a 8 v }
def boxGrid : Grid :=
  { (place [0x00A00000]).grids.headD default with
    kcb := { placedKcb with scratch := 1536 }, proc := 1, started := 0, sig := 0x24000 }
/-- The box with the grid, started and with one team unless told otherwise. -/
def boxed (g : Grid → Grid := id) (t : List Team := [{ (default : Team) with tag := kernelTag, resident := true }]) (x : List Group := (place [0x00A00000]).groups) : State :=
  { box with grids := [g { boxGrid with started := 1 }], teams := t, groups := x }
def aReq : Req := ⟨0x24000, 1⟩
def aSer : Serial := 
  { image := 0, cap := 0, named := false, proc := 1, own := false, snapshot := false, byDbg := false, byPower := false, byTurn := false, cause := 0, reqs := [(0x24000, 1)], started := 0, decided := false, forward := [], held := false }
def exited : List Group := (place [0x00A00000]).groups.map (lanesAre fun l => { l with st := .exited })
def halted : List Group := (place [0x00A00000]).groups.map (fun x => { x with stopped := true })
/-- TeamsAndGrids: placing a first team and one of an image, retiring and not, completing and not, a kill, a fault. -/
theorem test_meets_TeamsAndGrids : ok [
    (let s : State := { box with grids := [boxGrid] }
     (s.grid? kernelTag).any (fun g => s.placeable g [⟨3, 1536, [2]⟩] && s.nextTeams g == [0] && (s.team? kernelTag 0).isNone)),
    (let s := boxed (t := [{ (default : Team) with tag := kernelTag }])
     (s.grid? kernelTag).any (fun g => s.placeable g [⟨3, 1536, [2]⟩] && s.nextTeams g == [0] && (s.team? kernelTag 0).isSome)),
    (let s := boxed (x := exited); (s.grid? kernelTag).any (fun g => (s.team? kernelTag 0).any (s.mayRetire g))),
    (let s := boxed; (s.grid? kernelTag).any (fun g => (s.team? kernelTag 0).any (fun u => !s.mayRetire g u))),
    (let s := boxed (fun g => { g with ser := some { aSer with held := true } }) (x := exited)
     (s.grid? kernelTag).any (fun g => g.stays && (s.team? kernelTag 0).any (s.mayRetire g))),
    (let s := boxed; !s.jobs.any (·.complete.isSome) && ({ s with jobs := [{ (default : Job) with proc := 1, complete := some 2 }] } : State).jobs.any (fun j => j.proc == 1 && j.complete.isSome)),
    (let s := boxed (t := []) (x := [])
     (s.grid? kernelTag).any (fun g => s.mayComplete g && g.ser.isNone && g.sig != 0 && s.fw.isEmpty && (s.owner? (.dram 0x24000)).isNone && (s.translate g.proc g.sig .rw).1 == .at_ (.dram 0x24000))),
    (let s := boxed; (s.grid? kernelTag).any (fun g => !s.mayComplete g)),
    [halted, (place [0x00A00000]).groups].map (fun x => (boxed (fun g => { g with killed := true }) (x := x)).windowOver kernelTag) == [true, false],
    (let s := boxed (fun g => { g with faults := [{ (default : FaultRec) with code := 1 }] }) (x := halted)
     s.windowOver kernelTag && s.fw.isEmpty && (s.grid? kernelTag).any (fun g => !g.killed && (windowReport g.faults).isSome && g.roll.isEmpty && g.ser.isNone &&
       (s.translate g.proc g.sig .rw).1 == .at_ (.dram 0x24000) &&
       ((s.proc? g.proc).bind (·.log)).isNone && (s.queues.find? (QueueSt.is g.proc g.queue)).isNone))] = true := by decide +kernel

def aBlock : Nat := 1 + 8 * 2 ^ 16 + 2 ^ 24 + 16 * 2 ^ 64 + 2 ^ 80 + 2 ^ 192 + (1 + 16 * 2 ^ 16 + 16 * 2 ^ 32) * 2 ^ 256
/-- A queue with one command, its bytes given, its descriptor in a state, tick or not. -/
def queued (state : Byte) (cmd : Memory) (tick : Bool := true) (h : Option HeldCmd := none) (undone : List Nat := []) : State :=
  { box with
    dram := lowPages ++ (0x20001, 0x10#8) :: (0x20002, 2#8) :: (0x20008, 4#8) :: (if tick then [(0x20009, 8#8)] else []) ++
      (0x2000B, state) :: (0x20010, 1#8) :: (if tick then [(0x20014, 0xE8#8), (0x20015, 3#8)] else []) ++ (0x20030, 1#8) :: cmd ++
      [(0x22000, 1#8), (0x22004, 0x10#8), (0x22005, 0x27#8), (0x22009, 0x30#8), (0x2200A, 2#8), (0x22010, 1#8), (0x22014, 0x10#8), (0x22015, 0x27#8), (0x22019, 0x30#8), (0x2201A, 2#8), (0x23002, 2#8)]
    queues := [{ desc := 0x20000, proc := 1, part := 0, tickq := tick, held := h, undone := undone, cause := none, activeAt := 0, lastRelease := none }]
    objects := [{ textObject with canon := [default], kcbs := [(0, aBlock)] }] }
/-- A LAUNCH of a grid of 1, 1, 1 of the first kernel of object 0. -/
def aLaunch (more : Memory := []) : Memory := (0x21000, 1#8) :: more ++ [(0x21018, 1#8), (0x2101C, 1#8), (0x21020, 1#8)]
def aLaunchN : Nat := 1 + 2 ^ 192 + 2 ^ 224 + 2 ^ 256
/-- QueueCommands: each command with its hypotheses. -/
theorem test_meets_QueueCommands : readAll [
    ((queued 1 (aLaunch)), (fun q d c u => cmdType c == 1 && d.state == 1 && (u.part? d.part).isSome && (u.grids.filter (fun g => g.part == d.part && g.proc == q.proc)).length < 64 &&
      (match (u.checkLaunch q.proc d.part d.tickq c).1 with | .ok _ _ _ => true | _ => false))),
    ({ queued 1 (aLaunch) with grids := List.replicate 64 { boxGrid with part := 0 } }, (fun q d c u => cmdType c == 1 && d.state == 1 && (u.part? d.part).isSome &&
      (match u.checkLaunch q.proc d.part d.tickq c with | (.ok _ _ _, v) => decide (64 ≤ (v.grids.filter (fun g => g.part == d.part && g.proc == q.proc)).length) | _ => false))),
    ((queued 1 (aLaunch [(0x21004, 0x80#8)]) false), (fun q d c u => cmdType c == 1 && d.state == 1 && (u.part? d.part).isSome && (match (u.checkLaunch q.proc d.part d.tickq c).1 with | .bad 0x04 _ => true | _ => false))),
    ((queued 2 (aLaunch)), (fun _ d c _ => cmdType c == 1 && d.state == 2)),
    ((queued 1 [(0x21000, 6#8)]), (fun _ _ c _ => decide (5 < cmdType c))),
    ((queued 1 []), (fun _ _ c _ => cmdType c == 0)),
    ((queued 1 [(0x21000, 0x2#8), (0x21009, 0x40#8), (0x2100A, 0x2#8)]), (fun q d c u => cmdType c == 2 && d.state == 1 && cmdBad true true true c == none && (u.reachVa q.proc (bits c 127 64) .rd).1 == .ok)),
    ((queued 1 [(0x21000, 0x2#8), (0x2100F, 1#8)]), (fun q d c u => cmdType c == 2 && d.state == 1 && cmdBad true true true c == none && (u.reachVa q.proc (bits c 127 64) .rd).1 == .bad)),
    ((queued 1 [(0x21000, 0x4#8), (0x21001, 0x2#8)]), (fun _ d c _ => cmdType c == 4 && d.state == 1 && cmdBad true false false c == none)),
    ((queued 1 [(0x21000, 5#8)] false), (fun _ d c _ => cmdType c == 5 && d.state == 1 && !d.tickq))] = true := by decide +kernel
/-- QueueCommands: SIGNAL of both operations. -/
theorem test_meets_QueueCommands_signal : readAll
    (([[], [(0x21002, 1#8)]] : List Memory).map (fun x => ((queued 1 ((0x21000, 3#8) :: x ++ [(0x21009, 0x40#8), (0x2100A, 2#8)])), (fun q d c u => cmdType c == 3 && d.state == 1 && cmdBad false true true c == none && (u.reachVa q.proc (bits c 127 64) .rw).1 == .ok)))) = true := by decide +kernel
/-- QueueCommands: TICK before, at and after its edge. -/
theorem test_meets_QueueCommands_tick : readAll
    (([999, 1000, 1001] : List Nat).map (fun t => ({ queued 1 [(0x21000, 5#8)] with time := t }, (fun q d c _ => cmdType c == 5 && d.state == 1 && d.tickq && cmdBad false false false c == none && nextEdge d.period d.phase (q.lastRelease.getD q.activeAt) == 1000)))) = true := by decide +kernel
/-- QueueCommands: a held WAITSIG, each outcome; a held BARRIER and TICK. -/
theorem test_meets_QueueCommands_held : ok [
    [(0, 0, false), (0, 1, false), (2 ^ 63, 0, true), (2 ^ 63, 0, false)].all (fun x =>
      let s := put8 (queued 1 [] (h := some (.waitsig 0x24000 x.2.1 0 x.2.2))) 0x24000 x.1
      readsAt s 0x24000 8 (fun bs u => ofLe bs == x.1 && (s.queues[0]?).any (fun q => !(u.useLines.cancelling q).1))),
    [Acc.rw, .wr].all (fun k => (box.translate 1 0x24000 k).1 == .at_ (.dram 0x24000)) && box.fw.isEmpty && (box.owner? (.dram 0x24000)).isNone,
    [(false, []), (true, []), (true, [5])].all (fun x => ((queued 1 [] (h := some (.barrier x.1)) (undone := x.2)).queues[0]?).any (fun q => q.held == some (.barrier x.1) && q.undone == x.2)),
    [1, 2].all (fun d => let s := put8 (queued d [] (h := some (.waitsig 0x24000 0 0 false))) 0x24000 0
      readsAt s 0x24000 8 (fun _ u => (s.queues[0]?).any (fun q => (u.useLines.cancelling q).1 == (d == 2#8)))),
    [(1, 999), (1, 1000), (2, 999)].all (fun x => let s : State := { queued x.1 [] (h := some (.tick 1000)) with time := x.2 }
      (s.queues[0]?).any (fun q => q.held == some (.tick 1000) && (s.cancelling q).1 == (x.1 == 2#8)))] = true := by decide +kernel
/-- TurnsAndPower: a turn whose quantum is over, with a grid to stop and without, one that is not; the next entry; idle and not;
the limit at the floor before and after its time; its clearing with the firmware idle and not; power at 3.2 kW and about it. -/
theorem test_meets_TurnsAndPower : ok [
    (let s : State := { queued 1 [] with time := 10000 }; (s.part? 0).any (fun p => decide (1 < p.nproc ∧ p.turnStart + p.quantum ≤ s.time) && s.grids.all (fun g => !s.mustStop p g) && s.fw.isEmpty && s.kept.isEmpty &&
      readsAt s (p.runlist + 16 * ((p.turn + 1) % p.nproc)) 16 (fun bs _ => let e := ofLe bs
        p.owner == 1 && decide (bits e 127 64 % 8 = 0 ∧ bits e 31 16 = 0 ∧ bits e 15 0 ≠ 0 ∧ 10000 ≤ bits e 63 32)))),
    (let s : State := { boxed with time := 10000 }; (s.part? 0).any (fun p => decide (1 < p.nproc ∧ p.turnStart + p.quantum ≤ s.time) && s.grids.any (fun g => s.mustStop p g && g.ser.isNone) && decide ((s.grids.map (·.tag)).Nodup))),
    (let s : State := { queued 1 [] with time := 9999 }; (s.part? 0).any (fun p => decide (s.time < p.turnStart + p.quantum))),
    [(queued 1 [], false), ({ queued 1 [] with queues := [] }, true)].all (fun x => (x.1.part? 0).any (fun p => match x.1.qlist p with | (some l, u) => (u.idle p l).1 == x.2 | _ => false)),
    [(9999999, false), (10000000, true)].all (fun x => let m := box.mgmt
      let s : State := { boxed with mgmt := { m with clock := 650, overAt := some 0 }, time := x.1 }; !s.mgmt.powerStopped && s.mgmt.clock == 650 && s.mgmt.overAt == some 0 && decide (max 0 s.mgmt.clockAt + 10000000 ≤ s.time) == x.2 && s.grids.all (fun g => g.faults.isEmpty && !g.killed && g.ser.isNone)),
    [[], fwOp 0 0 (.job .resumeAll) :: []].all (fun w => let m := box.mgmt
      let s : State := { boxed with mgmt := { m with powerStopped := true }, fw := w }; s.mgmt.powerStopped && s.fw.isEmpty == w.isEmpty),
    [3199, 3200, 3201].all (fun w => let m := box.mgmt
      let s : State := { box with mgmt := { m with power := w } }; decide (s.mgmt.power ≤ 3200) == (w != 3201) && decide (3200 ≤ s.mgmt.power) == (w != 3199)),
    !box.mgmt.powerStopped && box.mgmt.overAt.isNone] = true := by decide +kernel
/-- Serialising: a first and a joined request, the two stages, each kind of image, both sides of the limit, an image with no magic number. -/
theorem test_meets_Serialising : ok [
    (box.grid? kernelTag).isNone, [none, some aSer].all (fun x => (((boxed fun g => { g with ser := x }).grid? kernelTag).any (fun g => g.faults.isEmpty && !g.killed && g.ser == x))),
    (boxed fun g => { g with ser := some aSer }).quiet kernelTag,
    (let s : State := { boxed (fun g => { g with ser := some { aSer with decided := true } }) with results := [{ (default : Result) with tag := kernelTag }] }
     (s.grid? kernelTag).any (fun g => g.ser.any (fun x => x.decided && !s.mayImage g x))),
    [(false, false), (false, true), (true, false)].all (fun y => let s := boxed (fun g => { g with ser := some { aSer with decided := true, snapshot := y.1, named := y.2 } }) (x := halted)
     (s.grid? kernelTag).any (fun g => g.faults.isEmpty && !g.killed && !s.atBreak g && g.ser.any (fun x => x.decided && s.mayImage g x && x.named == y.2 && x.cause != 4 && x.snapshot == y.1))),
    (let s := boxed (fun g => { g with ser := some { aSer with decided := true, snapshot := true }, dbg := some ⟨[⟨0x10000, .sample 1⟩], [0], []⟩ }) (x := halted)
     (s.grid? kernelTag).any (fun g => !s.atBreak g && g.dbg.any (fun d => d.sites.length == 1) && g.ser.any (fun x => x.decided && s.mayImage g x))),
    (let s := boxed fun g => { g with ser := some { aSer with held := true } }; (s.grid? kernelTag).any (fun g => g.ser.any (·.held) && g.faults.isEmpty && !g.killed)),
    decide ((0 : Nat) < 0 + box.serLimit) && decide (0 + box.serLimit ≤ 200000)] = true := by decide +kernel
/-- Bytes at an address, zeros not listed. -/
def cells : Nat → List Nat → Memory
  | _, [] => []
  | a, b :: r => if b = 0 then cells (a + 1) r else (a, BitVec.ofNat 8 b) :: cells (a + 1) r
/-- Serialising: an image with no magic number. -/
theorem test_meets_Serialising_refused : readsAt box 0x30000 256 (fun bs u => (match u.devRead 1 0x30000 (max 256 (bits (ofLe bs) 127 64)) with
    | (.ok cs, v) => (match v.replantWhole cs 0 with | (some (.error c), _) => c == 0x10 | _ => false)
    | _ => false)) = true := by decide +kernel
/-- An image (R317 to R320): a header, the grid and dispenser records, one range of the memory map; no team, one held reduction. -/
def imageBytes : List Nat :=
  [73, 77, 69, 71, 1, 0, 1, 0, 0, 2, 0, 0, 0, 0, 0, 0, 0, 0, 0, 0, 0, 0, 0, 0, 0, 0, 0, 0, 0, 0, 0, 0, 0, 0, 0, 0, 0, 0, 0, 0, 0, 0, 0, 0, 0, 0, 0, 0, 0, 0,
   0, 0, 0, 0, 0, 0, 0, 0, 0, 0, 0, 0, 0, 0, 0, 1, 0, 0, 0, 0, 0, 0, 1, 0, 0, 0, 0, 0, 0, 0, 128, 1, 0, 0, 0, 0, 0, 0, 1, 0] ++
  [0, 0, 0, 0, 0, 0, 192, 1, 0, 0, 0, 0, 0, 0, 0, 0, 0, 0, 0, 0, 0, 0, 192, 1, 0, 0, 0, 0, 0, 0, 0, 0, 0, 0, 0, 0, 0, 0, 192, 1, 0, 0, 0, 0, 0, 0, 0, 0, 0,
   0, 0, 0, 0, 0, 192, 1, 0, 0, 0, 0, 0, 0, 0, 0, 0, 0, 0, 0, 0, 0, 192, 1, 0, 0, 0, 0, 0, 0, 0, 0, 0, 0, 0, 0, 0, 0, 192, 1, 0, 0] ++
  [0, 0, 0, 0, 1, 0, 0, 0, 0, 0, 0, 0, 136, 86, 181, 182, 0, 0, 0, 0, 0, 0, 0, 0, 0, 0, 0, 0, 0, 0, 0, 0, 0, 0, 0, 0, 0, 0, 0, 0, 0, 0, 0, 0, 0, 0, 0, 0, 0,
   0, 0, 0, 0, 0, 0, 0, 0, 0, 0, 0, 0, 0, 0, 0, 0, 0, 0, 0, 0, 0, 0, 0, 0, 0, 0, 0, 1, 0, 0, 0, 0, 0, 0, 0, 1, 0, 0, 0, 1, 0] ++
  [0, 0, 1, 0, 0, 0, 0, 0, 1, 0, 0, 64, 2, 0, 0, 0, 0, 0, 0, 0, 0, 0, 0, 0, 0, 0, 0, 0, 5, 64, 0, 0, 0, 0, 1, 0, 0, 0, 1, 0, 0, 0, 0, 0, 1, 0, 0, 0, 0, 0, 1,
   0, 0, 0, 0, 0, 0, 0, 0, 0, 0, 0, 0, 0, 0, 0, 0, 0, 0, 0, 0, 0, 0, 0, 0, 0, 0, 0, 0, 0, 0, 0, 0, 0, 0, 0, 0, 0, 0, 0] ++
  [0, 0, 0, 0, 0, 0, 0, 0, 0, 0, 0, 0, 0, 0, 0, 0, 0, 0, 0, 0, 0, 0, 0, 0, 0, 0, 0, 0, 0, 0, 0, 0, 0, 0, 0, 0, 0, 0, 0, 0, 0, 0, 0, 0, 0, 0, 0, 0, 0, 0, 0,
   0, 0, 0, 0, 0, 0, 0, 0, 0, 0, 0, 0, 0, 0, 0, 0, 0, 0, 0, 0, 0, 0, 0, 0, 0, 0, 0, 0, 0, 0, 0, 0, 0, 0, 0, 0, 0, 0, 0] ++
  [0, 0, 0, 0, 0, 0, 0, 0, 0, 64, 0, 0, 0, 0, 60, 0, 0, 0, 0, 0, 0, 0, 0, 0, 0, 0, 0, 0, 0, 0, 0, 0, 0, 0, 0, 0, 0, 0, 0, 0, 0, 0, 0, 0, 0, 0, 0, 0, 0, 0, 0,
   0, 0, 0, 0, 0, 0, 0, 0, 0, 0, 0]
def plantable : State := { box with
  dram := lowPages ++ [(0x3008, 0x7F#8), (0x300B, 0x40#8)] ++ cells 0x30000 imageBytes
  objects := [{ textObject with canon := [default], kcbs := [(0, aBlock + 2 ^ 89 + 2 ^ 128)] }] }
/-- The image with its CRC field at 0 (R318), and its CRC-32C, 32 bytes at a time. -/
def zeroed : List Byte :=
  let bs := plantable.dram.readBytes 0x30000 512
  bs.take 192 ++ List.replicate 4 0#8 ++ (bs.take (bits (ofLe (bs.take 256)) 127 64)).drop 196
theorem foldl_chunk (f : Nat → Byte → Nat) (l : List Byte) (n a b : Nat) (h : ((l.drop n).take 32).foldl f a = b) :
    (l.drop n).foldl f a = (l.drop (n + 32)).foldl f b := by
  rw [show (l.drop n).foldl f a = ((l.drop n).take 32 ++ (l.drop n).drop 32).foldl f a by rw [List.take_append_drop], List.foldl_append, h,
    List.drop_drop]
theorem image_crc : crc32c zeroed = 0xB6B55688 := by
  have h0 : ((zeroed.drop 0).take 32).foldl crcByte 0xFFFFFFFF = 0x501551A2 := by decide +kernel
  have h1 : ((zeroed.drop 32).take 32).foldl crcByte 0x501551A2 = 0xB92792E5 := by decide +kernel
  have h2 : ((zeroed.drop 64).take 32).foldl crcByte 0xB92792E5 = 0x389C2261 := by decide +kernel
  have h3 : ((zeroed.drop 96).take 32).foldl crcByte 0x389C2261 = 0x2D593D26 := by decide +kernel
  have h4 : ((zeroed.drop 128).take 32).foldl crcByte 0x2D593D26 = 0x5F0505F9 := by decide +kernel
  have h5 : ((zeroed.drop 160).take 32).foldl crcByte 0x5F0505F9 = 0xC7199A98 := by decide +kernel
  have h6 : ((zeroed.drop 192).take 32).foldl crcByte 0xC7199A98 = 0xF0D275C0 := by decide +kernel
  have h7 : ((zeroed.drop 224).take 32).foldl crcByte 0xF0D275C0 = 0xDF140445 := by decide +kernel
  have h8 : ((zeroed.drop 256).take 32).foldl crcByte 0xDF140445 = 0xA35935C := by decide +kernel
  have h9 : ((zeroed.drop 288).take 32).foldl crcByte 0xA35935C = 0xA28DF50E := by decide +kernel
  have h10 : ((zeroed.drop 320).take 32).foldl crcByte 0xA28DF50E = 0x80C992DA := by decide +kernel
  have h11 : ((zeroed.drop 352).take 32).foldl crcByte 0x80C992DA = 0x20522798 := by decide +kernel
  have h12 : ((zeroed.drop 384).take 32).foldl crcByte 0x20522798 = 0x51A3DE81 := by decide +kernel
  have h13 : ((zeroed.drop 416).take 32).foldl crcByte 0x51A3DE81 = 0xEE9CD280 := by decide +kernel
  have h14 : ((zeroed.drop 448).take 32).foldl crcByte 0xEE9CD280 = 0x6129912 := by decide +kernel
  have h15 : ((zeroed.drop 480).take 32).foldl crcByte 0x6129912 = 0x494AA977 := by decide +kernel
  have e : zeroed.foldl crcByte 0xFFFFFFFF = (zeroed.drop 512).foldl crcByte 0x494AA977 :=
    (foldl_chunk crcByte zeroed 0 _ _ h0).trans <| (foldl_chunk crcByte zeroed 32 _ _ h1).trans <| (foldl_chunk crcByte zeroed 64 _ _ h2).trans <| (foldl_chunk crcByte zeroed 96 _ _ h3).trans <| (foldl_chunk crcByte zeroed 128 _ _ h4).trans <| (foldl_chunk crcByte zeroed 160 _ _ h5).trans <| (foldl_chunk crcByte zeroed 192 _ _ h6).trans <| (foldl_chunk crcByte zeroed 224 _ _ h7).trans <| (foldl_chunk crcByte zeroed 256 _ _ h8).trans <| (foldl_chunk crcByte zeroed 288 _ _ h9).trans <| (foldl_chunk crcByte zeroed 320 _ _ h10).trans <| (foldl_chunk crcByte zeroed 352 _ _ h11).trans <| (foldl_chunk crcByte zeroed 384 _ _ h12).trans <| (foldl_chunk crcByte zeroed 416 _ _ h13).trans <| (foldl_chunk crcByte zeroed 448 _ _ h14).trans <|
    foldl_chunk crcByte zeroed 480 _ _ h15
  have d : zeroed.drop 512 = [] := by decide +kernel
  rw [crc32c, e, d]; decide +kernel
/-- What R328 asks of an image whose magic number, version, length and CRC hold. -/
def plants (s : State) (bs : List Byte) (pt : Nat) : Bool :=
  let h := ofLe (bs.take 256)
  headOk h (bits h 127 64) && match parseGrid (bs.drop (dirAt h 0).1) with
    | none => false
    | some (gi, _) => match s.objects.find? (fun o => o.proc == gi.proc && digestField o.digest == bits h 511 128) with
      | none => false
      | some o => match parseImage (bs.take (bits h 127 64)) h (fun g => (o.kcbs.find? (fun k => k.1 == g.koff)).map (fun k => (o, kcbOf k.2))) with
        | none => false
        | some (x, _, k) => (s.imageBad x o k pt).isNone
theorem replant_of_plants {s : State} {bs : List Byte} {pt : Nat} (h1 : bits (ofLe (bs.take 256)) 31 0 = 0x47454D49)
    (h2 : bits (ofLe (bs.take 256)) 47 32 = 1) (h3 : bits (ofLe (bs.take 256)) 127 64 ≤ bs.length)
    (h4 : crc32c (bs.take 192 ++ List.replicate 4 0#8 ++ (bs.take (bits (ofLe (bs.take 256)) 127 64)).drop 196) = bits (ofLe (bs.take 256)) 1567 1536)
    (h : plants s bs pt = true) : ∃ r, s.replantBytes bs pt = .ok r := by
  simp only [plants, Bool.and_eq_true] at h
  obtain ⟨h0, h⟩ := h
  have hc : ¬(bits (ofLe (bs.take 256)) 31 0 ≠ 0x47454D49 ∨ bits (ofLe (bs.take 256)) 47 32 ≠ 1 ∨ bs.length < bits (ofLe (bs.take 256)) 127 64 ∨
      crc32c (bs.take 192 ++ List.replicate 4 0#8 ++ (bs.take (bits (ofLe (bs.take 256)) 127 64)).drop 196) ≠ bits (ofLe (bs.take 256)) 1567 1536) := by
    rintro (e | e | e | e)
    · exact e h1
    · exact e h2
    · exact Nat.not_lt.mpr h3 e
    · exact e h4
  unfold State.replantBytes
  simp only [if_neg hc, h0, Bool.not_true, Bool.false_eq_true, if_false]
  cases hg : parseGrid (bs.drop (dirAt (ofLe (bs.take 256)) 0).1) with
  | none => simp [hg] at h
  | some gi =>
    cases ho : s.objects.find? (fun o => o.proc == gi.1.proc && digestField o.digest == bits (ofLe (bs.take 256)) 511 128) with
    | none => simp [hg, ho] at h
    | some o =>
      cases hk : parseImage (bs.take (bits (ofLe (bs.take 256)) 127 64)) (ofLe (bs.take 256))
          (fun g => (o.kcbs.find? (fun k => k.1 == g.koff)).map (fun k => (o, kcbOf k.2))) with
      | none => simp [hg, ho, hk] at h
      | some x =>
        simp only [hg, ho, hk] at h ⊢
        rw [Option.isNone_iff_eq_none] at h
        simp only [h]
        exact ⟨_, rfl⟩
/-- The state in which the image has been read, as two reads leave it. -/
def reading : State := ((plantable.devRead 1 0x30000 256).2.devRead 1 0x30000 512).2.useLines
/-- What the spill region of the image's grid answers in a state. -/
def spilled (s : State) (p : Option Bool → Bool) : Bool :=
  (match parseGrid ((plantable.dram.readBytes 0x30000 512).drop (dirAt (ofLe ((plantable.dram.readBytes 0x30000 512).take 256)) 0).1) with
    | some (g, _) => g.held == 1 && g.spillad == 0x40050000
    | none => false) && p (s.redsGood (plantable.dram.readBytes 0x30000 512)).1
/-- The planted image's state with the spill region's entry as it is, with a reserved bit of it set, and with its page in host memory. -/
def spills : List State := [reading, { reading with dram := reading.dram ++ [(0x40050017, 4#8)] },
  { reading with dram := reading.dram.writeBytes 0x300B [0#8] |>.writeBytes 0x300F [2#8] }]
theorem replantWhole_of_reds {s : State} {bs : List Byte} {pt : Nat} {r : Nat × State} (h : s.replantBytes bs pt = .ok r) {b : Option Bool}
    (hb : (s.redsGood bs).1 = b) : (s.replantWhole bs pt).1 = b.map (fun g => if g then .ok r else .error 0x11) := by
  subst hb
  unfold State.replantWhole
  rw [h]
  rcases hr : s.redsGood bs with ⟨_ | _ | _, u⟩ <;> simp
theorem spills_plant (s : State) (h : s ∈ spills) : ∃ r, s.replantBytes (plantable.dram.readBytes 0x30000 512) 0 = .ok r :=
  replant_of_plants (by decide +kernel) (by decide +kernel) (by decide +kernel) (image_crc.trans (by decide +kernel))
    (List.all_eq_true.mp (by decide +kernel : spills.all (fun s => plants s (plantable.dram.readBytes 0x30000 512) 0) = true) s h)
/-- Serialising: an image that is planted; one whose spill region holds a reserved bit; one whose spill region is on its way. -/
theorem test_meets_Serialising_planted : (plantable.devRead 1 0x30000 256).1 = .ok (plantable.dram.readBytes 0x30000 256) ∧
    ((plantable.devRead 1 0x30000 256).2.devRead 1 0x30000 512).1 = .ok (plantable.dram.readBytes 0x30000 512) ∧
    max 256 (bits (plantable.dram.readN 0x30000 256) 127 64) = 512 ∧ (∀ s ∈ spills, ∃ r, s.replantBytes (plantable.dram.readBytes 0x30000 512) 0 = .ok r) ∧
    (spills.zip [some true, some false, none]).all (fun x => spilled x.1 (· == x.2)) = true ∧
    ∃ r, (reading.replantWhole (plantable.dram.readBytes 0x30000 512) 0).1 = some (.ok r) :=
  ⟨by decide +kernel, by decide +kernel, by decide +kernel, spills_plant, by decide +kernel,
    (spills_plant reading (List.mem_cons_self ..)).elim fun r hr => ⟨r, replantWhole_of_reds (b := some true) hr (by decide +kernel)⟩⟩
/-- A code object (R87 to R89): its header, an EXIT, an empty canonical table, the section names, four section headers. -/
def objectBytes : List Nat :=
  [127, 69, 76, 70, 2, 1, 1, 0, 0, 0, 0, 0, 0, 0, 0, 0, 2, 0, 92, 184, 1, 0, 0, 0, 0, 0, 0, 0, 0, 0, 0, 0, 0, 0, 0, 0, 0, 0, 0, 0, 112, 0, 0, 0, 0, 0, 0, 0, 1, 0, 0, 0, 64,
    0, 0, 0, 0, 0, 64, 0, 4, 0, 3, 0, 0, 0, 192, 0, 0, 0, 0, 0, 1, 0, 0, 0, 0, 0, 0, 0, 0, 0, 0, 0, 0, 0, 0, 0, 0, 46] ++
  [116, 101, 120, 116, 0, 46, 99, 97, 110, 111, 110, 0, 46, 115, 104, 115, 116, 114, 116, 97, 98, 0, 0, 0, 0, 0, 0, 0, 0, 0, 0, 0, 0, 0, 0, 0, 0, 0, 0, 0, 0, 0, 0, 0, 0, 0,
    0, 0, 0, 0, 0, 0, 0, 0, 0, 0, 0, 0, 0, 0, 0, 0, 0, 0, 0, 0, 0, 0, 0, 0, 0, 0, 0, 0, 0, 0, 0, 0, 0, 0, 0, 0, 0, 0, 0, 0, 1, 0, 0, 0] ++
  [1, 0, 0, 0, 6, 0, 0, 0, 0, 0, 0, 0, 0, 0, 5, 0, 0, 0, 0, 0, 64, 0, 0, 0, 0, 0, 0, 0, 4, 0, 0, 0, 0, 0, 0, 0, 0, 0, 0, 0, 0, 0, 0, 0, 4, 0, 0, 0, 0, 0, 0, 0, 0, 0, 0, 0,
    0, 0, 0, 0, 7, 0, 0, 0, 1, 0, 0, 0, 0, 0, 0, 0, 0, 0, 0, 0, 0, 0, 0, 0, 0, 0, 0, 0, 72, 0, 0, 0, 0, 0] ++
  [0, 0, 16, 0, 0, 0, 0, 0, 0, 0, 0, 0, 0, 0, 0, 0, 0, 0, 8, 0, 0, 0, 0, 0, 0, 0, 0, 0, 0, 0, 0, 0, 0, 0, 14, 0, 0, 0, 3, 0, 0, 0, 0, 0, 0, 0, 0, 0, 0, 0, 0, 0, 0, 0, 0, 0,
    0, 0, 88, 0, 0, 0, 0, 0, 0, 0, 24, 0, 0, 0, 0, 0, 0, 0, 0, 0, 0, 0, 0, 0, 0, 0, 1, 0, 0, 0, 0, 0, 0, 0] ++
  [0, 0, 0, 0, 0, 0, 0, 0]
def loadable : State := { box with dram := lowPages ++ cells 0x30000 objectBytes }
/-- HostServices: an object that LOAD accepts. -/
theorem test_meets_HostServices_load : readsAt loadable 0x30000 368 (fun bs _ =>
    match parseObject bs with | .ok p => p.is.length == 1 | .error _ => false) = true := by decide +kernel
def aFault : TFault := { (default : TFault) with id := 7, proc := 1, va := 0x40000000, k := .rd }
/-- TranslationFaults: one that a page serves, one of a migrating page, one forwarded to the host before and at its limit. -/
theorem test_meets_TranslationFaults : ok [
    (let s : State := { box with tfaults := [aFault] }
     s.tfault? 7 == some aFault && bit 0x5001F 0 && !malformed 4 0x5001F && !aFault.mig && !aFault.device && decide (s.time < aFault.since + s.faultLimit)),
    (let s : State := { box with tfaults := [{ aFault with va := 0x40000000 }], dram := box.dram.writeN 0x3008 8 (0x9F + 2 ^ 56) }
     (match walk s.dram (s.rootOf 1) 0x40000000 .rd with | .leaf _ _ true _ _ level => level == 2 && decide (0x80000000 % pageBytes level = 0 ∧ 0x80000000 + pageBytes level ≤ Config.dramBytes) | _ => false)),
    !malformed 4 (0x5009F + 2 ^ 56) && bit (0x5009F + 2 ^ 56) 0 && bits (0x5009F + 2 ^ 56) 57 56 == 1 && bits 0x5001F 57 56 == 0,
    decide (box.faultLimit ≤ 100000)] = true := by decide +kernel
/-- HostServices, LOAD apart: a signal word, before its value's end; UNLOAD of an object in no use and of none, QCREATE good and bad,
QRESET of a queue and of none, MAP good, malformed and misplaced, UNMAP of a whole page, of a part and of a range that is no multiple,
REGCODE, KILL of a grid, of an image and of neither, PARTITION good, bad and with bad entries, FAULTLOG good and misplaced. -/
theorem test_meets_HostServices : ok [
    box.fw.isEmpty && (box.translate 1 0x24000 .rw).1 == .at_ (.dram 0x24000) && (box.owner? (.dram 0x24000)).isNone && decide (box.dram.readN 0x24000 8 < 2 ^ 63),
    ((queued 1 []).objects.find? (fun o => o.handle == 0 && o.proc == 1)).isSome && !(queued 1 []).inUse 0 && (box.objects.find? (fun o => o.handle == 0 && o.proc == 1)).isNone,
    [([0x10#8, 0x08#8], none), ([0x14#8, 0x08#8], some (0x0B, 8)), ([0x10#8, 0x18#8], some (0x02, 9))].all (fun x => readsAt { queued 1 [] with dram := (queued 1 []).dram.writeBytes 0x20008 x.1 } 0x20000 64 (fun bs _ => descBad (descOf (ofLe bs)) == x.2)),
    ((queued 1 []).queues.find? (QueueSt.is 1 0x20000)).isSome && (box.queues.find? (QueueSt.is 1 0x20000)).isNone,
    leafLevel 0x40000000 0x40000000 0 == 2 && !malformed 2 0x1F && malformed 2 (0x1F + 2 ^ 58) && decide (0x40000000 % 65536 = 0) && decide (100 % 65536 ≠ 0),
    (box.proc? 1).any (fun p => coverGo box.dram p.root (0x10000 / 65536) 0 0x10000 == none && coverGo box.dram p.root (0x10000 / 65536) 0x40000000 0x40010000 == some []),
    readsAt box 0x30000 56 (fun bs _ => ((List.range 1).mapM (fun i => canonEntOf (fld bs (56 * i) 56))).isSome),
    readsAt (put8 box 0x30000 (2 ^ 34)) 0x30000 56 (fun bs _ => bits (ofLe bs) 63 34 != 0),
    readsAt (put8 box 0x30000 2) 0x30000 56 (fun bs _ => bits (ofLe bs) 63 34 == 0 && bits (ofLe bs) 95 80 == 0 && bits (ofLe bs) 255 243 == 0 && bits (ofLe bs) 31 0 % 4 == 2),
    [(0x22002, 1#8), (0x22008, 1#8), (0x22000, 0#8)].all (fun x => readsAt { queued 1 [] with dram := (queued 1 []).dram.writeBytes x.1 [x.2] } 0x22000 16 (fun bs _ =>
      let e := ofLe bs
      (bits e 31 16 != 0) == (x.1 == 0x22002) && (bits e 127 64 % 8 != 0) == (x.1 == 0x22008) && (bits e 15 0 == 0) == (x.1 == 0x22000))) && partBad box 8 == some 0x02,
    (let s : State := { box with fw := [fwOp 1 0x24000 (.ended kernelTag 0)] }; (s.grid? kernelTag).isNone && s.alive kernelTag && s.inUse 0 && !box.alive kernelTag),
    decide (64 % 64 = 0 ∧ (1 : Nat) ≤ 65536 ∧ 65536 < 65537 ∧ 65 % 64 ≠ 0),
    (boxed.grid? kernelTag).isSome && (box.grid? kernelTag).isNone && ({ box with imageTags := [kernelTag] } : State).imageTags.contains kernelTag && !box.imageTags.contains kernelTag,
    (let rec_ : Nat := 1 + 8 * 2 ^ 8 + 2 ^ 16 + 0xFFFF * 2 ^ 32 + 0x22000 * 2 ^ 64 + 2 ^ 128
     [(queued 1 [], true), (box, false)].all (fun x => decide (rec_ < 2 ^ 256) && partBad x.1 rec_ == none && readsAt x.1 (bits rec_ 127 64) 16 (fun bs _ =>
       let e := ofLe bs
       decide (bits e 127 64 % 8 = 0 ∧ bits e 31 16 = 0 ∧ bits e 15 0 ≠ 0 ∧ 10000 ≤ bits e 63 32) == x.2)) && partBad box 0 == some 0x0B)] = true := by decide +kernel
/-- Instruments: a grid and none, its record, the sampler before and at its period, sites within and beyond eight, a detach, a
resume whose image is not one. -/
theorem test_meets_Instruments : ok [
    (boxed.grid? kernelTag).isSome && (box.grid? kernelTag).isNone && readsAt boxed 0x30000 256 (fun _ _ => true),
    (let s := boxed fun g => { g with lcrec := some ⟨0x30000, List.replicate 16 (0, 0), List.replicate 80 0, 0, 0, true⟩ }; (s.grid? kernelTag).any (fun g => g.lcrec.isSome) && s.kept.isEmpty && s.slots.isEmpty),
    [[], [{ (default : FaultRec) with code := 1 }]].all (fun r => (boxed (fun g => { g with faults := r })).grids.all (fun g => g.faults == r)),
    [true, false].all (fun b => let s := boxed (fun g => { g with dbg := some ⟨[], [], []⟩ }) (t := [{ (default : Team) with tag := kernelTag, resident := true, stopped := b }])
      (s.images.find? (fun i => i.1 == kernelTag)).isNone && (s.grid? kernelTag).any (fun g => g.dbg.isSome && g.faults.isEmpty && !g.killed && g.ser.isNone) &&
        s.teams.any (fun u => u.tag == kernelTag && u.stopped) == b),
    decide ((4 : Nat) < 0 + 5) && decide (0 + 5 ≤ 5) && decide (8 < (List.replicate 9 ()).length),
    (let s : State := { box with images := [(kernelTag, 0x30000, 256)], kept := [{ (default : Kept) with tag := kernelTag, proc := 1, cause := 5 }] }
     (s.images.find? (fun i => i.1 == kernelTag)).any (fun i => (s.kept.find? (fun k => k.tag == kernelTag && k.cause == 5)).any (fun k => s.fw.isEmpty &&
       (s.imageBytes k.proc i).1.any (fun bs => match s.replantWhole bs k.part with | (some (.error 0x10), _) => true | _ => false))))] = true := by decide +kernel
def resumable : State := { plantable with
  images := [(kernelTag, 0x30000, 512)]
  kept := [{ (default : Kept) with tag := kernelTag, proc := 1, cause := 5 }] }
/-- Instruments: a resume whose image is planted. -/
theorem test_meets_Instruments_resume :
    resumable.images.find? (fun i => i.1 == kernelTag) = some (kernelTag, 0x30000, 512) ∧
    resumable.kept.find? (fun k => k.tag == kernelTag && k.cause == 5) = some { (default : Kept) with tag := kernelTag, proc := 1, cause := 5 } ∧ resumable.fw = [] ∧
    (resumable.imageBytes 1 (kernelTag, 0x30000, 512)).1 = some (plantable.dram.readBytes 0x30000 512) ∧
    ∃ r, ((resumable.imageBytes 1 (kernelTag, 0x30000, 512)).2.replantWhole (plantable.dram.readBytes 0x30000 512) (default : Kept).part).1 = some (.ok r) := by
  have h : ∃ r, (resumable.imageBytes 1 (kernelTag, 0x30000, 512)).2.replantBytes (plantable.dram.readBytes 0x30000 512) (default : Kept).part = .ok r :=
    replant_of_plants (by decide +kernel) (by decide +kernel) (by decide +kernel) (image_crc.trans (by decide +kernel)) (by decide +kernel)
  exact ⟨by decide +kernel, by decide +kernel, rfl, by decide +kernel,
    h.elim fun r hr => ⟨r, replantWhole_of_reds (b := some true) hr (by decide +kernel)⟩⟩
/-- Management: the bounds of a way mask, of a die, a slice and a partition; a link; the phases; a record that R342 does not admit.
Whether a record is verified rests on free values (log 5). -/
theorem test_meets_Management : ok [
    decide (0 < Config.dies ∧ 383 < Config.slicesPerDie ∧ 7 < 8 ∧ 1 ≤ 0xFFFF), (box.links[17]?).isSome, box.mgmt.phase == .running, State.reset.mgmt.phase == .boot,
    !configOk 0, configOk box.mgmt.record.toNat] = true := by decide +kernel
def header (type dst addr : Nat) (more : Nat := 0) : Nat := type + 3 * 2 ^ 4 + dst * 2 ^ 12 + 9 * 2 ^ 20 + addr * 2 ^ 56 + more
/-- Links: requests that are dropped, sent on, refused and performed; answers of each use and bad ones; expiries before and at their
limit; a link of each role; a neighbour that is lost, and the device itself. -/
theorem test_meets_Links : ok [
    [1, 2, 3, 4].all (fun ty => State.reset.route 0 ty (header ty 0 0x40000) == .drop && box.route 0 ty (header ty 5 0x40000) == .drop && box.carries 0 &&
      ({ box with reach := [5] } : State).route 0 ty (header ty 5 0x40000) == .forward && box.route 0 ty (header ty 0 0x40000) == .here 0x40000 &&
      requestOk ty (header ty 0 0x40000) && box.admits 3 &&
      box.route 0 ty (header ty 0 (2 ^ 46)) == .fail 1 && box.route 0 ty (header ty 0 (2 ^ 54)) == .fail 1 && !box.admits 2 && box.route 0 ty (header ty 0 0x40000 - 2 ^ 4) == .fail 5),
    box.route 0 1 (header 1 0 0x40000 (2 ^ 112)) == .fail 6 && (box.owner? (.dram 0x40000)).isNone && box.jobs.isEmpty && !box.poisoned (.dram 0x40000) 64 &&
      ({ box with poison := [(.dram 0x40000)] } : State).poisoned (.dram 0x40000) 64,
    decide (bits (header 8 0 0 (2 ^ 312)) 511 312 ≠ 0 ∧ bits (header 9 0 0 (2 ^ 312)) 511 312 ≠ 0),
    [TxnFor.fill 7 3, .line 0x40000, .access 7].all (fun w =>
      let s : State := { boxed with txns := [⟨9, w, 0x40000, 0⟩], accs := [{ anAccess with kind := .store }] }
      (s.job? 7).isNone && s.carries 0 && answerOk 8 (header 8 0 0) && answerOk 9 (header 9 0 0 (2 ^ 304)) && answerOk 9 (header 9 0 0 (6 * 2 ^ 304)) && s.fw.isEmpty &&
        (headerOf (header 8 0 0)).dst == s.fabric && !(headerOf (header 8 0 0)).host && (s.txns.find? (fun t => t.tid == (headerOf (header 8 0 0)).tid)).isSome &&
        s.accs.find? (fun a => a.id == 7) == some { anAccess with kind := .store } && (s.grid? kernelTag).isSome && (s.group? kernelTag 0 0).isSome),
    decide (0 < 0 + box.linkLimit ∧ 0 + box.linkLimit ≤ 1000 ∧ 0 < 0 + box.wdLimit ∧ 0 + box.wdLimit ≤ 10000),
    (let s : State := { box with adapter := [(9, ⟨header 1 0 0, 0⟩)] }; s.adapter.find? (fun x => x.1 == 9) == some (9, ⟨header 1 0 0, 0⟩) && (headerOf (header 1 0 0)).src != s.fabric),
    ({ box with links := [⟨2, 0, 0, true, 0⟩] } : State).route 0 1 (header 1 0 (2 ^ 54)) == .adapter, !box.mgmt.lost.contains 3 && ({ box.mgmt with lost := [3] } : Mgmt).lost.contains 3,
    (box.links[1]?).any (fun l => l.role == 1 && l.peer == 3) && (box.links[0]?).any (·.up) && box.links.any (fun l => l.role == 1 && l.up),
    (let s : State := { box with links := [⟨1, 3, 0, false, 0⟩, ⟨2, 0, 0, true, 0⟩], time := 1000 }; s.deadPeers == [3] && s.links.any (·.up)),
    (let s : State := { box with links := [⟨1, 3, 0, false, 0⟩, ⟨2, 0, 0, false, 0⟩], time := 1000 }; s.links.all (fun l => !l.up && decide (l.downAt + s.linkLimit ≤ s.time)))] = true := by decide +kernel
def aJob : Job := { (default : Job) with id := 7, proc := 1, area := 0x40000000000, slot := 256 }
def aFill : Fill := { (default : Fill) with id := 3 }
/-- The header of a job record of two devices. -/
def jobHd : Nat := 2 + 2 ^ 32 + 2 ^ 48 + 0x40000 * 2 ^ 64 + 256 * 2 ^ 128
/-- Jobs: a table of two members that are partners, one whose partners are not members, headers and tables refused for each reason, a
process with a job at rest and in a point; a point of a grid, taken and not, one that must wait; a rollback without a point and with one; a fill with another left. -/
theorem test_meets_Jobs : ok [
    (let tab (p : Nat) : State := { box with dram := (box.dram.writeN 0x30000 32 jobHd).writeN 0x30020 8 (p * 2 ^ 8 + (1 + 0 * 2 ^ 8) * 2 ^ 32) }
     [1, 2].all (fun p => match (tab p).devRead 1 0x30000 32 with
       | (.ok hd, u) => (let h := ofLe hd
         bits h 15 0 == 2 && bits h 127 64 % 64 == 0 && bits h 191 128 == 256 && bits h 47 32 == 1 && bits h 63 49 == 0 && bits h 255 192 == 0 &&
         (match u.devRead 1 0x30020 8 with
          | (.ok bs, v) => let devs := (List.range 2).map (fun i => fld bs (4 * i) 4); !devs.any memberBad && partnersOk (devs.map memberOf) == (p == 1) && v.useLines.pdomsOk (h.testBit 48) (devs.map memberOf)
          | _ => false))
       | _ => false)),
    (let s := { box with dram := ((box.dram.writeN 0x30000 32 (2 + 2 ^ 16 + 2 ^ 32 + 0x40000 * 2 ^ 64 + 256 * 2 ^ 128)).writeN 0x30028 8 1) }
     readsAt s 0x30020 40 (fun bs _ => decide (bits (fld bs 8 32) 63 0 % 65536 ≠ 0))),
    [(jobHd + 2 ^ 49, 0), (jobHd + 2 ^ 64, 1), (jobHd - 1, 2)].all (fun x => readsAt { box with dram := box.dram.writeN 0x30000 32 x.1 } 0x30000 32 (fun bs _ =>
      let h := ofLe bs
      (bits h 63 49 != 0 || bits h 255 192 != 0) == (x.2 == 0) && (bits h 127 64 % 64 != 0 || bits h 191 128 % 64 != 0) == (x.2 == 1) &&
        (decide (bits h 15 0 < 2) || decide (256 < bits h 15 0) || bits h 47 32 == 0 || decide (bits h 191 128 < 256)) == (x.2 == 2))),
    [(0, 2 ^ 128, 0), (2 ^ 17, 2 ^ 128, 1), (0, 2 ^ 128 + 2 ^ 130, 1), (0, 2 ^ 128 + 1, 2), (0, 0, 3)].all (fun x =>
      readsAt { box with dram := (box.dram.writeN 0x30020 8 (2 ^ 8 + 2 ^ 32 + x.1)).writeN 0x30028 32 x.2.1 } 0x30020 40 (fun bs _ =>
        let devs := (List.range 2).map (fun i => fld bs (4 * i) 4)
        let ten := fld bs 8 32
        (devs.any (fun y => bits y 31 17 != 0) || bits ten 137 130 != 0 || bits ten 255 154 != 0) == (x.2.2 == 1) && (bits ten 63 0 % 65536 != 0) == (x.2.2 == 2) &&
          tensorBad ten == (x.2.2 == 3) && partnersOk (devs.map memberOf) && box.pdomsOk true (devs.map memberOf))),
    [none, some 4].all (fun k => ({ box with jobs := [{ aJob with id := 1, taking := k }] } : State).jobs.find? (fun x => x.proc == bits jobHd 47 32) == some { aJob with id := 1, taking := k }),
    (({ box with jobs := [{ aJob with recovering := true }] } : State).job? 7).any (·.recovering),
    (let s : State := { boxed with jobs := [aJob] }
     (box.job? 7).isNone && (s.job? 7).any (fun j => j.taking.isNone && j.fills.isEmpty && s.fw.isEmpty && !s.isSpare j && !j.recovering && (s.heldImages j.proc).1.isEmpty && decide ((s.heldImages j.proc).2 = s) && decide ((s.grids.map (·.tag)).Nodup) &&
       s.areas.isEmpty && s.grids.all (fun g => g.proc == j.proc && g.faults.isEmpty && !g.killed && g.ser.isNone) && !s.grids.isEmpty && j.complete.isNone)),
    [(none, false), (some 4, false), (some 4, true)].all (fun x => ({ box with jobs := [{ aJob with taking := x.1, finished := x.2 }] } : State).job? 7 == some { aJob with taking := x.1, finished := x.2 }),
    (let s : State := { boxed with jobs := [{ aJob with complete := some 2 }] }
     (s.job? 7).any (fun j => j.complete == some 2 && j.lost.isEmpty && j.carriers.isEmpty && j.fills.isEmpty && !j.recovering) && s.txns.isEmpty && decide ((s.grids.map (·.tag)).Nodup)),
    (box.job? 7).isNone && (({ box with jobs := [aJob] } : State).job? 7).any (fun j => j.complete.isNone) &&
      (({ box with jobs := [{ aJob with complete := some 2 }], txns := [⟨9, .line 0x40000, 0x40000, 0⟩] } : State).job? 7).any (fun j => j.complete.isSome),
    (({ aJob with members := [⟨3, 4, false⟩] } : Job).members.filter (fun m => m.dev != 3)).isEmpty,
    (let j : Job := { aJob with fills := [aFill, { aFill with id := 4 }] }
     box.fw.isEmpty && aFill.tensor.len == aFill.done && ({ box with jobs := [{ aJob with fills := [{ aFill with tensor := { aFill.tensor with len := 64 } }] }] } : State).jobs.any (fun j => j.fills.any (fun f => decide (f.done < f.tensor.len))) &&
     !aFill.mine && ({ aJob with fills := [{ aFill with mine := true }] } : Job).fills.find? (fun f => f.id == 3) == some { aFill with mine := true } &&
     j.fills.find? (fun f => f.id == 3) == some aFill && !(j.fills.filter (fun g => decide (g.id ≠ 3))).isEmpty)] = true := by decide +kernel
def aHart (x : List (Nat × DWord)) : Hart := { Hart.reset with proc := 1, x := x }
def harted (s : State) (h : Hart) : State := { s with harts := h :: List.replicate 3 Hart.reset }
/-- QueueProcessors: each custom instruction with its hypotheses, and with each that its exception names. -/
theorem test_meets_QueueProcessors : ok [
    (box.hart? box.hartNum).isSome && !checkHart 0 ⟨1, 0, 0, 0⟩ && !checkHart 1 ⟨2, 0, 0, 0⟩ && !checkHart 2 ⟨3, 0, 0, 0⟩ && !checkHart 3 ⟨1, 0, 0, 0⟩ && checkHart 1 ⟨1, 6, 5, 10⟩,
    decide (bits (64 * 2 ^ 8 + 63) 14 8 ≤ 64 ∧ 64 < bits (65 * 2 ^ 8) 14 8 ∧ 1 % 64 ≠ 0 ∧ 1 % 8 ≠ 0),
    [(0, 0), (1, 0), (17, 1)].all (fun x => let s := queued 1 []
      match ({ s with dram := s.dram.writeN 0x20010 4 x.1 } : State).devRead 1 0x20000 64 with
      | (.ok qb, u) => (let d := descOf (ofLe qb); (d.wr + 2 ^ 32 - d.rd) % 2 ^ 32 == x.1 && (decide (2 ^ d.log2 < x.1) == (x.2 == 1)) &&
          [(u, 0), ({ u with poison := [(.dram 0x21000)] }, 1), ({ u with declined := [(1, 2 ^ 40)] }, 2)].all (fun y =>
            match y.1.devRead d.proc (if y.2 = 2 then 2 ^ 40 else d.slot d.rd) 64 with | (.ok _, _) => y.2 == 0 | (.ecc _, _) => y.2 == 1 | (.bad _, _) => y.2 == 2 | _ => false))
      | _ => false),
    (match box.devRead 1 0x24000 8 with | (.ok bs, _) => stallOver 0 (ofLe bs) 0 && !stallOver 0 (ofLe bs) 1 | _ => false),
    (let s := harted box { aHart [] with stall := some ⟨10, 0x24000, 0, 1⟩ }; (s.hart? 0).any (fun x => x.stall.isSome && x.pending == 0#64) && readsAt s 0x24000 8 (fun bs _ => !stallOver 0 (ofLe bs) 1 && stallOver 0 (ofLe bs) 0)),
    (let h : Hart := { aHart [] with medeleg := 4#64, mode := 1 }; h.delegated false 2 && !(aHart []).delegated false 2),
    (let s := harted (queued 1 []) { aHart [(11, 0)] with buf := Memory.writeN [] 0 64 aLaunchN, slotProc := [(0, 1)], slotDesc := [(0, 0x20000)] }
     (s.hart? 0).any (fun x => cmdType (x.buf.readN 0 64) == 1 && (match s.checkLaunch 1 0 true aLaunchN with | (.ok _ _ _, v) => (v.part? 0).isSome | _ => false) &&
       (match s.checkLaunch 1 0 true (aLaunchN + 2 ^ 39) with | (.bad _ _, _) => true | _ => false)) && cmdType (Memory.readN [] 0 64) != 1),
    (let h : Hart := { aHart [(11, 0)] with buf := Memory.writeN [] 0 64 aLaunchN, slotProc := [(0, 1)], slotDesc := [(0, 0x20000)] }
     let full := harted { queued 1 [] with grids := List.replicate 64 { boxGrid with part := 0 } } h
     (match full.checkLaunch 1 0 true aLaunchN with | (.ok _ _ _, v) => decide (64 ≤ (v.grids.filter (fun g => g.part == 0 && g.proc == 1)).length) | _ => false) &&
       (match (harted { queued 1 [] with parts := [] } h).checkLaunch 1 0 true aLaunchN with | (.ok _ _ _, v) => (v.part? 0).isNone | _ => false)),
    [({ box with declined := [(1, 2 ^ 40)] }, (2 ^ 40, 1)), ({ box with poison := [(.dram 0x24000)] }, (0x24000, 2))].all (fun (x : State × Nat × Nat) =>
      match x.1.devRead 1 x.2.1 8 with | (.bad _, _) => x.2.2 == 1 | (.ecc _, _) => x.2.2 == 2 | _ => false),
    (let m := box.mgmt; ({ box with mgmt := { m with powerStopped := true } } : State).mgmt.powerStopped)] = true := by decide +kernel
/-- IssueSets: an EXIT with a result of its lane 0 outstanding; a set that the kernel check stops (an atomic of a
deterministic kernel, a claim without a dispenser, a tile that the kernel has not, tile 16); a poisoned source register. -/
theorem test_meets_IssueSets : ok [
    issuesBy (place [0x00A00000]) (fun v opc f _ =>
      let w : State := { v with results := [{ (default : Result) with id := 7, tag := kernelTag, lanes := 1#64 }] }
      w.outstanding w.cur.tag w.cur.team w.cur.grp 0 && (drainFirst w opc f).cur.mask == 0xFE#64 && opc == 0x05),
    [(([0x97080902, 0x05F0FE0D, 0] : List Word), { placedKcb with det := true }, 0x0F), ([0x9E80C4C2, 0xF0F0FE00, 0], placedKcb, 0x01),
      ([0x9C4001F0, 0xF0F0FE00, 0], placedKcb, 0x02)].all (fun x => issuesBy (place x.1 (g := fun g => { g with kcb := x.2.1 })) (fun v opc f e =>
        decide ((drainFirst v opc f).groups = v.groups) && decide ((drainFirst v opc f).cur = v.cur) && e.mask != 0#64 &&
        e.kernelCheck == some x.2.2 && !(e.faultable e.perf).isEmpty)),
    [(15, none), (16, some 0x02)].all (fun x => ({ placedKcb with tiles := List.replicate 16 (16, 16, true) } : Kcb).check 0xE2 (fx x.1 240 240 240 0) == x.2),
    issuesBy (place [0x84610802, 0x04F0FE00, 0] (x := fun g => { g with lanes := g.lanes.map (fun l => { l with spoilt := [4] }) })) (fun v opc f e =>
      decide ((drainFirst v opc f).groups = v.groups) && decide ((drainFirst v opc f).cur = v.cur) && e.mask != 0#64 && e.kernelCheck.isNone &&
      !((e.faultable e.exec).filter e.spoilt).isEmpty)] = true := by decide +kernel
/-- What the group whose turn it is does with its set. -/
def turning (s : State) (p : State → Grid → Group → LaneMask → Lane → Bool) : Bool := match s.nextAct with
  | (.issue a b c, u) => (u.grid? a).any (fun gr => (u.group? a b c).any (fun g => u.mayTurn g && match u.primary gr g with
    | some (m, k) => p u gr g m k
    | none => false))
  | _ => false
/-- StepRunsDecoded: a set whose code page is missing, one whose page the host declined, run-time code with a result outstanding, and a
second set that waits for its page. -/
theorem test_meets_StepRunsDecoded : ok [
    (let lost : State := place [0x00A00000] (x := fun g => { g with lanes := g.lanes.map (fun l => { l with pc := 0x40000000#64 }) })
     turning lost (fun u gr g m k => match u.fetchIns gr g m k with | .error (.wait _) => true | _ => false) &&
     turning { lost with declined := [(0, 0x40000000), (1, 0x40000000)] } (fun u gr g m k => match u.fetchIns gr g m k with | .error (.done _) => true | _ => false)),
    (let s := place [0x00A00000]
     turning { s with results := [{ (default : Result) with id := 7, tag := kernelTag, lanes := 1#64 }],
                      runcode := [{ proc := (s.grids.headD default).proc, va := 0x10000, len := 65536, base := 0, canon := [] }] } (fun u gr g m k =>
       match u.fetchIns gr g m k with | .ok _ => u.mustDrain gr g m k == 1#64 | _ => false)),
    (let s := place [0x84610802, 0x04F0FE00, 0] (x := fun g => { g with lanes := g.lanes.modify 0 (fun l => { l with pc := 0x40000000#64 }) })
     turning s (fun u gr g m k => match u.fetchIns gr g m k with
       | .ok (i, len) => (match u.begin_ gr g m k i len with | .run _ j => (u.pairWait gr g k j).isSome | _ => false)
       | _ => false))] = true := by decide +kernel
/-- IssueSets: a group whose primary and second set exist. StepRunsDecoded: the placed RET, and a queue processor's word. RoundTrip:
the words of the families. -/
theorem test_meets_machine : ok [
    (let s := place [0x00A00000] (x := fun g => { g with lanes := g.lanes.modify 0 (fun l => { l with pc := 0x10004 }) })
     (s.grid? kernelTag).any (fun gr => (s.group? kernelTag 0 0).any (fun g => match s.primary gr g with
       | some (m, k) => m == 0xFE#64 && k.pc == 0x10000 && (s.secondSet gr g k).any (fun x => x.1 == 1#64)
       | none => false))),
    (let s := place [0x00A00000]
     match s.nextAct with
     | (.issue a b c, u) => (u.grid? a).any (fun gr => (u.group? a b c).any (fun g => u.mayTurn g && g.lanes.all (fun l => !l.cold) && (match u.primary gr g with
       | some (m, k) => (match u.fetchWords (u.coreOf a b) gr.proc k.pc.toNat 1 with
         | .ok [w0] => (match u.fetchWords (u.coreOf a b) gr.proc k.pc.toNat (instrLen w0 / 4) with
           | .ok ws => (match decode ws with | .ok (i, _) => (u.runOf gr.proc k.pc.toNat).isNone && (u.pairWait gr g k i).isNone && (endsOf (g.pick m) k.pc i).isEmpty | _ => false)
           | _ => false)
         | _ => false)
       | none => false)))
     | _ => false),
    (let s : State := { State.reset with agenda := [.ev .powerLimitStop] }
     (match s.nextAct with | (.ev i, _) => !i.encoded && !isService i | _ => false)),
    (let s := State.reset.withFetchWord 32 0x00C5850B; (s.hart? 0).any (fun h => h.stall.isNone && (decodeHart (BitVec.ofNat 32 (s.readNAt (.dram h.pc.toNat) 4))).isSome)),
    Instr.encoded .powerLimitStop == false, (Instr.exit false).wf && (Instr.exit false).encoded, (Instr.rfetch ⟨0, 12, 11, 10⟩).wf,
    (match step (place [0x00A00000]) with | .next _ => true | _ => false)] = true := by decide +kernel


end Sys2Proof.Tests
end

section
/-! SUPPORT. Division, the bitwise instructions, bit counts and reversal (R141, R145, R147): what each value rule computes, bit by
bit, and the statements of those instructions. -/

namespace Sys2Proof.Machine

/-! ### What the checks admit of SUB -/

/-- Fields that pass the checks of an opcode have a SUB that its entry admits (R120). -/
theorem subOk_of_checkW {opc : Nat} {f : Fields} {n : Entry} (he : entry opc = some n) (h : checkW opc f = none) :
    n.subOk f.sub.toNat = true := by
  cases hs : n.subOk f.sub.toNat with
  | true => rfl
  | false =>
    have hc : checkFields opc f = some .opcode := by simp [checkFields, he, hs]
    simp [checkW, hc] at h
theorem subOp_of_subSet_one {w z : Bool} {n : Nat} (h : subSet w z 1 n = true) : subOp n = 0 := by
  have hn : subOp n < 1 := of_decide_eq_true (Bool.and_eq_true_iff.1 h).2
  omega
/-- An entry that admits one operation, with W and Z free, leaves OP = 0 to a well-formed instruction of its opcode. -/
theorem subOp_of_wf {i : Instr} {o : BitVec 8} {f : Fields} (hr : rawOf i = some (.w o f))
    (he : (entry o.toNat).map Entry.subOk = some (subSet true true 1)) (h : i.wf = true) : subOp f.sub.toNat = 0 := by
  obtain ⟨n, hn, hs⟩ := Option.map_eq_some_iff.1 he
  have hc : checkW o.toNat f = none := by simpa [Instr.wf, hr, Raw.check] using h
  exact subOp_of_subSet_one (hs ▸ subOk_of_checkW hn hc)

/-! ### Division (R141) -/

/-- Settles O3: the quotient and the remainder are what the rule gives, each as one outstanding result. -/
theorem division : Obligations.Division :=
  ⟨completesLater idivFn (fun _ _ => rfl) (fun _ => rfl), completesLater iremFn (fun _ _ => rfl) (fun _ => rfl)⟩

/-! ### Bitwise operations (R145) -/

/-- ANDN takes the complement of b at the width. -/
theorem testBit_and_complement {w b i : Nat} (a : Nat) (hb : b < 2 ^ w) (hi : i < w) :
    (a &&& (2 ^ w - 1 - b)).testBit i = (a.testBit i && !b.testBit i) := by
  have hc : (2 ^ w - 1 - b).testBit i = !b.testBit i := by
    rw [Nat.sub_sub, Nat.add_comm 1 b, Nat.testBit_two_pow_sub_succ hb]
    simp [hi]
  rw [Nat.testBit_and, hc]

/-- The B and X forms of an instruction whose value is an operation on numbers, kept at the width, complete with a value that is
the operation on bits. -/
theorem bitwise_completes {b : BFields → Instr} {x : Fields → Instr} {opc : Nat} (op : Bool → Bool → Bool) (nat : Env → Nat → Nat → Nat)
    (hb : ∀ g s, exec (b g) s = .next (issueB s opc g (fixed fun e => bitwFn (nat e) e)))
    (hx : ∀ f s, exec (x f) s = .next (issue s opc f (fixed fun e => bitwFn (nat e) e)))
    (hop : ∀ e : Env, ∀ l ∈ e.exec, ∀ i < e.wid,
      (nat e (e.uA l) (e.uB l)).testBit i = op ((e.uA l).testBit i) ((e.uB l).testBit i))
    (hz : ∀ f, (x f).wf = true → subOp f.sub.toNat = 0) :
    ∃ d : Env → Nat → Nat,
      (∀ e, ∀ l ∈ e.exec, d e l < 2 ^ e.wid ∧ ∀ i < e.wid, (d e l).testBit i = op ((e.uA l).testBit i) ((e.uB l).testBit i)) ∧
      CompletesFixedB b opc (fun e l => e.gives l (subSpan e.sub) (d e l)) ∧
      CompletesFixed x opc (fun e l => e.gives l (subSpan e.sub) (d e l)) ∧ ∀ f, (x f).wf = true → subOp f.sub.toNat = 0 := by
  refine ⟨fun e l => nat e (e.uA l) (e.uB l) % 2 ^ e.wid, fun e l hl => ⟨Nat.mod_lt _ (Nat.two_pow_pos _), fun i hi => ?_⟩,
    completesFixedB _ hb (fun _ => rfl) (fun e l => e.gives_distinct _ _ _ _),
    completesFixed _ hx (fun _ => rfl) (fun e l => e.gives_distinct _ _ _ _), hz⟩
  simp [Nat.testBit_mod_two_pow, hi, hop e l hl i hi]

/-- Settles O6: Lean's operations on numbers are bit by bit; the complement that ANDN takes is one at the width. -/
theorem bitwise : Obligations.Bitwise :=
  ⟨bitwise_completes (· && ·) (fun _ => (· &&& ·)) (fun _ _ => rfl) (fun _ _ => rfl) (fun _ _ _ _ _ => Nat.testBit_and _ _ _)
      (fun _ => subOp_of_wf rfl rfl),
    bitwise_completes (· || ·) (fun _ => (· ||| ·)) (fun _ _ => rfl) (fun _ _ => rfl) (fun _ _ _ _ _ => Nat.testBit_or _ _ _)
      (fun _ => subOp_of_wf rfl rfl),
    bitwise_completes xor (fun _ => (· ^^^ ·)) (fun _ _ => rfl) (fun _ _ => rfl) (fun _ _ _ _ _ => Nat.testBit_xor _ _ _)
      (fun _ => subOp_of_wf rfl rfl),
    bitwise_completes (fun a b => a && !b) (fun e a b => a &&& (2 ^ e.wid - 1 - b)) (fun _ _ => rfl) (fun _ _ => rfl)
      (fun e _ hl _ hi => testBit_and_complement _ (Env.uB_lt (e := e) hl) hi) (fun _ => subOp_of_wf rfl rfl)⟩

/-! ### Bit counts and reversal (R147) -/

/-- A 32-bit result is one register of its value. -/
theorem Env.wr32_eq_gives (e : Env) (l v : Nat) : e.wr32 l v = e.gives l 1 v := by
  simp [Env.wr32, Env.gives, Env.wrD]

theorem popcount_eq_countP (w u : Nat) : popcount w u = (List.range w).countP (fun i => u.testBit i) := by
  unfold popcount
  induction w with
  | zero => rfl
  | succ w ih => rw [forN_succ, ih, List.range_succ, List.countP_append, List.countP_singleton]; rfl

theorem clzVal_le (w u : Nat) : clzVal w u ≤ w := by
  unfold clzVal; split <;> omega
/-- The bits above the highest 1 are 0. -/
theorem testBit_of_clzVal_le {w u i : Nat} (hu : u < 2 ^ w) (h : w - clzVal w u ≤ i) : u.testBit i = false := by
  unfold clzVal at h
  split at h
  · next h0 => rw [h0, Nat.zero_testBit]
  · next h0 =>
    have hw : u.log2 < w := (Nat.log2_lt h0).2 hu
    exact Nat.testBit_lt_two_pow ((Nat.log2_lt h0).1 (by omega))
/-- Below the leading zeros stands the highest 1. -/
theorem testBit_clzVal {w u : Nat} (hu : u < 2 ^ w) (h : clzVal w u < w) : u.testBit (w - 1 - clzVal w u) = true := by
  unfold clzVal at h ⊢
  split at h
  · omega
  · next h0 =>
    have hw : u.log2 < w := (Nat.log2_lt h0).2 hu
    rw [if_neg h0, show w - 1 - (w - 1 - u.log2) = u.log2 by omega]
    exact Nat.testBit_log2 h0

/-- CTZ finds the lowest 1 below the width, or there is none and it gives the width. -/
theorem ctzVal_cases (w u : Nat) :
    (ctzVal w u = w ∧ ∀ i < w, u.testBit i = false) ∨
    (ctzVal w u < w ∧ u.testBit (ctzVal w u) = true ∧ ∀ i < ctzVal w u, u.testBit i = false) := by
  unfold ctzVal
  cases hf : (List.range w).find? (fun i => bit u i) with
  | none =>
    rw [List.find?_range_eq_none] at hf
    exact Or.inl ⟨rfl, fun i hi => by simpa [bit] using hf i hi⟩
  | some n =>
    obtain ⟨hn, hm, hlow⟩ := List.find?_range_eq_some.1 hf
    exact Or.inr ⟨List.mem_range.1 hm, hn, fun i hi => by simpa [bit] using hlow i hi⟩

/-- A reversal with one place more is twice as much, as long as only the bits below the old width are placed. -/
theorem forN_reverse_double (b : Nat → Nat) (w n : Nat) (h : n ≤ w) :
    forN n (fun i d => d + b i * 2 ^ (w + 1 - 1 - i)) 0 = 2 * forN n (fun i d => d + b i * 2 ^ (w - 1 - i)) 0 := by
  induction n with
  | zero => rfl
  | succ n ih =>
    have hp : w + 1 - 1 - n = w - 1 - n + 1 := by omega
    rw [forN_succ, forN_succ, ih (Nat.le_of_succ_le h), hp, Nat.pow_succ, Nat.mul_add, ← Nat.mul_assoc, Nat.mul_comm 2 (b n * _)]
/-- Reversal at one more bit: what was reversed moves up, and the new bit comes lowest. -/
theorem brevVal_succ (w u : Nat) : brevVal (w + 1) u = 2 * brevVal w u + b2n (u.testBit w) := by
  unfold brevVal
  rw [forN_succ, forN_reverse_double (fun i => b2n (bit u i)) w w (Nat.le_refl w), Nat.add_sub_cancel, Nat.sub_self, Nat.pow_zero,
    Nat.mul_one, bit]
theorem b2n_le_one (b : Bool) : b2n b ≤ 1 := by cases b <;> decide
theorem brevVal_lt (w u : Nat) : brevVal w u < 2 ^ w := by
  induction w with
  | zero => exact Nat.zero_lt_one
  | succ w ih =>
    have hb := b2n_le_one (u.testBit w)
    rw [brevVal_succ, Nat.pow_succ]
    omega
theorem testBit_brevVal {w u i : Nat} (h : i < w) : (brevVal w u).testBit (w - 1 - i) = u.testBit i := by
  induction w with
  | zero => exact absurd h (Nat.not_lt_zero i)
  | succ w ih =>
    rw [brevVal_succ, Nat.add_sub_cancel]
    rcases Nat.lt_succ_iff_lt_or_eq.1 h with hlt | rfl
    · have hb := b2n_le_one (u.testBit w)
      have hhalf : (2 * brevVal w u + b2n (u.testBit w)) / 2 = brevVal w u := by omega
      rw [show w - i = w - 1 - i + 1 by omega, Nat.testBit_succ, hhalf, ih hlt]
    · rw [Nat.sub_self, Nat.testBit_zero]
      cases u.testBit i <;> simp [b2n]

/-- The instructions of one source and one operation, by their opcodes. -/
theorem subOp_of_wf_bitCounts : ∀ i ∈ [Instr.popc, .clz, .ctz, .brev], ∀ f, (i f).wf = true → subOp f.sub.toNat = 0 := by
  simp only [List.forall_mem_cons]
  exact ⟨fun _ => subOp_of_wf rfl rfl, fun _ => subOp_of_wf rfl rfl, fun _ => subOp_of_wf rfl rfl, fun _ => subOp_of_wf rfl rfl,
    fun _ h => absurd h List.not_mem_nil⟩

/-- An instruction whose result is one count in a 32-bit register completes with it. -/
theorem count_completes {i : Fields → Instr} {opc : Nat} {n : Nat → Nat → Nat} {m : Env → Nat → Nat}
    (hi : ∀ f s, exec (i f) s = .next (issue s opc f (fixed fun e l => e.wr32 l (n e.wid (e.uA l)))))
    (hn : ∀ e l, n e.wid (e.uA l) = m e l) : CompletesFixed i opc (fun e l => e.gives l 1 (m e l)) :=
  completesFixed _ hi (fun e => funext fun l => by rw [Env.wr32_eq_gives, hn]) (fun e l => e.gives_distinct _ _ _ _)

/-- Settles O7: the counts of `popcount`, `clzVal` and `ctzVal` and the reversal `brevVal` are those of the rule. -/
theorem bitCounts : Obligations.BitCounts := by
  refine ⟨subOp_of_wf_bitCounts, count_completes (n := popcount) (fun _ _ => rfl) (fun e l => popcount_eq_countP _ _), ?clz, ?ctz, ?brev⟩
  case clz =>
    refine ⟨fun e l => clzVal e.wid (e.uA l), fun e l hl => ?_, count_completes (n := clzVal) (fun _ _ => rfl) (fun _ _ => rfl)⟩
    exact ⟨clzVal_le _ _, fun i hi _ => testBit_of_clzVal_le (Env.uA_lt hl) hi, testBit_clzVal (Env.uA_lt hl)⟩
  case ctz =>
    refine ⟨fun e l => ctzVal e.wid (e.uA l), fun e l => ?_, count_completes (n := ctzVal) (fun _ _ => rfl) (fun _ _ => rfl)⟩
    rcases ctzVal_cases e.wid (e.uA l) with ⟨hw, hlow⟩ | ⟨hlt, hbit, hlow⟩
    · exact ⟨Nat.le_of_eq hw, fun i hi => hlow i (hw ▸ hi), fun h => absurd hw (Nat.ne_of_lt h)⟩
    · exact ⟨Nat.le_of_lt hlt, hlow, fun _ => hbit⟩
  case brev =>
    exact ⟨fun e l => brevVal e.wid (e.uA l), fun e l => ⟨brevVal_lt _ _, fun i => testBit_brevVal⟩,
      completesFixed brevFn (fun _ _ => rfl) (fun _ => rfl) (fun e l => e.gives_distinct _ _ _ _)⟩

end Sys2Proof.Machine
end
